-- ==== Sys2Proof/Word.lean ====
section
/-! DEFINITION. The part's word types: bytes, frame numbers, check sums. The part counts most things
(lines, pixels, milliseconds) as plain numbers, and those are `Nat`. -/

namespace Sys2Proof

/-- One byte of a frame, a record or Overlay Memory (R121, R160). -/
abbrev Byte := BitVec 8

/-- A 16-bit wrapping number: the frame number F (R49), a camera's sequence number (R69). -/
abbrev Word16 := BitVec 16

/-- A CRC-32 value (R132). -/
abbrev Word32 := BitVec 32

/-- A request tag, 0 to 15 (R160). -/
abbrev Tag := BitVec 4

end Sys2Proof
end

