-- ==== Sys2Proof/Syntax.lean ====
section
/-! DEFINITION. The commands of the VX-420: one constructor of `Instr` per row of
`spec/opcode_table.json`, with what the event brings with it. The request rows are steps of a port's
executor, which takes the head of that port's request queue (R164): the request's own fields stand in
the request frame, so those rows name the port only. -/

namespace Sys2Proof

/-- The three client ports (R160); ranks BODY 1, DETECT 2, CAB 3. -/
inductive Port where
  | body
  | detect
  | cab
  deriving DecidableEq, Repr, Inhabited

/-- A 24-bit colour, 8 bits for each channel (section 8.2). -/
structure Colour where
  red : Byte
  green : Byte
  blue : Byte
  deriving DecidableEq, Repr, Inhabited

/-- One line of a camera frame as the link carries it: its pixels, and whether the line check that came
with it matches them (section 4.3; the check's own rule is not given, log 18). -/
structure CameraLine where
  pixels : List Colour
  checkOk : Bool
  deriving DecidableEq, Repr

/-- How many bits of an Overlay Memory word are in error (R137, R138). -/
inductive BitError where
  | single
  | double
  deriving DecidableEq, Repr, Inhabited

/-- A word of Overlay Memory, numbered 0 to 32767 through the blocks, that has come to hold an error
since the last read: an event of the outside world (log 8). -/
structure Upset where
  word : Nat
  error : BitError
  deriving DecidableEq, Repr

/-- What a step that can fire a TOP and draw a line meets outside: the level of REC_HOLD (R157) and the
memory errors that have come about (log 8, log 25). -/
structure Surroundings where
  recHold : Bool
  upsets : List Upset
  deriving DecidableEq, Repr

/-- An event on an input's wiring or timer: its raw level changes, or its debounce timer expires (R90). -/
inductive InputEvent where
  | rawChange (n : Fin 8) (level : Bool)
  | debounceExpiry (n : Fin 8)
  deriving DecidableEq, Repr

/-- What a wake meets: what its TOP meets, and the input events that come together with the wake and are taken
after it, in RUN and before the first plan's view of the signals (R101; log 10). -/
structure Waking where
  out : Surroundings
  inputs : List InputEvent
  deriving DecidableEq, Repr

/-- The orders the specification leaves open inside one line's events (R53, R168, R174; log 10):
whether the markers age before the State Controller's test reads NEAR, whether a COMMIT event at the
same line is taken before that test, whether a strobe at the same line is, and whether a reply is posted
before the STATE_CHANGED raised at the same moment. -/
structure LineOrder where
  agingFirst : Bool
  commitFirst : Bool
  strobeFirst : Bool
  replyFirst : Bool
  deriving DecidableEq, Repr

/-- The commands. -/
inductive Instr where
  /-- DEVICE_RESET: RESET goes low or power comes up, with the levels of CAMPOP1 and CAMPOP0 (R175, R67). -/
  | deviceReset (campop : BitVec 2)
  /-- BOOT_START: the RESET pin rises (R175). -/
  | bootStart
  /-- BOOT_END: the Fitting Store has settled the record (R182). -/
  | bootEnd (out : Surroundings)
  /-- TRANSACTION_START: a select period begins on a port (R161). -/
  | transactionStart (p : Port)
  /-- TRANSACTION_END: a select period ends; the whole bytes the master clocked in (R162; log 12). -/
  | transactionEnd (p : Port) (bytes : List Byte)
  /-- UNKNOWN_KIND (R164). -/
  | unknownKind (p : Port)
  /-- IDENTIFY (R172). -/
  | identify (p : Port)
  /-- RESET_PORT (R171). -/
  | resetPort (p : Port)
  /-- SUBSCRIBE (R170). -/
  | subscribe (p : Port)
  /-- READ_LAYER (R23). -/
  | readLayer (p : Port)
  /-- READ_SIGNALS (R102). -/
  | readSignals (p : Port)
  /-- READ_MARKERS (R112). -/
  | readMarkers (p : Port)
  /-- READ_REGIONS (R126). -/
  | readRegions (p : Port)
  /-- CAMERA_STATUS (R86). -/
  | cameraStatus (p : Port)
  /-- CLAIM (R16). -/
  | claim (p : Port)
  /-- RELEASE (R19). -/
  | release (p : Port)
  /-- EDIT (R20). -/
  | edit (p : Port)
  /-- DISCARD (R22). -/
  | discard (p : Port)
  /-- COMMIT (R30). -/
  | commit (p : Port)
  /-- SEIZE (R17). -/
  | seize (p : Port)
  /-- FORCE (R153). -/
  | force (p : Port)
  /-- ALLOC (R124). -/
  | alloc (p : Port)
  /-- FREE (R125). -/
  | free (p : Port)
  /-- OPEN_LOAD (R128). -/
  | openLoad (p : Port)
  /-- LOAD_DATA (R131). -/
  | loadData (p : Port)
  /-- ABORT_LOAD (R133). -/
  | abortLoad (p : Port)
  /-- ECC_CLEAR (R137). -/
  | eccClear (p : Port)
  /-- SET_PERIOD (R55). -/
  | setPeriod (p : Port)
  /-- SET_COMMIT_LINE (R56). -/
  | setCommitLine (p : Port)
  /-- SET_STROBE (R57). -/
  | setStrobe (p : Port)
  /-- SET_GENLOCK (R58). -/
  | setGenlock (p : Port)
  /-- RESYNC (R62). -/
  | resync (p : Port)
  /-- CAMERA_RESTART (R79). -/
  | cameraRestart (p : Port)
  /-- SET_INPUT (R92). -/
  | setInput (p : Port)
  /-- SPEED (R95). -/
  | speed (p : Port)
  /-- SET_SPEED_BANDS (R98). -/
  | setSpeedBands (p : Port)
  /-- SET_VIRTUAL (R94). -/
  | setVirtual (p : Port)
  /-- MARK (R106). -/
  | mark (p : Port)
  /-- UNMARK (R110). -/
  | unmark (p : Port)
  /-- CLEAR_MARKS (R111). -/
  | clearMarks (p : Port)
  /-- SET_NEAR (R114). -/
  | setNear (p : Port)
  /-- SET_PALETTE (R154). -/
  | setPalette (p : Port)
  /-- RUN (R177). -/
  | run (p : Port)
  /-- QUIET (R176). -/
  | quiet (p : Port)
  /-- DORMANT (R178), and whether its reply is posted before STATE_CHANGED (R168; log 10). -/
  | dormant (p : Port) (replyFirst : Bool)
  /-- WAKE (R179), with what it meets, and whether its reply is posted before the wake (log 10). -/
  | wake (p : Port) (meets : Waking) (replyFirst : Bool)
  /-- STORE_FITTING (R183). -/
  | storeFitting (p : Port)
  /-- STORE_END: the write and read-back finish; whether the read-back equals the snapshot (R183). -/
  | storeEnd (readBackEqual : Bool)
  /-- STORE_TIMER_EXPIRY (R183). -/
  | storeTimerExpiry
  /-- LINE_END: the end of a line time (R51). -/
  | lineEnd (out : Surroundings) (order : LineOrder)
  /-- DSYNC: a frame sync pulse (R59). -/
  | dsync
  /-- FRAME_START on link `k`, with the camera's sequence number (R71). -/
  | frameStart (k : Fin 4) (seq : Word16)
  /-- CAMERA_LINE on link `k` (R71). -/
  | cameraLine (k : Fin 4) (line : CameraLine)
  /-- FRAME_END on link `k` (R72). -/
  | frameEnd (k : Fin 4)
  /-- POWER_OFF_EXPIRY of camera `k` (R80). -/
  | powerOffExpiry (k : Fin 4)
  /-- INPUT_RAW_CHANGE: the level now on input `n`'s pin (R90). -/
  | inputRawChange (n : Fin 8) (level : Bool)
  /-- DEBOUNCE_EXPIRY of input `n` (R90). -/
  | debounceExpiry (n : Fin 8)
  /-- SPEED_AGE_EXPIRY (R97). -/
  | speedAgeExpiry
  /-- WAKE_IN: a rising edge (R179), with what the wake meets. -/
  | wakeIn (meets : Waking)
  /-- VERIFICATION_END, with the memory errors that have come about (R132; log 8). -/
  | verificationEnd (upsets : List Upset)
  /-- RECEIVE_TIMEOUT (R134). -/
  | receiveTimeout
  deriving DecidableEq, Repr

end Sys2Proof
end

