-- ==== Sys2Proof/Decode.lean ====
section
/-! DEFINITION. The words of the opcode table. No row of `spec/opcode_table.json` gives a command bits (every
"fields" list is empty), so no word spells a command (log 4). -/

namespace Sys2Proof

/-- The command a word spells: none (log 4). -/
def decodeTableWord (_nbits _w : Nat) : Option Instr := none

end Sys2Proof
end

