-- ==== Sys2Proof/Config.lean ====
section
/-! DEFINITION. What the specification leaves to the silicon: the free values. Nothing can evaluate
them, so a claim that holds, holds whatever they are. -/

namespace Sys2Proof

/-- What a read of a memory word finds against its check bits (R137, R138). -/
inductive ReadCheck where
  | clean
  | single
  | double
  deriving DecidableEq, Repr, Inhabited

namespace Config

/-- The byte at an address of Overlay Memory that nothing has written since the device reset numbered
`epoch`: "contents are not defined" (R121, R140; log 6). -/
opaque undefinedByte (epoch address : Nat) : Byte

/-- What the check bits of a word nothing has written since that device reset give on a read: "undefined
check bits" (note after R150; log 7). -/
opaque undefinedCheck (epoch word : Nat) : ReadCheck

/-- Whether writing some but not all bytes of a word leaves an error that stood in the word (log 8). -/
opaque partialWriteKeepsError (epoch word : Nat) : Bool

end Config

end Sys2Proof
end

