-- ==== Sys2Proof/Machine/State.lean ====
section
/-! DEFINITION. The state of the VX-420 as plain data, block by block, and its value after a device
reset. Every structure's docstring cites the rule whose table it holds. -/

namespace Sys2Proof.Machine

/-- Why the block stops. -/
inductive Fault where
  /-- Raised by LOAD_DATA alone: a chunk would be written past address 262143, which Overlay Memory does
  not have (R121). Safe: no state that keeps the region and job invariants (R122, R127) reaches it (log 27). -/
  | overlayAddress
  deriving DecidableEq, Repr

/-- Why a command has no meaning. -/
inductive Refusal where
  /-- A command whose meaning is not written yet; raised by no arm of `exec`. Safe. -/
  | notModelled (mnemonic : String)
  deriving DecidableEq, Repr

/-- One item for each port. -/
structure PerPort (α : Type) where
  body : α
  detect : α
  cab : α
  deriving DecidableEq, Repr

/-- The item of one port. -/
def PerPort.get {α : Type} (x : PerPort α) : Port → α
  | .body => x.body
  | .detect => x.detect
  | .cab => x.cab

/-- Replace the item of one port. -/
def PerPort.set {α : Type} (x : PerPort α) (p : Port) (a : α) : PerPort α :=
  match p with
  | .body => { x with body := a }
  | .detect => { x with detect := a }
  | .cab => { x with cab := a }

/-- The same item for each port. -/
def PerPort.all {α : Type} (a : α) : PerPort α := ⟨a, a, a⟩

/-! ## Client ports (chapter 9) -/

/-- The result codes of section 9.7, in the order of their values 00h to 12h. -/
inductive ResultCode where
  | done
  | granted
  | heldBy
  | rankRefused
  | notOwner
  | badField
  | busy
  | committed
  | commitRefused
  | noSpace
  | inUse
  | held
  | sequence
  | loadFailed
  | storeFailed
  | wrongState
  | badCheck
  | unknownKind
  | refusedCondition
  deriving DecidableEq, Repr

/-- A request in a port's request queue: its kind byte as received, tag and payload (R160, R162). -/
structure Request where
  kind : Byte
  tag : Tag
  payload : List Byte
  deriving DecidableEq, Repr

/-- A reply (R164, R186): the field id byte and the values that follow it are as laid out. -/
structure Reply where
  tag : Tag
  kind : Byte
  result : ResultCode
  field : Byte
  values : List Byte
  deriving DecidableEq, Repr

/-- The alert codes of section 9.7. -/
inductive AlertCode where
  | cameraLost
  | nearObject
  | regionFault
  | speedStale
  | cameraStarted
  | cameraBack
  | layerSeized
  | loadSuspended
  | loadResumed
  | loadTimeout
  | planOverflow
  | syncSlip
  | genlockLost
  | genlockAcquired
  | stateChanged
  | fittingBad
  deriving DecidableEq, Repr

/-- The alert classes, S, C, L, T and P (R166). -/
inductive AlertClass where
  | safety
  | camera
  | layer
  | timing
  | part
  deriving DecidableEq, Repr

/-- An alert (R167). Its class and subject kind are the code's (section 9.7). -/
structure Alert where
  code : AlertCode
  subject : Nat
  detail : Nat
  frame : Word16
  count : Nat
  deriving DecidableEq, Repr

/-- A queued record with the moment it joined its queue, as a stamp of its port (R168; log 20). -/
structure Stamped (α : Type) where
  stamp : Nat
  item : α
  deriving DecidableEq, Repr

/-- A port's subscription to the classes C, L, T and P (R170). -/
structure Subscription where
  camera : Bool
  layer : Bool
  timing : Bool
  part : Bool
  deriving DecidableEq, Repr

/-- The record a transaction offers, by its stamp (R168). -/
inductive Offer where
  | reply (stamp : Nat)
  | alert (stamp : Nat)
  deriving DecidableEq, Repr

/-- The status header (R161); its record length is that of the record offered with it. -/
structure StatusHeader where
  credits : Nat
  repliesPending : Nat
  alertsPending : Nat
  overrun : Bool
  short : Bool
  alertsLost : Bool
  recordLength : Nat
  deriving DecidableEq, Repr

/-- A transaction under way: the header as prepared, the record offered and its bytes (R161, R168). -/
structure Transaction where
  header : StatusHeader
  offer : Option Offer
  record : List Byte
  deriving DecidableEq, Repr

/-- One client port (R160 to R173). `clockedOut` is what the part sent in the most recent transaction, its fill
bytes included (R160; log 21). -/
structure PortState where
  requests : List Request
  replies : List (Stamped Reply)
  alerts : List (Stamped Alert)
  overrun : Bool
  short : Bool
  alertsLost : Bool
  subscription : Subscription
  transaction : Option Transaction
  clockedOut : List Byte
  nextStamp : Nat
  deriving DecidableEq, Repr

/-- A port after device reset (R173). The bytes sent before it, in a transaction it cuts off among them, are not
kept: `clockedOut` is empty, which R173 leaves open (log 21). -/
def PortState.atReset : PortState where
  requests := []
  replies := []
  alerts := []
  overrun := false
  short := false
  alertsLost := false
  subscription := ⟨true, true, true, true⟩
  transaction := none
  clockedOut := []
  nextStamp := 0

/-! ## Layer Table (chapters 1 and 2) -/

/-- Who may change a slot (R3). -/
inductive Owner where
  | none
  | fitted
  | port (p : Port)
  deriving DecidableEq, Repr

/-- Where the staged copy stands (R4). -/
inductive Staging where
  | clean
  | edited
  | pending
  deriving DecidableEq, Repr

/-- The force item (R5). -/
inductive Force where
  | none
  | show
  | hide
  deriving DecidableEq, Repr

/-- Layer class (R6). -/
inductive LayerClass where
  | ordinary
  | safety
  deriving DecidableEq, Repr

/-- Blink setting (R6). -/
inductive Blink where
  | solid
  | slow
  | fast
  deriving DecidableEq, Repr

/-- The four kinds (R7). -/
inductive LayerKind where
  | camera
  | bitmap
  | guide
  | fill
  deriving DecidableEq, Repr

/-- One condition term: a signal and the level it must have (R9). -/
structure Term where
  signal : Fin 18
  level : Bool
  deriving DecidableEq, Repr

/-- One guide segment, relative to the dest (R10). -/
structure Segment where
  x0 : Nat
  y0 : Nat
  x1 : Nat
  y1 : Nat
  deriving DecidableEq, Repr

/-- The camera part (R7). -/
structure CameraPart where
  camera : Fin 4
  cropX : Nat
  cropY : Nat
  cropW : Nat
  cropH : Nat
  mirror : Bool
  markers : Bool
  deriving DecidableEq, Repr

/-- The bitmap part (R7). -/
structure BitmapPart where
  region : Fin 16
  width : Nat
  height : Nat
  key : Option (Fin 16)
  deriving DecidableEq, Repr

/-- The guide part (R7). -/
structure GuidePart where
  colour : Fin 16
  width : Nat
  segments : List Segment
  deriving DecidableEq, Repr

/-- The one kind-specific part of a record; it says the kind (R7). -/
inductive KindPart where
  | camera (part : CameraPart)
  | bitmap (part : BitmapPart)
  | guide (part : GuidePart)
  | fill (colour : Fin 16)
  deriving DecidableEq, Repr

/-- A layer record (R6, R7). -/
structure LayerRecord where
  enabled : Bool
  cls : LayerClass
  z : Nat
  destX : Nat
  destY : Nat
  destW : Nat
  destH : Nat
  alpha : Nat
  condition : List Term
  blink : Blink
  record : Bool
  part : KindPart
  deriving DecidableEq, Repr

/-- The empty record (R11). -/
def LayerRecord.empty : LayerRecord where
  enabled := false
  cls := .ordinary
  z := 0
  destX := 0
  destY := 0
  destW := 8
  destH := 8
  alpha := 15
  condition := []
  blink := .solid
  record := false
  part := .fill 0

/-- A layer slot's five items (R1). -/
structure LayerSlot where
  owner : Owner
  status : Staging
  staged : LayerRecord
  active : LayerRecord
  force : Force
  deriving DecidableEq, Repr

/-- A slot of owner NONE (R2). -/
def LayerSlot.unowned : LayerSlot where
  owner := .none
  status := .clean
  staged := LayerRecord.empty
  active := LayerRecord.empty
  force := .none

/-- A present pending commit record (R29). -/
structure PendingSet where
  tag : Tag
  members : List (Fin 24)
  deriving DecidableEq, Repr

/-- The Layer Table (R1) with the pending commit record of each port (R29). -/
structure LayerTable where
  slots : Vector LayerSlot 24
  sets : PerPort (Option PendingSet)
  deriving DecidableEq, Repr

/-- The table after device reset (R25). -/
def LayerTable.atReset : LayerTable where
  slots := Vector.replicate 24 LayerSlot.unowned
  sets := PerPort.all none

/-! ## Frame Timebase (chapter 3) -/

/-- The genlock state (R49). -/
inductive GenlockState where
  | free
  | hunting
  | locked
  deriving DecidableEq, Repr

/-- The run state (R49). -/
inductive RunState where
  | running
  | held
  deriving DecidableEq, Repr

/-- The timebase's state (R49), with the loads due at the end of the present line (R59, R62) and whether
a DSYNC has been taken since the last TOP that fired (R63). -/
structure Timebase where
  line : Nat
  period : Nat
  stagedPeriod : Nat
  frame : Word16
  commitLine : Nat
  strobes : Vector Nat 4
  genlockOn : Bool
  phase : Nat
  genlock : GenlockState
  missed : Nat
  good : Nat
  lastSlip : Nat
  run : RunState
  dsyncDue : Bool
  resyncDue : Bool
  dsyncSinceTop : Bool
  deriving DecidableEq, Repr

/-- The Default column of R49. -/
def Timebase.atReset : Timebase where
  line := 0
  period := 750
  stagedPeriod := 750
  frame := 0
  commitLine := 725
  strobes := #v[736, 738, 740, 742]
  genlockOn := false
  phase := 0
  genlock := .free
  missed := 0
  good := 0
  lastSlip := 0
  run := .held
  dsyncDue := false
  resyncDue := false
  dsyncSinceTop := false

/-! ## Camera Links (chapter 4) -/

/-- Link states (R70). -/
inductive LinkState where
  | absent
  | idle
  | starting
  | locked
  | lost
  deriving DecidableEq, Repr

/-- Where the population comes from (R67, R68). -/
inductive PopulationSource where
  | straps
  | fitting
  deriving DecidableEq, Repr

/-- A complete camera frame: its sequence number and 960 lines of 1280 pixels (R69, R72). -/
structure CameraFrame where
  seq : Word16
  lines : List (List Colour)
  deriving DecidableEq, Repr

/-- A frame slot with what it holds (R69, R71). -/
inductive FrameSlot where
  | free
  | writing (seq : Word16) (lines : List CameraLine)
  | ready (frame : CameraFrame)
  | held (frame : CameraFrame)
  deriving DecidableEq, Repr

/-- One Camera Link (R69). -/
structure CameraLink where
  link : LinkState
  slots : Vector FrameSlot 3
  miss : Nat
  fresh : Nat
  starting : Nat
  discards : Nat
  powerOff : Option Nat
  power : Bool
  deriving DecidableEq, Repr

/-- A link after device reset, present or not (R67, R85). -/
def CameraLink.atReset (present : Bool) : CameraLink where
  link := if present then .idle else .absent
  slots := Vector.replicate 3 FrameSlot.free
  miss := 0
  fresh := 0
  starting := 0
  discards := 0
  powerOff := none
  power := false

/-- The four links and the population (R67, R69). -/
structure Cameras where
  population : Vector Bool 4
  source : PopulationSource
  links : Vector CameraLink 4
  deriving DecidableEq, Repr

/-- The population that the CAMPOP straps give (R67). -/
def strapPopulation (campop : BitVec 2) : Vector Bool 4 :=
  if campop = 0#2 then #v[true, true, true, true]
  else if campop = 1#2 then #v[true, true, true, false]
  else if campop = 2#2 then #v[false, true, true, false]
  else #v[false, true, false, false]

/-- The links after device reset (R67, R85). -/
def Cameras.atReset (campop : BitVec 2) : Cameras where
  population := strapPopulation campop
  source := .straps
  links := Vector.ofFn (fun k => CameraLink.atReset (strapPopulation campop)[k])

/-! ## Signal Conditioner (chapter 5) -/

/-- Input polarity (R88). -/
inductive Polarity where
  | activeHigh
  | activeLow
  deriving DecidableEq, Repr

/-- One physical input (R88); a level is true when high. -/
structure Input where
  raw : Bool
  conditioned : Bool
  settled : Bool
  polarity : Polarity
  debounce : Nat
  mask : Bool
  timer : Option Nat
  deriving DecidableEq, Repr

/-- An input after device reset, with the level on its pin (R88, R93; log 5). -/
def Input.atReset (raw : Bool) : Input where
  raw := raw
  conditioned := false
  settled := false
  polarity := .activeHigh
  debounce := 50
  mask := false
  timer := some 50

/-- The SCN's state (R88, R94, R95, R99 to R101). -/
structure Conditioner where
  inputs : Vector Input 8
  virtuals : Vector Bool 6
  speed : Nat
  stopThreshold : Nat
  slowThreshold : Nat
  stale : Bool
  age : Option Nat
  near : Bool
  wakePending : List (Fin 8)
  wakeRecord : List (Fin 8)
  deriving DecidableEq, Repr

/-- The SCN after device reset, with the levels on the input pins (R103). -/
def Conditioner.atReset (pins : Vector Bool 8) : Conditioner where
  inputs := Vector.ofFn (fun n => Input.atReset pins[n])
  virtuals := Vector.replicate 6 false
  speed := 0
  stopThreshold := 2
  slowThreshold := 150
  stale := true
  age := none
  near := false
  wakePending := []
  wakeRecord := []

/-! ## Marker Map (chapter 6) -/

/-- Marker classes (R105). -/
inductive MarkerClass where
  | pedestrian
  | cyclist
  | vehicle
  | object
  deriving DecidableEq, Repr

/-- A marker (R105). -/
structure Marker where
  track : Nat
  camera : Fin 4
  boxX : Nat
  boxY : Nat
  boxW : Nat
  boxH : Nat
  cls : MarkerClass
  range : Nat
  ttl : Nat
  age : Nat
  near : Bool
  deriving DecidableEq, Repr

/-- The map, kept in ascending track id order, and the near threshold (R104). -/
structure MarkerMap where
  markers : List Marker
  threshold : Nat
  deriving DecidableEq, Repr

/-- The map after device reset (R120). -/
def MarkerMap.atReset : MarkerMap where
  markers := []
  threshold := 150

/-! ## Overlay Memory and Load Engine (chapter 7) -/

/-- What a region that is not FREE holds: its state, and its content CRC-32 in VALID and FAULTED (R122). -/
inductive RegionContent where
  | empty
  | loading
  | valid (crc : Word32)
  | faulted (crc : Word32)
  deriving DecidableEq, Repr

/-- A Region Table entry that is not FREE (R122). -/
structure Region where
  first : Nat
  count : Nat
  owner : Port
  content : RegionContent
  deriving DecidableEq, Repr

/-- A job's state, with the timer that runs in it (R127, R132, R134): the receive timer while RECEIVING;
while VERIFYING the time left and the tag of the completing chunk. -/
inductive JobState where
  | receiving (left : Nat)
  | suspended
  | verifying (left : Nat) (tag : Tag)
  deriving DecidableEq, Repr

/-- A load job (R127). -/
structure Job where
  region : Fin 16
  length : Nat
  expected : Word32
  cursor : Nat
  nextSeq : Byte
  state : JobState
  answerOpen : Bool
  deriving DecidableEq, Repr

/-- Overlay Memory's bytes: those written since device reset, addresses strictly rising. An address
that is not listed holds what nothing has written (log 6). -/
abbrev Memory := List Host.Cell

/-- Overlay Memory, the Region Table and the load jobs (R121, R122, R127, R137). `errors` lists the words
that hold bits in error; `epoch` counts device resets (log 20). -/
structure Overlay where
  memory : Memory
  errors : List Upset
  epoch : Nat
  regions : Vector (Option Region) 16
  corrected : Nat
  jobs : PerPort (Option Job)
  deriving DecidableEq, Repr

/-- Overlay Memory after the device reset numbered `epoch` (R140). -/
def Overlay.atReset (epoch : Nat) : Overlay where
  memory := []
  errors := []
  epoch := epoch
  regions := Vector.replicate 16 none
  corrected := 0
  jobs := PerPort.all none

/-! ## Composer (chapter 8) -/

/-- One layer of a plan, as it stood at the TOP (R142). -/
structure PlanEntry where
  slot : Fin 24
  record : LayerRecord
  owner : Owner
  force : Force
  deriving DecidableEq, Repr

/-- What a camera hands over at its plan request: its link state, and the HELD slot's number and
sequence number (R75). -/
structure CameraAnswer where
  link : LinkState
  held : Option (Fin 3 × Word16)
  deriving DecidableEq, Repr

/-- A Frame Plan (R142), with the genlock state at its TOP (R156; log 28). -/
structure FramePlan where
  frame : Word16
  entries : List PlanEntry
  leftOut : Nat
  answers : Vector CameraAnswer 4
  markers : List Marker
  palette : Vector Colour 16
  signals : Vector Bool 18
  genlock : GenlockState
  deriving DecidableEq, Repr

/-- What the display link sends (R158). -/
inductive OutputMode where
  | off
  | black
  | picture
  deriving DecidableEq, Repr

/-- What the recorder link sends (R157). -/
inductive RecorderMode where
  | off
  | send
  | hold
  deriving DecidableEq, Repr

/-- The Composer's state (R141), and whether this frame's metadata record has been sent (R156). -/
structure Composer where
  plan : Option FramePlan
  palette : Vector Colour 16
  overflow : Bool
  output : OutputMode
  recorder : RecorderMode
  stopped : List (Fin 24)
  metadataSent : Bool
  deriving DecidableEq, Repr

/-- The default palette (R154). -/
def defaultPalette : Vector Colour 16 :=
  #v[⟨0x00, 0x00, 0x00⟩, ⟨0x30, 0x30, 0x30⟩, ⟨0xFF, 0xFF, 0xFF⟩, ⟨0xE0, 0x00, 0x00⟩,
     ⟨0xFF, 0x80, 0x00⟩, ⟨0xFF, 0xE0, 0x00⟩, ⟨0x00, 0xB0, 0x00⟩, ⟨0x00, 0xB0, 0xB0⟩,
     ⟨0x00, 0x40, 0xE0⟩, ⟨0xD0, 0x00, 0xD0⟩, ⟨0x80, 0x80, 0x80⟩, ⟨0xC0, 0xC0, 0xC0⟩,
     ⟨0xFF, 0xD0, 0x00⟩, ⟨0xFF, 0x50, 0x00⟩, ⟨0x00, 0xD8, 0xFF⟩, ⟨0xF0, 0xF0, 0xF0⟩]

/-- The Composer after device reset (R159). -/
def Composer.atReset : Composer where
  plan := none
  palette := defaultPalette
  overflow := false
  output := .off
  recorder := .off
  stopped := []
  metadataSent := false

/-! ## State Controller and Fitting Store (chapter 10) -/

/-- The part states (R174). -/
inductive PartState where
  | boot
  | run
  | quiet
  | dormant
  deriving DecidableEq, Repr

/-- A pending QUIET request (R174). -/
structure PendingEntry where
  port : Port
  tag : Tag
  deriving DecidableEq, Repr

/-- The State Controller (R174). -/
structure Controller where
  part : PartState
  entry : Option PendingEntry
  runRequest : Bool
  deriving DecidableEq, Repr

/-- The State Controller after device reset (R174). -/
def Controller.atReset : Controller where
  part := .boot
  entry := none
  runRequest := false

/-- The stored fitting record (R181): its bytes (11.1.6), or one whose check a store that has not
finished has made bad (R183, R184; log 17). -/
inductive StoredRecord where
  | absent
  | present (bytes : List Byte)
  | spoiled
  deriving DecidableEq, Repr

/-- The fitting status (R181). -/
inductive FittingStatus where
  | loaded
  | bad
  | none
  deriving DecidableEq, Repr

/-- The store in flight (R181, R183): whose it is, the snapshot being written and how many layers are in
it, and the time left. -/
structure StoreInFlight where
  port : Port
  tag : Tag
  answerOpen : Bool
  snapshot : List Byte
  layers : Nat
  timer : Nat
  deriving DecidableEq, Repr

/-- The Fitting Store (R181). -/
structure Fitting where
  record : StoredRecord
  status : FittingStatus
  store : Option StoreInFlight
  deriving DecidableEq, Repr

/-! ## Pins and links (section 11.2) -/

/-- One line on an output link: nothing, or line `y` with its 1280 pixels. -/
inductive LinkLine where
  | nothing
  | line (y : Nat) (pixels : List Colour)
  deriving DecidableEq, Repr

/-- What the most recent step of the timebase put on the output links and pulses (log 21): the display
line (R148, R158), the recorder line (R155), the metadata record (R156), RSYNC (R52) and the strobes (R73). -/
structure LinkOutputs where
  display : LinkLine
  recorder : LinkLine
  metadata : Option (List Byte)
  rsync : Bool
  strobed : Vector Bool 4
  deriving DecidableEq, Repr

/-- Links that send nothing. -/
def LinkOutputs.silent : LinkOutputs where
  display := .nothing
  recorder := .nothing
  metadata := none
  rsync := false
  strobed := Vector.replicate 4 false

/-- Input pins whose level is kept: RESET (R175), the straps as read (R67), REC_HOLD as last taken (R157). -/
structure Pins where
  resetLow : Bool
  campop : BitVec 2
  recHold : Bool
  deriving DecidableEq, Repr

/-- The whole block, with the queue of commands that wait, first in first out. -/
structure State where
  ports : PerPort PortState
  ltb : LayerTable
  ftb : Timebase
  cams : Cameras
  scn : Conditioner
  mkm : MarkerMap
  ovm : Overlay
  cmp : Composer
  stc : Controller
  fst : Fitting
  links : LinkOutputs
  pins : Pins
  pending : List Instr
  deriving DecidableEq, Repr

/-- The machine right after a device reset, RESET still low (R175). The strap and input pin levels and
the absence of a fitting record are DESIGN CHOICES (log 3). -/
def State.reset : State where
  ports := PerPort.all PortState.atReset
  ltb := LayerTable.atReset
  ftb := Timebase.atReset
  cams := Cameras.atReset 0#2
  scn := Conditioner.atReset (Vector.replicate 8 false)
  mkm := MarkerMap.atReset
  ovm := Overlay.atReset 0
  cmp := Composer.atReset
  stc := Controller.atReset
  fst := { record := .absent, status := .none, store := none }
  links := LinkOutputs.silent
  pins := { resetLow := true, campop := 0#2, recHold := false }
  pending := []

/-- What a command answers. -/
abbrev Outcome := Host.Outcome State Fault Refusal

/-! One update per block. -/

def State.setPorts (s : State) (x : PerPort PortState) : State := { s with ports := x }
def State.setLtb (s : State) (x : LayerTable) : State := { s with ltb := x }
def State.setFtb (s : State) (x : Timebase) : State := { s with ftb := x }
def State.setCams (s : State) (x : Cameras) : State := { s with cams := x }
def State.setScn (s : State) (x : Conditioner) : State := { s with scn := x }
def State.setMkm (s : State) (x : MarkerMap) : State := { s with mkm := x }
def State.setOvm (s : State) (x : Overlay) : State := { s with ovm := x }
def State.setCmp (s : State) (x : Composer) : State := { s with cmp := x }
def State.setStc (s : State) (x : Controller) : State := { s with stc := x }
def State.setFst (s : State) (x : Fitting) : State := { s with fst := x }
def State.setLinks (s : State) (x : LinkOutputs) : State := { s with links := x }
def State.setPins (s : State) (x : Pins) : State := { s with pins := x }
def State.setPending (s : State) (x : List Instr) : State := { s with pending := x }

end Sys2Proof.Machine
end

