-- ==== Sys2Proof/Machine/Bytes.lean ====
section
/-! DEFINITION. The byte encoding shared by every record (R185), the two check sums (R160, R132), and the
numbers that stand for enumerated values: an enumerated value is its position in its list (R185). -/

namespace Sys2Proof.Machine

/-- `n` as little-endian bytes, `k` of them (R185). -/
def le : Nat → Nat → List Byte
  | 0, _ => []
  | k + 1, n => BitVec.ofNat 8 n :: le k (n / 256)

/-- The number that little-endian bytes stand for (R185). -/
def fromLe : List Byte → Nat
  | [] => 0
  | b :: bs => b.toNat + 256 * fromLe bs

/-- One byte. -/
def byte (n : Nat) : Byte := BitVec.ofNat 8 n

/-- No is 0 and yes is 1 (R185); also low and high, off and on, level 0 and 1. -/
def flag (b : Bool) : Byte := if b then 1#8 else 0#8

/-- The flags of a list as the bits of one number, the first as bit 0. -/
def bitsToNat : List Bool → Nat
  | [] => 0
  | b :: bs => (if b then 1 else 0) + 2 * bitsToNat bs

/-- Bit `k` of a byte. -/
def bit (b : Byte) (k : Nat) : Bool := b.getLsbD k

/-- Run a one-step function `n` times. -/
def times {α : Type} (f : α → α) : Nat → α → α
  | 0, a => a
  | n + 1, a => times f n (f a)

/-- One bit of the CRC-16 with generator x^16+x^12+x^5+1, most significant bit first (R160). -/
def crc16Bit (c : BitVec 16) : BitVec 16 :=
  if c.msb then (c <<< 1) ^^^ 0x1021#16 else c <<< 1

/-- One byte of the CRC-16 (R160). -/
def crc16Byte (c : BitVec 16) (b : Byte) : BitVec 16 :=
  times crc16Bit 8 (c ^^^ (b.zeroExtend 16 <<< 8))

/-- The CRC-16 of a request frame: initial value all ones, not inverted (R160). -/
def crc16 (bs : List Byte) : BitVec 16 := bs.foldl crc16Byte 0xFFFF#16

/-- One bit of the CRC-32, least significant bit first (R132): the generator of R132 bit-reversed. -/
def crc32Bit (c : Word32) : Word32 :=
  if c.getLsbD 0 then (c >>> 1) ^^^ 0xEDB88320#32 else c >>> 1

/-- One byte of the CRC-32 (R132). -/
def crc32Byte (c : Word32) (b : Byte) : Word32 :=
  times crc32Bit 8 (c ^^^ b.zeroExtend 32)

/-- The CRC-32 of R132: initial value all ones, the result inverted. -/
def crc32 (bs : List Byte) : Word32 := ~~~(bs.foldl crc32Byte 0xFFFFFFFF#32)

/-! ## Enumerated values (R185, section 9.7) -/

/-- BODY, DETECT, CAB are 0 to 2 (R185). -/
def Port.number : Port → Nat
  | .body => 0
  | .detect => 1
  | .cab => 2

/-- Owner NONE, FITTED, BODY, DETECT, CAB are 0 to 4 (R185). -/
def Owner.number : Owner → Nat
  | .none => 0
  | .fitted => 1
  | .port p => 2 + Port.number p

/-- Result codes 00h to 12h (section 9.7). -/
def ResultCode.number : ResultCode → Nat
  | .done => 0x00
  | .granted => 0x01
  | .heldBy => 0x02
  | .rankRefused => 0x03
  | .notOwner => 0x04
  | .badField => 0x05
  | .busy => 0x06
  | .committed => 0x07
  | .commitRefused => 0x08
  | .noSpace => 0x09
  | .inUse => 0x0A
  | .held => 0x0B
  | .sequence => 0x0C
  | .loadFailed => 0x0D
  | .storeFailed => 0x0E
  | .wrongState => 0x0F
  | .badCheck => 0x10
  | .unknownKind => 0x11
  | .refusedCondition => 0x12

/-- Alert codes (section 9.7). -/
def AlertCode.number : AlertCode → Nat
  | .cameraLost => 0x01
  | .nearObject => 0x02
  | .regionFault => 0x03
  | .speedStale => 0x04
  | .cameraStarted => 0x10
  | .cameraBack => 0x11
  | .layerSeized => 0x20
  | .loadSuspended => 0x21
  | .loadResumed => 0x22
  | .loadTimeout => 0x23
  | .planOverflow => 0x24
  | .syncSlip => 0x30
  | .genlockLost => 0x31
  | .genlockAcquired => 0x32
  | .stateChanged => 0x40
  | .fittingBad => 0x41

/-- The class of each alert (section 9.7). -/
def AlertCode.cls : AlertCode → AlertClass
  | .cameraLost | .nearObject | .regionFault | .speedStale => .safety
  | .cameraStarted | .cameraBack => .camera
  | .layerSeized | .loadSuspended | .loadResumed | .loadTimeout | .planOverflow => .layer
  | .syncSlip | .genlockLost | .genlockAcquired => .timing
  | .stateChanged | .fittingBad => .part

/-- Classes S, C, L, T and P are 0 to 4 (R186). -/
def AlertClass.number : AlertClass → Nat
  | .safety => 0
  | .camera => 1
  | .layer => 2
  | .timing => 3
  | .part => 4

/-- Subject kinds camera, track, region, signal, layer, plan, timebase, part and fitting are 0 to 8 (R186). -/
def AlertCode.subjectKind : AlertCode → Nat
  | .cameraLost | .cameraStarted | .cameraBack => 0
  | .nearObject => 1
  | .regionFault | .loadSuspended | .loadResumed | .loadTimeout => 2
  | .speedStale => 3
  | .layerSeized => 4
  | .planOverflow => 5
  | .syncSlip | .genlockLost | .genlockAcquired => 6
  | .stateChanged => 7
  | .fittingBad => 8

/-- Staging status CLEAN, EDITED, PENDING (R1). -/
def Staging.number : Staging → Nat
  | .clean => 0
  | .edited => 1
  | .pending => 2

/-- Force NONE, SHOW, HIDE (R1). -/
def Force.number : Force → Nat
  | .none => 0
  | .show => 1
  | .hide => 2

/-- A force value from its byte (R153). -/
def forceOf (b : Byte) : Option Force :=
  if b = 0#8 then some .none else if b = 1#8 then some .show else if b = 2#8 then some .hide else none

/-- Class ORDINARY, SAFETY (R6). -/
def LayerClass.number : LayerClass → Nat
  | .ordinary => 0
  | .safety => 1

/-- Blink SOLID, SLOW, FAST (R6). -/
def Blink.number : Blink → Nat
  | .solid => 0
  | .slow => 1
  | .fast => 2

/-- The kind a kind-specific part says (R7). -/
def KindPart.kind : KindPart → LayerKind
  | .camera _ => .camera
  | .bitmap _ => .bitmap
  | .guide _ => .guide
  | .fill _ => .fill

/-- Kind CAMERA, BITMAP, GUIDE, FILL are 0 to 3 (R185). -/
def LayerKind.number : LayerKind → Nat
  | .camera => 0
  | .bitmap => 1
  | .guide => 2
  | .fill => 3

/-- Genlock state FREE, HUNTING, LOCKED (R49). -/
def GenlockState.number : GenlockState → Nat
  | .free => 0
  | .hunting => 1
  | .locked => 2

/-- Link state ABSENT, IDLE, STARTING, LOCKED, LOST are 0 to 4 (R185). -/
def LinkState.number : LinkState → Nat
  | .absent => 0
  | .idle => 1
  | .starting => 2
  | .locked => 3
  | .lost => 4

/-- Slot state FREE, WRITING, READY, HELD (R69). -/
def FrameSlot.number : FrameSlot → Nat
  | .free => 0
  | .writing _ _ => 1
  | .ready _ => 2
  | .held _ => 3

/-- Population source STRAPS, FITTING (R86). -/
def PopulationSource.number : PopulationSource → Nat
  | .straps => 0
  | .fitting => 1

/-- Polarity ACTIVE_HIGH, ACTIVE_LOW (R88). -/
def Polarity.number : Polarity → Nat
  | .activeHigh => 0
  | .activeLow => 1

/-- Class PEDESTRIAN, CYCLIST, VEHICLE, OBJECT are 0 to 3 (section 11.1.5). -/
def MarkerClass.number : MarkerClass → Nat
  | .pedestrian => 0
  | .cyclist => 1
  | .vehicle => 2
  | .object => 3

/-- Region state FREE, EMPTY, LOADING, VALID, FAULTED (R122). -/
def regionStateNumber : Option Region → Nat
  | none => 0
  | some r =>
    match r.content with
    | .empty => 1
    | .loading => 2
    | .valid _ => 3
    | .faulted _ => 4

/-- Job state RECEIVING, SUSPENDED, VERIFYING (R127). -/
def JobState.number : JobState → Nat
  | .receiving _ => 0
  | .suspended => 1
  | .verifying _ _ => 2

/-- Part state BOOT, RUN, QUIET, DORMANT (R174); STATE_CHANGED uses the same numbers (R180). -/
def PartState.number : PartState → Nat
  | .boot => 0
  | .run => 1
  | .quiet => 2
  | .dormant => 3

/-- Fitting status LOADED, BAD, NONE (R181). -/
def FittingStatus.number : FittingStatus → Nat
  | .loaded => 0
  | .bad => 1
  | .none => 2

/-- The causes of a change of part state, 01h to 08h (R180). -/
inductive Cause where
  | bootEnd
  | quietRequest
  | notStopped
  | safetyCondition
  | runRequest
  | dormantRequest
  | wakeRequest
  | wakeIn
  deriving DecidableEq, Repr

/-- The detail byte of a cause (R180). -/
def Cause.number : Cause → Nat
  | .bootEnd => 1
  | .quietRequest => 2
  | .notStopped => 3
  | .safetyCondition => 4
  | .runRequest => 5
  | .dormantRequest => 6
  | .wakeRequest => 7
  | .wakeIn => 8

/-- A number between 0 and 3 as a camera (R69). -/
def cameraOf (n : Nat) : Option (Fin 4) := if h : n < 4 then some ⟨n, h⟩ else none

/-- A slot number (R15). -/
def slotOf (n : Nat) : Option (Fin 24) := if h : n < 24 then some ⟨n, h⟩ else none

/-- A region number (R124). -/
def regionOf (n : Nat) : Option (Fin 16) := if h : n < 16 then some ⟨n, h⟩ else none

/-- A palette index (R7). -/
def paletteOf (n : Nat) : Option (Fin 16) := if h : n < 16 then some ⟨n, h⟩ else none

/-- An input number (R92). -/
def inputOf (n : Nat) : Option (Fin 8) := if h : n < 8 then some ⟨n, h⟩ else none

/-- A yes/no byte (R185). -/
def flagOf (b : Byte) : Option Bool :=
  if b = 0#8 then some false else if b = 1#8 then some true else none

end Sys2Proof.Machine
end

