-- ==== Sys2Proof/Machine/Kinds.lean ====
section
/-! DEFINITION. The 41 request kinds of section 9.6: their codes, the ports and part states that admit
them, and the payload lengths of section 11.1.2. -/

namespace Sys2Proof.Machine

/-- The request kinds, in the order of section 9.6. -/
inductive RequestKind where
  | identify
  | resetPort
  | subscribe
  | readLayer
  | readSignals
  | readMarkers
  | readRegions
  | cameraStatus
  | claim
  | release
  | edit
  | discard
  | commit
  | seize
  | force
  | alloc
  | free
  | openLoad
  | loadData
  | abortLoad
  | eccClear
  | setPeriod
  | setCommitLine
  | setStrobe
  | setGenlock
  | resync
  | cameraRestart
  | setInput
  | speed
  | setSpeedBands
  | setVirtual
  | mark
  | unmark
  | clearMarks
  | setNear
  | setPalette
  | run
  | quiet
  | dormant
  | wake
  | storeFitting
  deriving DecidableEq, Repr

/-- The code of each kind (section 9.6). -/
def RequestKind.code : RequestKind → Byte
  | .identify => 0x01#8
  | .resetPort => 0x03#8
  | .subscribe => 0x04#8
  | .readLayer => 0x10#8
  | .readSignals => 0x11#8
  | .readMarkers => 0x12#8
  | .readRegions => 0x13#8
  | .cameraStatus => 0x14#8
  | .claim => 0x20#8
  | .release => 0x21#8
  | .edit => 0x22#8
  | .discard => 0x23#8
  | .commit => 0x24#8
  | .seize => 0x25#8
  | .force => 0x26#8
  | .alloc => 0x30#8
  | .free => 0x31#8
  | .openLoad => 0x32#8
  | .loadData => 0x33#8
  | .abortLoad => 0x34#8
  | .eccClear => 0x35#8
  | .setPeriod => 0x40#8
  | .setCommitLine => 0x41#8
  | .setStrobe => 0x42#8
  | .setGenlock => 0x43#8
  | .resync => 0x44#8
  | .cameraRestart => 0x48#8
  | .setInput => 0x50#8
  | .speed => 0x51#8
  | .setSpeedBands => 0x52#8
  | .setVirtual => 0x53#8
  | .mark => 0x58#8
  | .unmark => 0x59#8
  | .clearMarks => 0x5A#8
  | .setNear => 0x5B#8
  | .setPalette => 0x60#8
  | .run => 0x70#8
  | .quiet => 0x71#8
  | .dormant => 0x72#8
  | .wake => 0x73#8
  | .storeFitting => 0x74#8

/-- Every kind. -/
def RequestKind.all : List RequestKind :=
  [.identify, .resetPort, .subscribe, .readLayer, .readSignals, .readMarkers, .readRegions,
   .cameraStatus, .claim, .release, .edit, .discard, .commit, .seize, .force, .alloc, .free,
   .openLoad, .loadData, .abortLoad, .eccClear, .setPeriod, .setCommitLine, .setStrobe, .setGenlock,
   .resync, .cameraRestart, .setInput, .speed, .setSpeedBands, .setVirtual, .mark, .unmark,
   .clearMarks, .setNear, .setPalette, .run, .quiet, .dormant, .wake, .storeFitting]

/-- The kind a code stands for, if it is one of the 41 (R164). -/
def RequestKind.ofCode (b : Byte) : Option RequestKind :=
  RequestKind.all.find? (fun k => decide (k.code = b))

/-- The code of a POLL frame, which is no request (R162). -/
def pollCode : Byte := 0x02#8

/-- The ports a kind is permitted on (section 9.6). -/
def RequestKind.permitted (k : RequestKind) (p : Port) : Bool :=
  match k with
  | .seize | .force | .eccClear | .setStrobe | .setInput | .speed | .setSpeedBands | .setNear
  | .setPalette | .dormant | .storeFitting => decide (p = .body)
  | .mark | .unmark => decide (p = .detect)
  | .setPeriod | .setCommitLine | .setGenlock | .resync | .cameraRestart | .quiet =>
    decide (p ≠ .detect)
  | .setVirtual | .clearMarks => decide (p ≠ .cab)
  | .identify | .resetPort | .subscribe | .readLayer | .readSignals | .readMarkers | .readRegions
  | .cameraStatus | .claim | .release | .edit | .discard | .commit | .alloc | .free | .openLoad
  | .loadData | .abortLoad | .run | .wake => true

/-- The part states that admit a kind (section 9.6). -/
def RequestKind.admitted (k : RequestKind) (part : PartState) : Bool :=
  match k with
  | .identify | .resetPort => true
  | .wake => decide (part ≠ .boot)
  | .subscribe | .readLayer | .readSignals | .readMarkers | .readRegions | .cameraStatus | .claim
  | .release | .edit | .discard | .commit | .seize | .force | .alloc | .free | .openLoad | .loadData
  | .abortLoad | .eccClear | .setPeriod | .setCommitLine | .setStrobe | .setGenlock | .resync
  | .cameraRestart | .setInput | .speed | .setSpeedBands | .setVirtual | .mark | .unmark
  | .clearMarks | .setNear | .setPalette | .run | .quiet | .dormant | .storeFitting =>
    decide (part = .run ∨ part = .quiet)

/-- One EDIT pair: the field id and its value bytes (section 11.1.2). -/
structure EditPair where
  id : Byte
  value : List Byte
  deriving DecidableEq, Repr

/-- Step over `n` pairs by their value lengths; none when they run past the payload (R185). -/
def stepPairs : Nat → List Byte → Option (List EditPair × List Byte)
  | 0, bs => some ([], bs)
  | n + 1, id :: len :: bs =>
    if bs.length < len.toNat then none
    else
      match stepPairs n (bs.drop len.toNat) with
      | some (ps, rest) => some (⟨id, bs.take len.toNat⟩ :: ps, rest)
      | none => none
  | _ + 1, _ => none

/-- The pairs of an EDIT payload after its slot byte, when they fill it exactly (R185). -/
def editPairs (count : Byte) (bs : List Byte) : Option (List EditPair) :=
  match stepPairs count.toNat bs with
  | some (ps, []) => some ps
  | _ => none

/-- Whether a payload has the length its kind requires, computed from the count as carried where it
carries one (R164, R185, section 11.1.2). -/
def RequestKind.payloadFits (k : RequestKind) (payload : List Byte) : Bool :=
  match k with
  | .identify | .resetPort | .readSignals | .readMarkers | .readRegions | .cameraStatus | .discard
  | .commit | .abortLoad | .eccClear | .resync | .clearMarks | .run | .quiet | .dormant | .wake
  | .storeFitting => decide (payload.length = 0)
  | .readLayer | .claim | .release | .seize | .alloc | .free | .cameraRestart =>
    decide (payload.length = 1)
  | .force | .setPeriod | .setCommitLine | .speed | .setNear | .unmark =>
    decide (payload.length = 2)
  | .setStrobe | .setGenlock => decide (payload.length = 3)
  | .subscribe | .setInput | .setSpeedBands => decide (payload.length = 4)
  | .openLoad => decide (payload.length = 9)
  | .loadData => decide (1 ≤ payload.length)
  | .setVirtual =>
    match payload with
    | count :: rest => decide (rest.length = 2 * count.toNat)
    | [] => false
  | .mark =>
    match payload with
    | count :: rest => decide (rest.length = 15 * count.toNat)
    | [] => false
  | .setPalette =>
    match payload with
    | count :: rest => decide (rest.length = 3 * count.toNat)
    | [] => false
  | .edit =>
    match payload with
    | _ :: count :: rest => (editPairs count rest).isSome
    | _ => false

end Sys2Proof.Machine
end

