-- ==== Sys2Proof/WellFormed.lean ====
section
/-! DEFINITION. Which commands the outside world can send: the memory errors an event brings name words
that Overlay Memory has (R121: 64 blocks of 512 words), each at most once. Every other operand's range
is its type. -/

namespace Sys2Proof

/-- The number of 8-byte words of Overlay Memory (R121). -/
def overlayWords : Nat := 32768

/-- Every named word exists and none is named twice. -/
def upsetsWellFormed (us : List Upset) : Bool :=
  us.all (fun u => decide (u.word < overlayWords)) && decide (us.map Upset.word).Nodup

/-- The check on a command. -/
def Instr.wellFormed : Instr → Bool
  | .bootEnd out => upsetsWellFormed out.upsets
  | .wake _ meets _ => upsetsWellFormed meets.out.upsets
  | .wakeIn meets => upsetsWellFormed meets.out.upsets
  | .lineEnd out _ => upsetsWellFormed out.upsets
  | .verificationEnd us => upsetsWellFormed us
  | .deviceReset _ | .bootStart | .transactionStart _ | .transactionEnd _ _ | .unknownKind _
  | .identify _ | .resetPort _ | .subscribe _ | .readLayer _ | .readSignals _ | .readMarkers _
  | .readRegions _ | .cameraStatus _ | .claim _ | .release _ | .edit _ | .discard _ | .commit _
  | .seize _ | .force _ | .alloc _ | .free _ | .openLoad _ | .loadData _ | .abortLoad _
  | .eccClear _ | .setPeriod _ | .setCommitLine _ | .setStrobe _ | .setGenlock _ | .resync _
  | .cameraRestart _ | .setInput _ | .speed _ | .setSpeedBands _ | .setVirtual _ | .mark _
  | .unmark _ | .clearMarks _ | .setNear _ | .setPalette _ | .run _ | .quiet _ | .dormant _ _
  | .storeFitting _ | .storeEnd _ | .storeTimerExpiry | .dsync | .frameStart _ _
  | .cameraLine _ _ | .frameEnd _ | .powerOffExpiry _ | .inputRawChange _ _ | .debounceExpiry _
  | .speedAgeExpiry | .receiveTimeout => true

end Sys2Proof
end

