-- ==== Sys2Proof/Machine/Ops.lean ====
section
/-! DEFINITION. The operations every block shares: posting replies and raising alerts, the executor's
taking of a request, writing a layer slot, and Overlay Memory's reads and writes. -/

namespace Sys2Proof.Machine

/-! ## Port queues -/

/-- Change one port. -/
def State.modPort (s : State) (p : Port) (f : PortState → PortState) : State :=
  s.setPorts (s.ports.set p (f (s.ports.get p)))

/-- A reply joins the tail of the reply queue (R164). -/
def PortState.post (q : PortState) (r : Reply) : PortState :=
  { q with replies := q.replies ++ [⟨q.nextStamp, r⟩], nextStamp := q.nextStamp + 1 }

/-- Post a reply to a port. -/
def State.post (s : State) (p : Port) (r : Reply) : State := s.modPort p (·.post r)

/-- Answer a request with its tag and kind (R164, R186). -/
def State.answer (s : State) (p : Port) (r : Request) (result : ResultCode) (field : Byte)
    (values : List Byte) : State :=
  s.post p ⟨r.tag, r.kind, result, field, values⟩

/-- DONE with values. -/
def State.done (s : State) (p : Port) (r : Request) (values : List Byte) : State :=
  s.answer p r .done 0#8 values

/-- A result that carries neither field id nor values. -/
def State.refuse (s : State) (p : Port) (r : Request) (result : ResultCode) : State :=
  s.answer p r result 0#8 []

/-- BAD_FIELD with its field id. -/
def State.badField (s : State) (p : Port) (r : Request) (field : Byte) : State :=
  s.answer p r .badField field []

/-- Whether an alert is the one a transaction under way offers (R167). -/
def PortState.offers (q : PortState) (stamp : Nat) : Bool :=
  match q.transaction with
  | some t => decide (t.offer = some (.alert stamp))
  | none => false

/-- Raise the repeat count of the first alert that matches, stopping at 255 (R167; log 16). -/
def bumpFirst (matches_ : Stamped Alert → Bool) : List (Stamped Alert) → Option (List (Stamped Alert))
  | [] => none
  | a :: as =>
    if matches_ a then
      some ({ a with item := { a.item with count := min 255 (a.item.count + 1) } } :: as)
    else
      match bumpFirst matches_ as with
      | some bs => some (a :: bs)
      | none => none

/-- Whether a queued alert is of class S. -/
def isSafety (a : Stamped Alert) : Bool := decide (a.item.code.cls = .safety)

/-- Place a routed alert (R167): it coalesces with one of the same code and subject that is not being
offered, is dropped at a full queue, joins behind the class S alerts, or joins the tail. -/
def PortState.place (q : PortState) (a : Alert) : PortState :=
  match bumpFirst (fun b => decide (b.item.code = a.code) && decide (b.item.subject = a.subject)
      && !q.offers b.stamp) q.alerts with
  | some as => { q with alerts := as }
  | none =>
    if 8 ≤ q.alerts.length then { q with alertsLost := true }
    else if a.code.cls = .safety then
      { q with
        alerts := q.alerts.takeWhile isSafety ++ ⟨q.nextStamp, a⟩ :: q.alerts.dropWhile isSafety
        nextStamp := q.nextStamp + 1 }
    else
      { q with alerts := q.alerts ++ [⟨q.nextStamp, a⟩], nextStamp := q.nextStamp + 1 }

/-- Whether an alert class is routed to a port of this subscription (R166). -/
def Subscription.routes (u : Subscription) : AlertClass → Bool
  | .safety => true
  | .camera => u.camera
  | .layer => u.layer
  | .timing => u.timing
  | .part => u.part

/-- Route and place an alert at one port (R166, R167). -/
def PortState.raise (q : PortState) (a : Alert) : PortState :=
  if q.subscription.routes a.code.cls then q.place a else q

/-- An alert raised now: it carries the current frame number and a repeat count of 1 (R167). -/
def State.alertNow (s : State) (code : AlertCode) (subject detail : Nat) : Alert :=
  ⟨code, subject, detail, s.ftb.frame, 1⟩

/-- Raise an alert to one port. -/
def State.raiseTo (s : State) (p : Port) (code : AlertCode) (subject detail : Nat) : State :=
  s.modPort p (·.raise (s.alertNow code subject detail))

/-- Raise an alert to all three ports. -/
def State.raiseAll (s : State) (code : AlertCode) (subject detail : Nat) : State :=
  ((s.raiseTo .body code subject detail).raiseTo .detect code subject detail).raiseTo .cab code
    subject detail

/-! ## The executor -/

/-- One if the condition holds, else zero. -/
def countIf (b : Bool) : Nat := if b then 1 else 0

/-- Whether a port's job is VERIFYING with its answer open: an open LOAD_DATA (R165). -/
def Job.opensRequest (j : Job) : Bool :=
  match j.state with
  | .verifying _ _ => j.answerOpen
  | _ => false

/-- The open requests of a port (R165): COMMIT, LOAD_DATA, QUIET and STORE_FITTING, each held by its block. -/
def State.openRequests (s : State) (p : Port) : Nat :=
  countIf (s.ltb.sets.get p).isSome
  + countIf ((s.ovm.jobs.get p).any Job.opensRequest)
  + countIf (s.stc.entry.any (fun e => decide (e.port = p)))
  + countIf (s.fst.store.any (fun x => decide (x.port = p) && x.answerOpen))

/-- The reply places of a port in use: queued replies and open requests (R164, R165). -/
def State.placesInUse (s : State) (p : Port) : Nat :=
  (s.ports.get p).replies.length + s.openRequests p

/-- Remove the head of a port's request queue. -/
def State.dropRequest (s : State) (p : Port) : State :=
  s.modPort p (fun q => { q with requests := q.requests.tail })

/-- Whether the executor of a port can take its queue's head (R164): BOOT has begun and a reply place is
free; a RESET_PORT with no payload needs no place (R171; log 13). -/
def State.executorFree (s : State) (p : Port) (r : Request) : Bool :=
  !s.pins.resetLow
  && (decide (s.placesInUse p < 8)
      || (decide (r.kind = RequestKind.code .resetPort) && decide (r.payload = [])))

/-- The request at the head of a port's queue, when the executor can take it. -/
def State.head (s : State) (p : Port) : Option Request :=
  match (s.ports.get p).requests with
  | [] => none
  | r :: _ => if s.executorFree p r then some r else none

/-- Whether the executor's command for a kind can be carried out: the head it can take is of that kind. -/
def State.headIs (s : State) (p : Port) (kind : RequestKind) : Option Request :=
  match s.head p with
  | some r => if r.kind = kind.code then some r else none
  | none => none

/-- The executor takes a request of a kind and checks it in the order of R164: the port, the part state,
the payload length. A request that passes goes to its block. Where the head of the queue is of another
kind, or the executor waits, nothing happens (log 1). -/
def serve (kind : RequestKind) (p : Port) (s : State) (block : Request → State → Outcome) : Outcome :=
  match s.headIs p kind with
  | none => .next s
  | some r =>
    if kind.permitted p = false then .next ((s.dropRequest p).answer p r .rankRefused 0xFE#8 [])
    else if kind.admitted s.stc.part = false then .next ((s.dropRequest p).refuse p r .wrongState)
    else if kind.payloadFits r.payload = false then .next ((s.dropRequest p).badField p r 0xFF#8)
    else block r (s.dropRequest p)

/-- Byte `i` of a request's payload. -/
def Request.arg (r : Request) (i : Nat) : Byte := r.payload.getD i 0#8

/-- The number in bytes `i` on, `k` of them, of a request's payload (R185). -/
def Request.num (r : Request) (i k : Nat) : Nat := fromLe ((r.payload.drop i).take k)

/-! ## Layer slots -/

/-- Write one layer slot. -/
def State.setSlot (s : State) (i : Fin 24) (x : LayerSlot) : State :=
  s.setLtb { s.ltb with slots := s.ltb.slots.set i x }

/-- A slot leaves a port's pending set; the record stays, even with no member left (R32, R33). -/
def PendingSet.remove (x : PendingSet) (i : Fin 24) : PendingSet :=
  { x with members := x.members.filter (fun m => decide (m ≠ i)) }

/-- Take a slot out of the pending set of its owner, if that owner is a port with a set. -/
def LayerTable.leaveSet (t : LayerTable) (owner : Owner) (i : Fin 24) : LayerTable :=
  match owner with
  | .port p => { t with sets := t.sets.set p ((t.sets.get p).map (·.remove i)) }
  | .none | .fitted => t

/-! ## Overlay Memory -/

/-- The number of bytes of Overlay Memory (R121). -/
def overlayBytes : Nat := 262144

/-- The listed byte at an address, if something has written it since device reset. -/
def Memory.lookup : Memory → Nat → Option Byte
  | [], _ => none
  | (a, b) :: m, x => if a = x then some b else Memory.lookup m x

/-- Write one byte, keeping addresses strictly rising. -/
def Memory.write : Memory → Nat → Byte → Memory
  | [], x, v => [(x, v)]
  | (a, b) :: m, x, v =>
    if x < a then (x, v) :: (a, b) :: m
    else if x = a then (x, v) :: m
    else (a, b) :: Memory.write m x v

/-- Write bytes at consecutive addresses. -/
def Memory.writeAll (m : Memory) (x : Nat) : List Byte → Memory
  | [] => m
  | v :: vs => Memory.writeAll (m.write x v) (x + 1) vs

/-- The canonical form: addresses strictly rising and inside Overlay Memory. An unlisted address reads as
no written value, so no entry can equal what an unlisted address reads as (log 6). -/
def Memory.wf (m : Memory) : Bool :=
  decide (m.Pairwise (fun x y => x.1 < y.1)) && m.all (fun x => decide (x.1 < overlayBytes))

/-- The byte at an address: the one written there, or the free value of what nothing has written (R121,
R140; log 6). -/
def Overlay.byteAt (o : Overlay) (x : Nat) : Byte :=
  match o.memory.lookup x with
  | some b => b
  | none => Config.undefinedByte o.epoch x

/-- The addresses of a word's eight bytes (R121). -/
def wordAddresses (w : Nat) : List Nat := (List.range 8).map (fun i => 8 * w + i)

/-- Whether any byte of a word has been written since device reset, so that it carries check bits. -/
def Overlay.wordWritten (o : Overlay) (w : Nat) : Bool :=
  (wordAddresses w).any (fun x => (o.memory.lookup x).isSome)

/-- What a read of a word finds against its check bits (R137): the bits in error listed for it; without
any, a written word is clean and an unwritten one gives the free value (log 7). -/
def Overlay.check (o : Overlay) (w : Nat) : ReadCheck :=
  match o.errors.find? (fun u => decide (u.word = w)) with
  | some u =>
    match u.error with
    | .single => .single
    | .double => .double
  | none => if o.wordWritten w then .clean else Config.undefinedCheck o.epoch w

/-- What a read finds; a word past the end of Overlay Memory has no check bits (log 6). -/
def Overlay.readCheck (o : Overlay) (w : Nat) : ReadCheck :=
  if w < overlayWords then o.check w else .clean

/-- The word holds no error any more. -/
def Overlay.clearError (o : Overlay) (w : Nat) : Overlay :=
  { o with errors := o.errors.filter (fun u => decide (u.word ≠ w)) }

/-- A single-bit error is corrected, the word written back with its check bits, and counted, the count
staying at 255 (R137). -/
def Overlay.correct (o : Overlay) (w : Nat) : Overlay :=
  { o.clearError w with
    memory := o.memory.writeAll (8 * w) ((wordAddresses w).map o.byteAt)
    corrected := min 255 (o.corrected + 1) }

/-- Errors that have come about in memory words: each named word now holds the error named (log 8). -/
def Overlay.suffer (o : Overlay) (us : List Upset) : Overlay :=
  us.foldl (fun o u => { o.clearError u.word with errors := u :: (o.clearError u.word).errors }) o

/-- The words that a run of bytes touches. -/
def wordsTouched (x n : Nat) : List Nat :=
  if n = 0 then [] else (List.range ((x + n - 1) / 8 + 1 - x / 8)).map (fun i => x / 8 + i)

/-- Whether a run of bytes covers a whole word. -/
def coversWord (x n w : Nat) : Bool := decide (x ≤ 8 * w) && decide (8 * w + 8 ≤ x + n)

/-- Write a chunk: the words it covers get new check bits, and so hold no error; of a word it touches in
part, whether an earlier error stays is a free value (R121, R131; log 8). -/
def Overlay.writeChunk (o : Overlay) (x : Nat) (bs : List Byte) : Overlay :=
  { o with
    memory := o.memory.writeAll x bs
    errors := o.errors.filter (fun u =>
      !(wordsTouched x bs.length).contains u.word
      || (!coversWord x bs.length u.word && Config.partialWriteKeepsError o.epoch u.word)) }

/-- The bytes at consecutive addresses. -/
def Overlay.bytesFrom (o : Overlay) (x n : Nat) : List Byte :=
  (List.range n).map (fun i => o.byteAt (x + i))

/-- Write one Region Table entry. -/
def Overlay.setRegion (o : Overlay) (g : Fin 16) (x : Option Region) : Overlay :=
  { o with regions := o.regions.set g x }

/-- Change what a region holds, keeping its blocks and owner. -/
def Overlay.setContent (o : Overlay) (g : Fin 16) (c : RegionContent) : Overlay :=
  o.setRegion g (o.regions[g].map (fun r => { r with content := c }))

/-- Write one port's load job. -/
def Overlay.setJob (o : Overlay) (p : Port) (j : Option Job) : Overlay :=
  { o with jobs := o.jobs.set p j }

/-- The bytes of a block (R121). -/
def blockBytes : Nat := 4096

/-- The address of a region's first byte (R121). -/
def Region.base (r : Region) : Nat := blockBytes * r.first

/-- Whether a region is VALID: the one state that is drawable (R122). -/
def Region.isValid (r : Region) : Bool :=
  match r.content with
  | .valid _ => true
  | _ => false

/-- Whether a region is FAULTED (R122). -/
def Region.isFaulted (r : Region) : Bool :=
  match r.content with
  | .faulted _ => true
  | _ => false

/-- Whether a region is LOADING (R122). -/
def Region.isLoading (r : Region) : Bool :=
  match r.content with
  | .loading => true
  | _ => false

end Sys2Proof.Machine
end

