-- ==== Sys2Proof/Machine/Flags.lean ====
section
/-! DEFINITION. Every derived value: the signals (R87, R89, R96), conditions (R9), the blink phase (R144),
the safety condition of the part-state tests (R176), and the derived outputs ATTN and WAKE_OUT. -/

namespace Sys2Proof.Machine

/-- The active level: high under ACTIVE_HIGH, low under ACTIVE_LOW (R89). -/
def Polarity.activeLevel : Polarity → Bool
  | .activeHigh => true
  | .activeLow => false

/-- The value of a physical input's signal (R89). -/
def Input.value (x : Input) : Bool := x.conditioned == x.polarity.activeLevel

/-- STOPPED (R96). -/
def Conditioner.stopped (c : Conditioner) : Bool :=
  !c.stale && decide (c.speed ≤ c.stopThreshold)

/-- SLOW (R96): a speed at or below the slow threshold, STOPPED included. -/
def Conditioner.slow (c : Conditioner) : Bool :=
  !c.stale && (decide (c.speed ≤ c.stopThreshold) || decide (c.speed ≤ c.slowThreshold))

/-- The value of each of the 18 signals (R87). -/
def Conditioner.signal (c : Conditioner) (n : Fin 18) : Bool :=
  if h : n.val < 8 then (c.inputs[n.val]'h).value
  else if h : n.val - 8 < 6 then c.virtuals[n.val - 8]'h
  else if n.val = 14 then c.stopped
  else if n.val = 15 then c.slow
  else if n.val = 16 then c.near
  else c.stale

/-- The single view of all 18 signals (R87). -/
def Conditioner.view (c : Conditioner) : Vector Bool 18 := Vector.ofFn c.signal

/-- A condition holds when every term's signal stands at its level; the empty list holds (R9). -/
def conditionHolds (view : Vector Bool 18) (terms : List Term) : Bool :=
  terms.all (fun t => view[t.signal] == t.level)

/-- The blink phase, from the frame number (R144). -/
def Blink.phaseOn (b : Blink) (frame : Word16) : Bool :=
  match b with
  | .solid => true
  | .slow => decide (frame.toNat % 32 < 16)
  | .fast => decide (frame.toNat % 8 < 4)

/-- Owned: FITTED, BODY, DETECT or CAB (R38). -/
def Owner.isOwned : Owner → Bool
  | .none => false
  | .fitted | .port _ => true

/-- Whether an active, enabled, owned SAFETY layer with at least one term has its condition true; force
does not enter (R176). -/
def State.safetyCondition (s : State) : Bool :=
  s.ltb.slots.toList.any (fun x =>
    x.owner.isOwned && x.active.enabled && decide (x.active.cls = .safety)
    && !x.active.condition.isEmpty && conditionHolds s.scn.view x.active.condition)

/-- ATTN: asserted while a reply or an alert is queued (R169). -/
def PortState.attn (q : PortState) : Bool := !q.replies.isEmpty || !q.alerts.isEmpty

/-- WAKE_OUT: asserted while the wake-pending set is not empty (R100). -/
def Conditioner.wakeOut (c : Conditioner) : Bool := !c.wakePending.isEmpty

/-- Whether a camera is fitted: its link state is not ABSENT (R43, R107). -/
def Cameras.isPresent (c : Cameras) (k : Fin 4) : Bool := decide (c.links[k].link ≠ .absent)

/-- Which cameras are present: link state other than ABSENT (R43, R107). -/
def Cameras.presence (c : Cameras) : Vector Bool 4 := Vector.ofFn c.isPresent

/-- Whether a region is referenced: some slot's staged or active copy is a BITMAP that names it (R123). -/
def LayerRecord.names (r : LayerRecord) (g : Fin 16) : Bool :=
  match r.part with
  | .bitmap b => decide (b.region = g)
  | _ => false

/-- Whether a region is referenced by the Layer Table (R123). -/
def LayerTable.references (t : LayerTable) (g : Fin 16) : Bool :=
  t.slots.toList.any (fun x => x.staged.names g || x.active.names g)

end Sys2Proof.Machine
end

