-- ==== Sys2Proof/Machine/Operands.lean ====
section
/-! DEFINITION. What the payload bytes mean: field values and their ranges (R12, R21), the layer record
(section 11.1.4), and marker items (section 11.1.5), read and written. -/

namespace Sys2Proof.Machine

/-- A one-byte value of the length its field requires. -/
def value8 : List Byte → Option Nat
  | [b] => some b.toNat
  | _ => none

/-- A two-byte value of the length its field requires. -/
def value16 : List Byte → Option Nat
  | [a, b] => some (fromLe [a, b])
  | _ => none

/-- A number, if it lies in a range. -/
def within (lo hi : Nat) (n : Option Nat) : Option Nat :=
  n.bind (fun x => if lo ≤ x ∧ x ≤ hi then some x else none)

/-- A yes/no number. -/
def asFlag (n : Option Nat) : Option Bool :=
  match n with
  | some 0 => some false
  | some 1 => some true
  | _ => none

/-- A class number (R6). -/
def asClass (n : Option Nat) : Option LayerClass :=
  match n with
  | some 0 => some .ordinary
  | some 1 => some .safety
  | _ => none

/-- A blink number (R6). -/
def asBlink (n : Option Nat) : Option Blink :=
  match n with
  | some 0 => some .solid
  | some 1 => some .slow
  | some 2 => some .fast
  | _ => none

/-- A kind number (R6). -/
def asKind (n : Option Nat) : Option LayerKind :=
  match n with
  | some 0 => some .camera
  | some 1 => some .bitmap
  | some 2 => some .guide
  | some 3 => some .fill
  | _ => none

/-- A key index: 0 to 15, or FFh for NONE (R12, section 11.1.4). -/
def asKey (n : Option Nat) : Option (Option (Fin 16)) :=
  match n with
  | some 255 => some none
  | some x => (paletteOf x).map some
  | none => none

/-- A signal number (R9). -/
def signalOf (n : Nat) : Option (Fin 18) := if h : n < 18 then some ⟨n, h⟩ else none

/-- `n` condition terms, with the bytes after them (section 11.1.4). -/
def readTerms : Nat → List Byte → Option (List Term × List Byte)
  | 0, bs => some ([], bs)
  | n + 1, a :: b :: bs =>
    match signalOf a.toNat, flagOf b, readTerms n bs with
    | some g, some l, some (ts, rest) => some (⟨g, l⟩ :: ts, rest)
    | _, _, _ => none
  | _ + 1, _ => none

/-- `n` segments, each endpoint in range, with the bytes after them (R10, section 11.1.4). -/
def readSegments : Nat → List Byte → Option (List Segment × List Byte)
  | 0, bs => some ([], bs)
  | n + 1, a :: b :: c :: d :: e :: f :: g :: h :: bs =>
    match within 0 1279 (value16 [a, b]), within 0 719 (value16 [c, d]),
        within 0 1279 (value16 [e, f]), within 0 719 (value16 [g, h]), readSegments n bs with
    | some x0, some y0, some x1, some y1, some (ss, rest) => some (⟨x0, y0, x1, y1⟩ :: ss, rest)
    | _, _, _, _, _ => none
  | _ + 1, _ => none

/-- A condition list: a count of 0 to 4 and its terms (R9, R12). -/
def readCondition : List Byte → Option (List Term × List Byte)
  | n :: bs => if n.toNat ≤ 4 then readTerms n.toNat bs else none
  | [] => none

/-- A segment list: a count of 0 to 6 and its segments (R10, R12). -/
def readSegmentList : List Byte → Option (List Segment × List Byte)
  | n :: bs => if n.toNat ≤ 6 then readSegments n.toNat bs else none
  | [] => none

/-- A list value that fills its bytes exactly. -/
def whole {α : Type} : Option (α × List Byte) → Option α
  | some (a, []) => some a
  | _ => none

/-- The default contents of each kind's part (R8). -/
def LayerKind.defaultPart : LayerKind → KindPart
  | .camera => .camera ⟨1, 0, 0, 1280, 960, false, false⟩
  | .bitmap => .bitmap ⟨0, 8, 8, none⟩
  | .guide => .guide ⟨15, 2, []⟩
  | .fill => .fill 0

/-- Write the kind field: another kind replaces the part by its defaults, the same kind changes nothing (R8). -/
def LayerRecord.withKind (r : LayerRecord) (k : LayerKind) : LayerRecord :=
  if r.part.kind = k then r else { r with part := k.defaultPart }

/-- Change the camera part, if it is present. -/
def LayerRecord.onCamera (r : LayerRecord) (f : CameraPart → CameraPart) : Option LayerRecord :=
  match r.part with
  | .camera c => some { r with part := .camera (f c) }
  | _ => none

/-- Change the bitmap part, if it is present. -/
def LayerRecord.onBitmap (r : LayerRecord) (f : BitmapPart → BitmapPart) : Option LayerRecord :=
  match r.part with
  | .bitmap b => some { r with part := .bitmap (f b) }
  | _ => none

/-- Change the guide part, if it is present. -/
def LayerRecord.onGuide (r : LayerRecord) (f : GuidePart → GuidePart) : Option LayerRecord :=
  match r.part with
  | .guide g => some { r with part := .guide (f g) }
  | _ => none

/-- Change the fill part, if it is present. -/
def LayerRecord.onFill (r : LayerRecord) (c : Fin 16) : Option LayerRecord :=
  match r.part with
  | .fill _ => some { r with part := .fill c }
  | _ => none

/-- Write one field by its id (R12): none when the id is not in the table, the value's length or range
does not suit the field, or the field's part is absent. -/
def LayerRecord.writeField (r : LayerRecord) (id : Nat) (v : List Byte) : Option LayerRecord :=
  match id with
  | 0x01 => (asFlag (value8 v)).map (fun x => { r with enabled := x })
  | 0x02 => (asClass (value8 v)).map (fun x => { r with cls := x })
  | 0x03 => (asKind (value8 v)).map r.withKind
  | 0x04 => (within 0 23 (value8 v)).map (fun x => { r with z := x })
  | 0x05 => (within 0 1272 (value16 v)).map (fun x => { r with destX := x })
  | 0x06 => (within 0 712 (value16 v)).map (fun x => { r with destY := x })
  | 0x07 => (within 8 1280 (value16 v)).map (fun x => { r with destW := x })
  | 0x08 => (within 8 720 (value16 v)).map (fun x => { r with destH := x })
  | 0x09 => (within 0 15 (value8 v)).map (fun x => { r with alpha := x })
  | 0x0A => (whole (readCondition v)).map (fun x => { r with condition := x })
  | 0x0B => (asBlink (value8 v)).map (fun x => { r with blink := x })
  | 0x0C => (asFlag (value8 v)).map (fun x => { r with record := x })
  | 0x10 => ((value8 v).bind cameraOf).bind (fun x => r.onCamera (fun c => { c with camera := x }))
  | 0x11 => (within 0 1264 (value16 v)).bind (fun x => r.onCamera (fun c => { c with cropX := x }))
  | 0x12 => (within 0 944 (value16 v)).bind (fun x => r.onCamera (fun c => { c with cropY := x }))
  | 0x13 => (within 16 1280 (value16 v)).bind (fun x => r.onCamera (fun c => { c with cropW := x }))
  | 0x14 => (within 16 960 (value16 v)).bind (fun x => r.onCamera (fun c => { c with cropH := x }))
  | 0x15 => (asFlag (value8 v)).bind (fun x => r.onCamera (fun c => { c with mirror := x }))
  | 0x16 => (asFlag (value8 v)).bind (fun x => r.onCamera (fun c => { c with markers := x }))
  | 0x18 => ((value8 v).bind regionOf).bind (fun x => r.onBitmap (fun b => { b with region := x }))
  | 0x19 => (within 1 1280 (value16 v)).bind (fun x => r.onBitmap (fun b => { b with width := x }))
  | 0x1A => (within 1 720 (value16 v)).bind (fun x => r.onBitmap (fun b => { b with height := x }))
  | 0x1B => (asKey (value8 v)).bind (fun x => r.onBitmap (fun b => { b with key := x }))
  | 0x20 => ((value8 v).bind paletteOf).bind (fun x => r.onGuide (fun g => { g with colour := x }))
  | 0x21 => (within 1 4 (value8 v)).bind (fun x => r.onGuide (fun g => { g with width := x }))
  | 0x22 => (whole (readSegmentList v)).bind (fun x => r.onGuide (fun g => { g with segments := x }))
  | 0x28 => ((value8 v).bind paletteOf).bind r.onFill
  | _ => none

/-- A pair that writes SAFETY into the class field (R14). -/
def EditPair.writesSafety (x : EditPair) : Bool :=
  decide (x.id = 0x02#8) && decide (asClass (value8 x.value) = some .safety)

/-- Check and apply the pairs of an EDIT in order against a working copy; the first failing pair gives the
result and its field id (R21). -/
def applyPairs (p : Port) : List EditPair → LayerRecord → Except (ResultCode × Byte) LayerRecord
  | [], r => .ok r
  | x :: xs, r =>
    if x.writesSafety && decide (p ≠ .body) then .error (.rankRefused, 0x02#8)
    else
      match r.writeField x.id.toNat x.value with
      | some r' => applyPairs p xs r'
      | none => .error (.badField, x.id)

/-! ## The layer record's bytes (section 11.1.4) -/

/-- Condition terms as bytes. -/
def termBytes (ts : List Term) : List Byte :=
  ts.flatMap (fun t => [byte t.signal.val, flag t.level])

/-- Segments as bytes. -/
def segmentBytes (ss : List Segment) : List Byte :=
  ss.flatMap (fun g => le 2 g.x0 ++ le 2 g.y0 ++ le 2 g.x1 ++ le 2 g.y1)

/-- A kind part as bytes. Bits 2 to 7 of a camera part's flags byte are 0 (log 29). -/
def KindPart.bytes : KindPart → List Byte
  | .camera c =>
    byte c.camera.val :: le 2 c.cropX ++ le 2 c.cropY ++ le 2 c.cropW ++ le 2 c.cropH
      ++ [byte (bitsToNat [c.mirror, c.markers])]
  | .bitmap b =>
    byte b.region.val :: le 2 b.width ++ le 2 b.height
      ++ [match b.key with | some k => byte k.val | none => 0xFF#8]
  | .guide g => byte g.colour.val :: byte g.width :: byte g.segments.length :: segmentBytes g.segments
  | .fill c => [byte c.val]

/-- A layer record as bytes. -/
def LayerRecord.bytes (r : LayerRecord) : List Byte :=
  byte ((if r.enabled then 1 else 0) + 2 * r.cls.number + 4 * r.part.kind.number
      + 16 * r.blink.number + (if r.record then 64 else 0))
    :: byte r.z :: le 2 r.destX ++ le 2 r.destY ++ le 2 r.destW ++ le 2 r.destH
    ++ byte r.alpha :: byte r.condition.length :: termBytes r.condition ++ r.part.bytes

/-- Read a kind part, every field in its range (R12). Bits 2 to 7 of the camera part's flags byte, which the
layout does not assign, are ignored (log 29). -/
def readPart (k : LayerKind) (bs : List Byte) : Option (KindPart × List Byte) :=
  match k with
  | .camera =>
    match bs with
    | c :: x0 :: x1 :: y0 :: y1 :: w0 :: w1 :: h0 :: h1 :: f :: rest =>
      match cameraOf c.toNat, within 0 1264 (value16 [x0, x1]), within 0 944 (value16 [y0, y1]),
          within 16 1280 (value16 [w0, w1]), within 16 960 (value16 [h0, h1]) with
      | some cam, some x, some y, some w, some h =>
        some (.camera ⟨cam, x, y, w, h, bit f 0, bit f 1⟩, rest)
      | _, _, _, _, _ => none
    | _ => none
  | .bitmap =>
    match bs with
    | g :: w0 :: w1 :: h0 :: h1 :: k :: rest =>
      match regionOf g.toNat, within 1 1280 (value16 [w0, w1]), within 1 720 (value16 [h0, h1]),
          asKey (some k.toNat) with
      | some region, some w, some h, some key => some (.bitmap ⟨region, w, h, key⟩, rest)
      | _, _, _, _ => none
    | _ => none
  | .guide =>
    match bs with
    | c :: w :: segs =>
      match paletteOf c.toNat, within 1 4 (some w.toNat), readSegmentList segs with
      | some colour, some width, some (ss, rest) => some (.guide ⟨colour, width, ss⟩, rest)
      | _, _, _ => none
    | _ => none
  | .fill =>
    match bs with
    | c :: rest =>
      match paletteOf c.toNat with
      | some colour => some (.fill colour, rest)
      | none => none
    | _ => none

/-- Read a layer record, every field, count and enumerated bit field in its range (R188), with the bytes
after it. -/
def readRecord (bs : List Byte) : Option (LayerRecord × List Byte) :=
  match bs with
  | f :: z :: x0 :: x1 :: y0 :: y1 :: w0 :: w1 :: h0 :: h1 :: a :: rest =>
    match asKind (some (f.toNat / 4 % 4)), asBlink (some (f.toNat / 16 % 4)),
        within 0 23 (some z.toNat), within 0 1272 (value16 [x0, x1]), within 0 712 (value16 [y0, y1]),
        within 8 1280 (value16 [w0, w1]), within 8 720 (value16 [h0, h1]),
        within 0 15 (some a.toNat), readCondition rest with
    | some kind, some blink, some z, some x, some y, some w, some h, some alpha, some (terms, rest) =>
      match readPart kind rest with
      | some (part, rest) =>
        some (⟨bit f 0, if bit f 1 then .safety else .ordinary, z, x, y, w, h, alpha, terms, blink,
          bit f 6, part⟩, rest)
      | none => none
    | _, _, _, _, _, _, _, _, _ => none
  | _ => none

/-! ## Marker items (section 11.1.5) -/

/-- A marker item as sent: raw numbers, not yet checked (R107). -/
structure MarkerItem where
  track : Nat
  camera : Nat
  boxX : Nat
  boxY : Nat
  boxW : Nat
  boxH : Nat
  cls : Nat
  range : Nat
  ttl : Nat
  deriving DecidableEq, Repr

/-- Read `n` items of 15 bytes. -/
def readItems : Nat → List Byte → List MarkerItem
  | 0, _ => []
  | n + 1, bs =>
    let at_ (i k : Nat) : Nat := fromLe ((bs.drop i).take k)
    ⟨at_ 0 2, at_ 2 1, at_ 3 2, at_ 5 2, at_ 7 2, at_ 9 2, at_ 11 1, at_ 12 2, at_ 14 1⟩
      :: readItems n (bs.drop 15)

/-- A marker's item bytes (section 11.1.5). -/
def Marker.itemBytes (m : Marker) : List Byte :=
  le 2 m.track ++ byte m.camera.val :: le 2 m.boxX ++ le 2 m.boxY ++ le 2 m.boxW ++ le 2 m.boxH
    ++ byte m.cls.number :: le 2 m.range ++ [byte m.ttl]

/-- A palette from its bytes, three for each colour, red first (section 11.1.2). -/
def paletteFrom (bs : List Byte) : Vector Colour 16 :=
  Vector.ofFn (fun i =>
    ⟨bs.getD (3 * i.val) 0#8, bs.getD (3 * i.val + 1) 0#8, bs.getD (3 * i.val + 2) 0#8⟩)

/-- A colour's three bytes. -/
def Colour.bytes (c : Colour) : List Byte := [c.red, c.green, c.blue]

end Sys2Proof.Machine
end

