-- ==== Sys2Proof/Machine/Layers.lean ====
section
/-! DEFINITION. The Layer Table's requests (chapter 1), COMMIT's request (R30) and FORCE (R153). -/

namespace Sys2Proof.Machine

/-- A request that names a slot in payload byte 0; a number outside 0 to 23 is BAD_FIELD 00h before any
other check (R15). -/
def onSlot (p : Port) (r : Request) (s : State) (f : Fin 24 → State) : Outcome :=
  match slotOf (r.arg 0).toNat with
  | none => .next (s.badField p r 0x00#8)
  | some i => .next (f i)

/-- A slot given to a port with no edits waiting: the copies take the active content (R16, R17). -/
def LayerSlot.grant (x : LayerSlot) (p : Port) : LayerSlot :=
  { x with owner := .port p, status := .clean, staged := x.active }

/-- Whether either copy is of class SAFETY (R14, R16). -/
def LayerSlot.holdsSafety (x : LayerSlot) : Bool :=
  decide (x.active.cls = .safety) || decide (x.staged.cls = .safety)

/-- CLAIM on one slot (R16). -/
def claimSlot (p : Port) (r : Request) (s : State) (i : Fin 24) : State :=
  let x := s.ltb.slots[i]
  if x.owner = .port p then s.refuse p r .granted
  else if p ≠ .body ∧ x.holdsSafety = true then s.answer p r .rankRefused 0xFE#8 []
  else
    match x.owner with
    | .port q => s.answer p r .heldBy 0#8 [byte (Owner.port q).number]
    | .none => (s.setSlot i { LayerSlot.unowned with owner := .port p }).refuse p r .granted
    | .fitted => (s.setSlot i (x.grant p)).refuse p r .granted

/-- CLAIM (R16). -/
def execClaim (p : Port) (s : State) : Outcome :=
  serve .claim p s (fun r s => onSlot p r s (claimSlot p r s))

/-- SEIZE on one slot: BODY takes it from whoever holds it; a port that loses it is told (R17, R18, R32).
The reply names the owner before. -/
def seizeSlot (p : Port) (r : Request) (s : State) (i : Fin 24) : State :=
  let x := s.ltb.slots[i]
  let reply (t : State) : State := t.answer p r .granted 0#8 [byte x.owner.number]
  if x.owner = .port .body then reply s
  else
    let t := (s.setLtb (s.ltb.leaveSet x.owner i)).setSlot i (x.grant .body)
    match x.owner with
    | .port q => reply (t.raiseTo q .layerSeized i.val 0)
    | .none | .fitted => reply t

/-- SEIZE (R17). The reply to a SEIZE of BODY's own slot names BODY (log 14). -/
def execSeize (p : Port) (s : State) : Outcome :=
  serve .seize p s (fun r s => onSlot p r s (seizeSlot p r s))

/-- A slot becomes free and leaves its owner's pending set (R2, R19, R33). -/
def State.freeSlot (s : State) (i : Fin 24) : State :=
  (s.setLtb (s.ltb.leaveSet s.ltb.slots[i].owner i)).setSlot i LayerSlot.unowned

/-- RELEASE on one slot (R19). -/
def releaseSlot (p : Port) (r : Request) (s : State) (i : Fin 24) : State :=
  if s.ltb.slots[i].owner = .port p then (s.freeSlot i).done p r [] else s.refuse p r .notOwner

/-- RELEASE (R19). -/
def execRelease (p : Port) (s : State) : Outcome :=
  serve .release p s (fun r s => onSlot p r s (releaseSlot p r s))

/-- The pairs an EDIT carries. -/
def Request.pairs (r : Request) : List EditPair := (editPairs (r.arg 1) (r.payload.drop 2)).getD []

/-- EDIT on one slot, in the order of R20: the number of pairs, the owner, the status, the pairs. -/
def editSlot (p : Port) (r : Request) (s : State) (i : Fin 24) : State :=
  let x := s.ltb.slots[i]
  if (r.arg 1).toNat < 1 ∨ 16 < (r.arg 1).toNat then s.badField p r 0x0F#8
  else if x.owner ≠ .port p then s.refuse p r .notOwner
  else if x.status = .pending then s.refuse p r .busy
  else
    match applyPairs p r.pairs x.staged with
    | .error (result, field) => s.answer p r result field []
    | .ok staged => (s.setSlot i { x with staged := staged, status := .edited }).done p r []

/-- EDIT (R20, R21). -/
def execEdit (p : Port) (s : State) : Outcome :=
  serve .edit p s (fun r s => onSlot p r s (editSlot p r s))

/-- Whether a slot is one of the port's EDITED slots. -/
def LayerSlot.editedBy (x : LayerSlot) (p : Port) : Bool :=
  decide (x.owner = .port p) && decide (x.status = .edited)

/-- The port's EDITED slots, in ascending slot order. -/
def LayerTable.editedSlots (t : LayerTable) (p : Port) : List (Fin 24) :=
  (List.finRange 24).filter (fun i => t.slots[i].editedBy p)

/-- Every EDITED slot of the port takes its active content back (R22). -/
def LayerTable.discard (t : LayerTable) (p : Port) : LayerTable :=
  { t with
    slots := Vector.ofFn (fun i =>
      if t.slots[i].editedBy p then { t.slots[i] with staged := t.slots[i].active, status := .clean }
      else t.slots[i]) }

/-- DISCARD (R22): BUSY while the port has a pending commit, else the number of slots returned. -/
def execDiscard (p : Port) (s : State) : Outcome :=
  serve .discard p s (fun r s =>
    if (s.ltb.sets.get p).isSome then .next (s.refuse p r .busy)
    else
      .next ((s.setLtb (s.ltb.discard p)).done p r [byte (s.ltb.editedSlots p).length]))

/-- READ_LAYER's values: slot, owner, staging status, force, staged record, active record (section 11.1.4). -/
def layerValues (s : State) (i : Fin 24) : List Byte :=
  let x := s.ltb.slots[i]
  [byte i.val, byte x.owner.number, byte x.status.number, byte x.force.number]
    ++ x.staged.bytes ++ x.active.bytes

/-- READ_LAYER (R23). -/
def execReadLayer (p : Port) (s : State) : Outcome :=
  serve .readLayer p s (fun r s => onSlot p r s (fun i => s.done p r (layerValues s i)))

/-- A frame number's two bytes. -/
def frameBytes (f : Word16) : List Byte := le 2 f.toNat

/-- COMMITTED with its count and first frame, F+1 (R30, R34, R40). -/
def committedValues (count : Nat) (frame : Word16) : List Byte := byte count :: frameBytes (frame + 1#16)

/-- The port's EDITED slots become PENDING members of its new pending set (R30). -/
def LayerTable.openSet (t : LayerTable) (p : Port) (tag : Tag) : LayerTable :=
  { slots := Vector.ofFn (fun i =>
      if t.slots[i].editedBy p then { t.slots[i] with status := .pending } else t.slots[i])
    sets := t.sets.set p (some ⟨tag, t.editedSlots p⟩) }

/-- COMMIT (R30): BUSY with a pending commit, COMMITTED at once with nothing edited, else an open request. -/
def execCommit (p : Port) (s : State) : Outcome :=
  serve .commit p s (fun r s =>
    if (s.ltb.sets.get p).isSome then .next (s.refuse p r .busy)
    else if (s.ltb.editedSlots p).isEmpty then
      .next (s.answer p r .committed 0#8 (committedValues 0 s.ftb.frame))
    else .next (s.setLtb (s.ltb.openSet p r.tag)))

/-- FORCE on one slot (R153). -/
def forceSlot (p : Port) (r : Request) (s : State) (i : Fin 24) : State :=
  let x := s.ltb.slots[i]
  match forceOf (r.arg 1) with
  | none => s.badField p r 0x01#8
  | some f =>
    if x.owner = .none then s.refuse p r .notOwner
    else (s.setSlot i { x with force := f }).done p r [byte x.force.number]

/-- FORCE (R153). -/
def execForce (p : Port) (s : State) : Outcome :=
  serve .force p s (fun r s => onSlot p r s (forceSlot p r s))

/-- Every slot of a port is freed and its pending set dropped, with no reply and no alert (R27, R35). -/
def LayerTable.portReset (t : LayerTable) (p : Port) : LayerTable :=
  { slots := Vector.ofFn (fun i =>
      if t.slots[i].owner = .port p then LayerSlot.unowned else t.slots[i])
    sets := t.sets.set p none }

end Sys2Proof.Machine
end

