-- ==== Sys2Proof/Machine/Commit.lean ====
section
/-! DEFINITION. The commit line: the checks of section 2.3 over a candidate table, and the resolution of
the pending sets in rank order (R36 to R44). -/

namespace Sys2Proof.Machine

/-- The detail codes of R39. -/
inductive DetailCode where
  | geometry
  | crop
  | scale
  | segment
  | cameraAbsent
  | regionNotValid
  | bitmapSize
  | zConflict
  | zOrder
  | safetyCount
  deriving DecidableEq, Repr

/-- Their values, 01h to 0Ah (R39). -/
def DetailCode.number : DetailCode → Nat
  | .geometry => 1
  | .crop => 2
  | .scale => 3
  | .segment => 4
  | .cameraAbsent => 5
  | .regionNotValid => 6
  | .bitmapSize => 7
  | .zConflict => 8
  | .zOrder => 9
  | .safetyCount => 10

/-- A slot as the checks see it: who owns it and the record that would be active (R38). -/
structure Candidate where
  owner : Owner
  record : LayerRecord
  deriving DecidableEq, Repr

/-- The candidate table: each member's staged copy in place of its active copy (R38). -/
def LayerTable.candidates (t : LayerTable) (members : List (Fin 24)) : Vector Candidate 24 :=
  Vector.ofFn (fun i =>
    ⟨t.slots[i].owner, if i ∈ members then t.slots[i].staged else t.slots[i].active⟩)

/-- A candidate that takes part in the whole-table checks: enabled and owned (R44). -/
def Candidate.counts (c : Candidate) : Bool := c.record.enabled && c.owner.isOwned

/-- GEOMETRY holds (R42). -/
def geometryHolds (r : LayerRecord) : Bool :=
  decide (r.destX + r.destW ≤ 1280) && decide (r.destY + r.destH ≤ 720)

/-- CROP holds (R42). -/
def cropHolds (c : CameraPart) : Bool :=
  decide (c.cropX + c.cropW ≤ 1280) && decide (c.cropY + c.cropH ≤ 960)

/-- SCALE holds: 1/4 to 2 on each axis (R42). -/
def scaleHolds (r : LayerRecord) (c : CameraPart) : Bool :=
  decide (c.cropW ≤ 4 * r.destW) && decide (r.destW ≤ 2 * c.cropW)
    && decide (c.cropH ≤ 4 * r.destH) && decide (r.destH ≤ 2 * c.cropH)

/-- SEGMENT holds: every endpoint inside the dest (R42). -/
def segmentsHold (r : LayerRecord) (g : GuidePart) : Bool :=
  g.segments.all (fun x => decide (x.x0 < r.destW) && decide (x.x1 < r.destW)
    && decide (x.y0 < r.destH) && decide (x.y1 < r.destH))

/-- Whether another enabled, owned candidate than `i` has height `z` (R44). -/
def zTaken (table : Vector Candidate 24) (i : Fin 24) (z : Nat) : Bool :=
  (List.finRange 24).any (fun j => decide (j ≠ i) && table[j].counts && decide (table[j].record.z = z))

/-- Whether an enabled, owned ORDINARY candidate stands at or above `z`, for a SAFETY layer, or a SAFETY
one at or below it, for an ORDINARY layer (R44). -/
def zOutOfOrder (table : Vector Candidate 24) (cls : LayerClass) (z : Nat) : Bool :=
  match cls with
  | .safety => table.toList.any (fun c => c.counts && decide (c.record.cls = .ordinary) && decide (z ≤ c.record.z))
  | .ordinary => table.toList.any (fun c => c.counts && decide (c.record.cls = .safety) && decide (c.record.z ≤ z))

/-- How many enabled, owned SAFETY layers a candidate table holds (R44). -/
def safetyCount (table : Vector Candidate 24) : Nat :=
  (table.toList.filter (fun c => c.counts && decide (c.record.cls = .safety))).length

/-- The cross-field and resource checks of a member's kind part, in the order of R39, with what the camera
links and the Region Table say (R42, R43). -/
def partFailure (present : Vector Bool 4) (regions : Vector (Option Region) 16) (r : LayerRecord) :
    Option DetailCode :=
  match r.part with
  | .camera c =>
    if cropHolds c = false then some .crop
    else if scaleHolds r c = false then some .scale
    else if present[c.camera] = false then some .cameraAbsent
    else none
  | .guide g => if segmentsHold r g = false then some .segment else none
  | .bitmap b =>
    match regions[b.region] with
    | none => some .regionNotValid
    | some g =>
      if g.isValid = false then some .regionNotValid
      else if g.count * 8192 < b.width * b.height then some .bitmapSize
      else none
  | .fill _ => none

/-- The whole-table checks of an enabled member (R44). -/
def tableFailure (table : Vector Candidate 24) (i : Fin 24) : Option DetailCode :=
  let r := table[i].record
  if r.enabled = false then none
  else if zTaken table i r.z then some .zConflict
  else if zOutOfOrder table r.cls r.z then some .zOrder
  else if r.cls = .safety ∧ 8 < safetyCount table then some .safetyCount
  else none

/-- The first check a member fails, in the order of R39. -/
def memberFailure (present : Vector Bool 4) (regions : Vector (Option Region) 16)
    (table : Vector Candidate 24) (i : Fin 24) : Option DetailCode :=
  if geometryHolds table[i].record = false then some .geometry
  else
    match partFailure present regions table[i].record with
    | some code => some code
    | none => tableFailure table i

/-- The first failing member of a set, in ascending slot order, with its detail code (R39). -/
def setFailure (present : Vector Bool 4) (regions : Vector (Option Region) 16)
    (table : Vector Candidate 24) : List (Fin 24) → Option (Fin 24 × DetailCode)
  | [] => none
  | i :: rest =>
    match memberFailure present regions table i with
    | some code => some (i, code)
    | none => setFailure present regions table rest

/-- A set applied: every member's staged copy becomes active, status CLEAN (R40). -/
def LayerTable.applySet (t : LayerTable) (p : Port) (members : List (Fin 24)) : LayerTable :=
  { slots := Vector.ofFn (fun i =>
      if i ∈ members then { t.slots[i] with active := t.slots[i].staged, status := .clean } else t.slots[i])
    sets := t.sets.set p none }

/-- A set refused: every member returns to EDITED (R41). -/
def LayerTable.refuseSet (t : LayerTable) (p : Port) (members : List (Fin 24)) : LayerTable :=
  { slots := Vector.ofFn (fun i =>
      if i ∈ members then { t.slots[i] with status := .edited } else t.slots[i])
    sets := t.sets.set p none }

/-- The reply of an open COMMIT, with its tag (R165). -/
def commitReply (tag : Tag) (result : ResultCode) (values : List Byte) : Reply :=
  ⟨tag, RequestKind.code .commit, result, 0#8, values⟩

/-- Resolve one port's pending set: an empty set is answered COMMITTED with count 0 (R34), a set that
passes is applied (R40), one that fails is refused with its first failing member (R41). -/
def State.resolveSet (s : State) (p : Port) : State :=
  match s.ltb.sets.get p with
  | none => s
  | some x =>
    match setFailure s.cams.presence s.ovm.regions (s.ltb.candidates x.members) x.members with
    | none =>
      (s.setLtb (s.ltb.applySet p x.members)).post p
        (commitReply x.tag .committed (committedValues x.members.length s.ftb.frame))
    | some (i, code) =>
      (s.setLtb (s.ltb.refuseSet p x.members)).post p
        (commitReply x.tag .commitRefused [byte i.val, byte code.number])

/-- The COMMIT event: the three ports' sets in rank order, each on the table the one before left (R36). -/
def State.commitEvent (s : State) : State :=
  ((s.resolveSet .body).resolveSet .detect).resolveSet .cab

end Sys2Proof.Machine
end

