-- ==== Sys2Proof/Machine/Load.lean ====
section
/-! DEFINITION. The Region Table's requests and the Load Engine (chapter 7): allocation, jobs, the arbiter,
verification, timeouts. Reads for drawing are the Composer's. -/

namespace Sys2Proof.Machine

/-- Whether a region entry holds a block (R122). -/
def regionHolds (x : Option Region) (b : Nat) : Bool :=
  match x with
  | some r => decide (r.first ≤ b) && decide (b < r.first + r.count)
  | none => false

/-- A block is free while no entry holds it (R122). -/
def Overlay.blockFree (o : Overlay) (b : Nat) : Bool := !o.regions.toList.any (regionHolds · b)

/-- The lowest block that starts a run of `n` free blocks (R124). -/
def Overlay.freeRun (o : Overlay) (n : Nat) : Option Nat :=
  (List.range (65 - n)).find? (fun b => (List.range n).all (fun i => o.blockFree (b + i)))

/-- The lowest-numbered FREE entry (R124). -/
def Overlay.freeEntry (o : Overlay) : Option (Fin 16) :=
  (List.finRange 16).find? (fun g => o.regions[g].isNone)

/-- ALLOC (R124). -/
def execAlloc (p : Port) (s : State) : Outcome :=
  serve .alloc p s (fun r s =>
    let n := (r.arg 0).toNat
    if n < 1 ∨ 64 < n then .next (s.badField p r 0x01#8)
    else
      match s.ovm.freeEntry, s.ovm.freeRun n with
      | some g, some b =>
        .next ((s.setOvm (s.ovm.setRegion g (some ⟨b, n, p, .empty⟩))).done p r
          [byte g.val, byte b, byte n])
      | _, _ => .next (s.refuse p r .noSpace))

/-- FREE on one region, in the order of R125. -/
def freeRegion (p : Port) (r : Request) (s : State) (g : Fin 16) : State :=
  match s.ovm.regions[g] with
  | none => s.refuse p r .notOwner
  | some x =>
    if x.owner ≠ p then s.refuse p r .notOwner
    else if x.isLoading then s.refuse p r .busy
    else if s.ltb.references g then s.refuse p r .inUse
    else (s.setOvm (s.ovm.setRegion g none)).done p r []

/-- FREE (R125). -/
def execFree (p : Port) (s : State) : Outcome :=
  serve .free p s (fun r s =>
    match regionOf (r.arg 0).toNat with
    | none => .next (s.badField p r 0x01#8)
    | some g => .next (freeRegion p r s g))

/-- A value that is none is all ones (R185). -/
def crcBytes : Option Word32 → List Byte
  | some c => le 4 c.toNat
  | none => le 4 0xFFFFFFFF

/-- The content CRC-32 of a region, present in VALID and FAULTED (R122). -/
def Region.crc (r : Region) : Option Word32 :=
  match r.content with
  | .valid c | .faulted c => some c
  | .empty | .loading => none

/-- One Region Table entry's bytes; the owner is its place in BODY, DETECT, CAB (R126, R187; log 14). -/
def regionBytes (x : Option Region) : List Byte :=
  match x with
  | none => [byte (regionStateNumber none), 0xFF#8, 0xFF#8, 0xFF#8] ++ crcBytes none
  | some r => [byte (regionStateNumber x), byte r.first, byte r.count, byte (Port.number r.owner)]
      ++ crcBytes r.crc

/-- One job's bytes (R187). -/
def jobBytes (p : Port) (x : Option Job) : List Byte :=
  match x with
  | none => []
  | some j => [byte (Port.number p), byte j.region.val, byte j.state.number] ++ le 4 j.length
      ++ le 4 j.cursor ++ [j.nextSeq]

/-- How many ports have a job. -/
def Overlay.jobCount (o : Overlay) : Nat :=
  countIf o.jobs.body.isSome + countIf o.jobs.detect.isSome + countIf o.jobs.cab.isSome

/-- READ_REGIONS's values (R126, R187). The jobs follow in the order BODY, DETECT, CAB, which R187 does not give
(log 30). -/
def Overlay.values (o : Overlay) : List Byte :=
  o.regions.toList.flatMap regionBytes ++ [byte o.corrected, byte o.jobCount]
    ++ jobBytes .body o.jobs.body ++ jobBytes .detect o.jobs.detect ++ jobBytes .cab o.jobs.cab

/-- READ_REGIONS (R126). -/
def execReadRegions (p : Port) (s : State) : Outcome :=
  serve .readRegions p s (fun r s => .next (s.done p r s.ovm.values))

/-- ECC_CLEAR (R137). -/
def execEccClear (p : Port) (s : State) : Outcome :=
  serve .eccClear p s (fun r s =>
    .next ((s.setOvm { s.ovm with corrected := 0 }).done p r [byte s.ovm.corrected]))

/-! ## The arbiter (section 7.4.1) -/

/-- A RECEIVING job. -/
def Job.isReceiving (j : Job) : Bool :=
  match j.state with
  | .receiving _ => true
  | _ => false

/-- A VERIFYING job. -/
def Job.isVerifying (j : Job) : Bool :=
  match j.state with
  | .verifying _ _ => true
  | _ => false

/-- A SUSPENDED job. -/
def Job.isSuspended (j : Job) : Bool :=
  match j.state with
  | .suspended => true
  | _ => false

/-- The first port in rank order whose job passes a test: BODY, DETECT, CAB (R129, R130). -/
def PerPort.firstJob (jobs : PerPort (Option Job)) (test : Job → Bool) : Option (Port × Job) :=
  match jobs.body.filter test with
  | some j => some (.body, j)
  | none =>
    match jobs.detect.filter test with
    | some j => some (.detect, j)
    | none => (jobs.cab.filter test).map (fun j => (.cab, j))

/-- The receive timer's full time (R129, R134). -/
def receiveTime : Nat := 2000

/-- When the place falls free, the SUSPENDED job of highest rank becomes RECEIVING and its port is told
(R130, R136). -/
def State.resumeNext (s : State) : State :=
  match s.ovm.jobs.firstJob Job.isSuspended with
  | none => s
  | some (q, j) =>
    (s.setOvm (s.ovm.setJob q (some { j with state := .receiving receiveTime }))).raiseTo q .loadResumed
      j.region.val 0

/-- A job ends and its region takes a content; if the job held the place, the arbiter looks for the next
(R130). -/
def State.endJob (s : State) (p : Port) (j : Job) (content : RegionContent) : State :=
  let t := s.setOvm ((s.ovm.setContent j.region content).setJob p none)
  if j.isSuspended then t else t.resumeNext

/-- The arbiter gives a new job its state, suspending a lower-rank RECEIVING job (R129). -/
def State.admitJob (s : State) (p : Port) (j : Job) : State × JobState :=
  if (s.ovm.jobs.firstJob Job.isVerifying).isSome then
    (s.setOvm (s.ovm.setJob p (some { j with state := .suspended })), .suspended)
  else
    match s.ovm.jobs.firstJob Job.isReceiving with
    | none =>
      (s.setOvm (s.ovm.setJob p (some { j with state := .receiving receiveTime })), .receiving receiveTime)
    | some (q, k) =>
      if Port.number p < Port.number q then
        let o := s.ovm.setJob q (some { k with state := .suspended })
        ((s.setOvm (o.setJob p (some { j with state := .receiving receiveTime }))).raiseTo q
          .loadSuspended k.region.val 0, .receiving receiveTime)
      else (s.setOvm (s.ovm.setJob p (some { j with state := .suspended })), .suspended)

/-- OPEN_LOAD on one region, in the order of R128. -/
def openLoadRegion (p : Port) (r : Request) (s : State) (g : Fin 16) : State :=
  match s.ovm.regions[g] with
  | none => s.refuse p r .notOwner
  | some x =>
    let length := r.num 1 4
    if x.owner ≠ p then s.refuse p r .notOwner
    else if (s.ovm.jobs.get p).isSome then s.refuse p r .busy
    else if length < 1 ∨ x.count * blockBytes < length then s.badField p r 0x02#8
    else if s.ltb.references g = true ∧ x.isFaulted = false then s.refuse p r .inUse
    else
      let j : Job := ⟨g, length, BitVec.ofNat 32 (r.num 5 4), 0, 0#8, .suspended, true⟩
      let t := (s.setOvm (s.ovm.setContent g .loading)).admitJob p j
      t.1.done p r [byte t.2.number, 0#8]

/-- OPEN_LOAD (R128). -/
def execOpenLoad (p : Port) (s : State) : Outcome :=
  serve .openLoad p s (fun r s =>
    match regionOf (r.arg 0).toNat with
    | none => .next (s.badField p r 0x01#8)
    | some g => .next (openLoadRegion p r s g))

/-- Blocks a length reaches: divided by 4096, rounded up (R132); also the milliseconds verification takes. -/
def blocksReached (length : Nat) : Nat := (length + 4095) / 4096

/-- The address of a job region's first byte. -/
def Overlay.jobBase (o : Overlay) (j : Job) : Nat := ((o.regions[j.region]).map Region.base).getD 0

/-- A chunk accepted: written at the cursor; cursor and sequence number move on; the job goes on RECEIVING
with a fresh timer, or becomes VERIFYING when its length is reached (R131, R132). -/
def Overlay.acceptChunk (o : Overlay) (p : Port) (j : Job) (tag : Tag) (chunk : List Byte) : Overlay :=
  let cursor := j.cursor + chunk.length
  let state : JobState :=
    if cursor < j.length then .receiving receiveTime else .verifying (blocksReached j.length) tag
  (o.writeChunk (o.jobBase j + j.cursor) chunk).setJob p
    (some { j with cursor := cursor, nextSeq := j.nextSeq + 1#8, state := state })

/-- LOAD_DATA (R131). -/
def execLoadData (p : Port) (s : State) : Outcome :=
  serve .loadData p s (fun r s =>
    let chunk := r.payload.drop 1
    match s.ovm.jobs.get p with
    | none => .next (s.refuse p r .wrongState)
    | some j =>
      if chunk.length < 1 ∨ 256 < chunk.length then .next (s.badField p r 0x05#8)
      else if j.isVerifying then .next (s.refuse p r .busy)
      else if j.isSuspended then .next (s.refuse p r .held)
      else if r.arg 0 ≠ j.nextSeq then .next (s.answer p r .sequence 0#8 [j.nextSeq])
      else if j.length < j.cursor + chunk.length then .next (s.badField p r 0x05#8)
      else if overlayBytes < s.ovm.jobBase j + j.cursor + chunk.length then .fault .overlayAddress
      else
        let t := s.setOvm (s.ovm.acceptChunk p j r.tag chunk)
        if j.cursor + chunk.length < j.length then
          .next (t.done p r (le 4 (j.cursor + chunk.length) ++ [j.nextSeq + 1#8]))
        else .next t)

/-- ABORT_LOAD (R133). -/
def execAbortLoad (p : Port) (s : State) : Outcome :=
  serve .abortLoad p s (fun r s =>
    match s.ovm.jobs.get p with
    | none => .next (s.refuse p r .wrongState)
    | some j =>
      if j.isVerifying then .next (s.refuse p r .busy)
      else .next ((s.endJob p j .empty).done p r (le 4 j.cursor)))

/-- Read words through the ECC for verification: single errors are corrected and counted; whether any word
had a double error (R132, R137). The reads go on after a double error (log 9). -/
def Overlay.verifyWords (o : Overlay) : List Nat → Overlay × Bool
  | [] => (o, false)
  | w :: ws =>
    match o.readCheck w with
    | .clean => o.verifyWords ws
    | .single => (o.correct w).verifyWords ws
    | .double => ((o.verifyWords ws).1, true)

/-- The words that hold a job's bytes. -/
def jobWords (base length : Nat) : List Nat :=
  (List.range ((length + 7) / 8)).map (fun i => base / 8 + i)

/-- What verification comes to: the content the region takes, the result and the values of the reply (R132). -/
def verdict (expected computed : Word32) (double : Bool) : RegionContent × ResultCode × List Byte :=
  if double then (.empty, .loadFailed, crcBytes none)
  else if computed = expected then (.valid computed, .done, crcBytes (some computed))
  else (.empty, .loadFailed, crcBytes (some computed))

/-- The reply of the completing LOAD_DATA, with its tag (R165). -/
def loadReply (tag : Tag) (result : ResultCode) (values : List Byte) : Reply :=
  ⟨tag, RequestKind.code .loadData, result, 0#8, values⟩

/-- The end of the VERIFYING job's verification (R132, R135). -/
def State.finishVerification (s : State) (p : Port) (j : Job) (tag : Tag) (upsets : List Upset) : State :=
  let base := s.ovm.jobBase j
  let v := (s.ovm.suffer upsets).verifyWords (jobWords base j.length)
  let w := verdict j.expected (crc32 (v.1.bytesFrom base j.length)) v.2
  let t := s.setOvm v.1
  let u := if j.answerOpen then t.post p (loadReply tag w.2.1 w.2.2) else t
  u.endJob p j w.1

/-- The end of verification; nothing happens while no job is VERIFYING (R132; log 1). -/
def State.verificationEnd (s : State) (upsets : List Upset) : State :=
  match s.ovm.jobs.firstJob Job.isVerifying with
  | none => s
  | some (p, j) =>
    match j.state with
    | .verifying _ tag => s.finishVerification p j tag upsets
    | .receiving _ | .suspended => s

/-- VERIFICATION_END (R132). -/
def execVerificationEnd (upsets : List Upset) (s : State) : Outcome := .next (s.verificationEnd upsets)

/-- The receive timer's expiry; nothing happens while no job is RECEIVING (R134, R136; log 1). -/
def State.receiveTimeout (s : State) : State :=
  match s.ovm.jobs.firstJob Job.isReceiving with
  | none => s
  | some (p, j) => (s.raiseTo p .loadTimeout j.region.val 0).endJob p j .empty

/-- RECEIVE_TIMEOUT (R134). -/
def execReceiveTimeout (s : State) : Outcome := .next s.receiveTimeout

/-- A port reset's effect on the port's job: removed, or kept VERIFYING with its answer cancelled (R135). -/
def State.resetJob (s : State) (p : Port) : State :=
  match s.ovm.jobs.get p with
  | none => s
  | some j =>
    if j.isVerifying then s.setOvm (s.ovm.setJob p (some { j with answerOpen := false }))
    else s.endJob p j .empty

end Sys2Proof.Machine
end

