-- ==== Sys2Proof/Machine/Markers.lean ====
section
/-! DEFINITION. The Marker Map (chapter 6): placing, removing and aging markers, and nearness. Drawing them
is the Composer's. -/

namespace Sys2Proof.Machine

/-- The marker of a track (R104). -/
def findMarker (ms : List Marker) (track : Nat) : Option Marker :=
  ms.find? (fun m => decide (m.track = track))

/-- Put a marker in by its track id, ascending; a marker of that track is replaced (R104, R108). -/
def putMarker : List Marker → Marker → List Marker
  | [], m => [m]
  | x :: xs, m =>
    if m.track < x.track then m :: x :: xs
    else if m.track = x.track then m :: xs
    else x :: putMarker xs m

/-- Remove the marker of a track. -/
def dropMarker (ms : List Marker) (track : Nat) : List Marker :=
  ms.filter (fun m => decide (m.track ≠ track))

/-- A marker class from its number (section 11.1.5). -/
def markerClassOf (n : Nat) : Option MarkerClass :=
  match n with
  | 0 => some .pedestrian
  | 1 => some .cyclist
  | 2 => some .vehicle
  | 3 => some .object
  | _ => none

/-- The first field of an item that is out of range, in the order of R107. -/
def MarkerItem.failure (x : MarkerItem) : Option Byte :=
  if 255 < x.track then some 0x01#8
  else if 3 < x.camera then some 0x02#8
  else if 1279 < x.boxX then some 0x03#8
  else if 959 < x.boxY then some 0x04#8
  else if x.boxW < 1 ∨ 1280 < x.boxW ∨ 1280 < x.boxX + x.boxW then some 0x05#8
  else if x.boxH < 1 ∨ 960 < x.boxH ∨ 960 < x.boxY + x.boxH then some 0x06#8
  else if 3 < x.cls then some 0x07#8
  else if 2000 < x.range then some 0x08#8
  else if x.ttl < 1 ∨ 60 < x.ttl then some 0x09#8
  else none

/-- The marker an item that passes R107 gives: age 0, near from the threshold (R108). -/
def MarkerItem.marker (x : MarkerItem) (camera : Fin 4) (cls : MarkerClass) (threshold : Nat) : Marker where
  track := x.track
  camera := camera
  boxX := x.boxX
  boxY := x.boxY
  boxW := x.boxW
  boxH := x.boxH
  cls := cls
  range := x.range
  ttl := x.ttl
  age := 0
  near := decide (x.range ≤ threshold)

/-- Whether `a` goes before `b` for eviction: greater range, then greater age, then lower track id (R109). -/
def evictsBefore (a b : Marker) : Bool :=
  decide (b.range < a.range)
  || (decide (a.range = b.range) && (decide (b.age < a.age)
      || (decide (a.age = b.age) && decide (a.track < b.track))))

/-- The candidate for eviction (R109). -/
def evictionCandidate : List Marker → Option Marker
  | [] => none
  | m :: ms =>
    match evictionCandidate ms with
    | none => some m
    | some c => if evictsBefore m c then some m else some c

/-- The outcomes of an item, 0 to 5, with their extra value (R106, R187). -/
inductive MarkOutcome where
  | updated
  | inserted
  | evicted (track : Nat)
  | full
  | cameraAbsent
  | badField (id : Byte)
  deriving DecidableEq, Repr

/-- An outcome's three bytes: its number and extra value, FFFFh for none (R187). -/
def MarkOutcome.bytes : MarkOutcome → List Byte
  | .updated => 0#8 :: le 2 0xFFFF
  | .inserted => 1#8 :: le 2 0xFFFF
  | .evicted t => 2#8 :: le 2 t
  | .full => 3#8 :: le 2 0xFFFF
  | .cameraAbsent => 4#8 :: le 2 0xFFFF
  | .badField id => 5#8 :: le 2 id.toNat

/-- Place a marker: update it in place, insert it, evict a farther one for it, or refuse it FULL (R108, R109). -/
def placeMarker (ms : List Marker) (m : Marker) : List Marker × MarkOutcome :=
  if (findMarker ms m.track).isSome then (putMarker ms m, .updated)
  else if ms.length < 16 then (putMarker ms m, .inserted)
  else
    match evictionCandidate ms with
    | some c =>
      if m.range < c.range then (putMarker (dropMarker ms c.track) m, .evicted c.track) else (ms, .full)
    | none => (ms, .full)

/-- Take one item: its checks (R107), then its place (R108, R109). -/
def takeItem (present : Vector Bool 4) (threshold : Nat) (ms : List Marker) (x : MarkerItem) :
    List Marker × MarkOutcome :=
  match x.failure with
  | some id => (ms, .badField id)
  | none =>
    match cameraOf x.camera, markerClassOf x.cls with
    | some k, some cls =>
      if present[k] = false then (ms, .cameraAbsent)
      else placeMarker ms (x.marker k cls threshold)
    | _, _ => (ms, .badField 0x02#8)

/-- Whether a track is near in a map; an absent track is not (R115). -/
def trackNear (ms : List Marker) (track : Nat) : Bool :=
  (findMarker ms track).any Marker.near

/-- Take the items in request order, with the tracks that came near, in order (R106, R115). -/
def takeItems (present : Vector Bool 4) (threshold : Nat) :
    List MarkerItem → List Marker → List Marker × List (Nat × MarkOutcome) × List Nat
  | [], ms => (ms, [], [])
  | x :: xs, ms =>
    let a := takeItem present threshold ms x
    let b := takeItems present threshold xs a.1
    let onset := trackNear a.1 x.track && !trackNear ms x.track
    (b.1, (x.track, a.2) :: b.2.1, if onset then x.track :: b.2.2 else b.2.2)

/-- Whether any marker is near (R116). -/
def anyNear (ms : List Marker) : Bool := ms.any Marker.near

/-- Write the markers and hand NEAR to the Signal Conditioner (R99, R116). -/
def State.setMarkers (s : State) (ms : List Marker) : State :=
  (s.setMkm { s.mkm with markers := ms }).setScn { s.scn with near := anyNear ms }

/-- Raise NEAR_OBJECT for tracks, in order (R115). -/
def State.raiseNear (s : State) : List Nat → State
  | [] => s
  | t :: ts => (s.raiseAll .nearObject t 0).raiseNear ts

/-- MARK's values (R106, R187). -/
def markValues (count : Nat) (outcomes : List (Nat × MarkOutcome)) : List Byte :=
  byte count :: byte outcomes.length :: outcomes.flatMap (fun x => le 2 x.1 ++ x.2.bytes)

/-- MARK (R106). -/
def execMark (p : Port) (s : State) : Outcome :=
  serve .mark p s (fun r s =>
    let n := (r.arg 0).toNat
    if n < 1 ∨ 4 < n then .next (s.badField p r 0x0F#8)
    else
      let a := takeItems s.cams.presence s.mkm.threshold (readItems n (r.payload.drop 1)) s.mkm.markers
      .next (((s.setMarkers a.1).raiseNear a.2.2).done p r (markValues a.1.length a.2.1)))

/-- UNMARK (R110). -/
def execUnmark (p : Port) (s : State) : Outcome :=
  serve .unmark p s (fun r s =>
    let t := r.num 0 2
    if 255 < t then .next (s.badField p r 0x01#8)
    else
      let ms := dropMarker s.mkm.markers t
      .next ((s.setMarkers ms).done p r
        [flag (findMarker s.mkm.markers t).isSome, byte ms.length]))

/-- CLEAR_MARKS (R111). -/
def execClearMarks (p : Port) (s : State) : Outcome :=
  serve .clearMarks p s (fun r s =>
    .next ((s.setMarkers []).done p r [byte s.mkm.markers.length]))

/-- Recompute a marker's near flag against a threshold (R114). -/
def Marker.withThreshold (m : Marker) (threshold : Nat) : Marker :=
  { m with near := decide (m.range ≤ threshold) }

/-- SET_NEAR (R114). NEAR_OBJECT is raised in ascending track id order (log 11). -/
def execSetNear (p : Port) (s : State) : Outcome :=
  serve .setNear p s (fun r s =>
    let v := r.num 0 2
    if 2000 < v then .next (s.badField p r 0x01#8)
    else
      let ms := s.mkm.markers.map (·.withThreshold v)
      let onsets := (s.mkm.markers.filter (fun m => !m.near && decide (m.range ≤ v))).map Marker.track
      let t := ((s.setMkm { s.mkm with threshold := v }).setMarkers ms).raiseNear onsets
      .next (t.done p r (le 2 v ++ [byte (ms.filter Marker.near).length])))

/-- READ_MARKERS's values (R112, section 11.1.5). -/
def MarkerMap.values (m : MarkerMap) : List Byte :=
  le 2 m.threshold ++ byte m.markers.length
    :: m.markers.flatMap (fun x => x.itemBytes ++ [byte x.age, flag x.near])

/-- READ_MARKERS (R112). -/
def execReadMarkers (p : Port) (s : State) : Outcome :=
  serve .readMarkers p s (fun r s => .next (s.done p r s.mkm.values))

/-- Aging: every age rises by 1 and a marker whose age reaches its ttl is removed in the same step (R113). -/
def ageMarkers (ms : List Marker) : List Marker :=
  (ms.filter (fun m => decide (m.age + 1 ≠ m.ttl))).map (fun m => { m with age := m.age + 1 })

/-- The markers age at a BLANK, and NEAR is recomputed once (R113, R116). -/
def State.ageStep (s : State) : State := s.setMarkers (ageMarkers s.mkm.markers)

end Sys2Proof.Machine
end

