-- ==== Sys2Proof/Machine/Signals.lean ====
section
/-! DEFINITION. The Signal Conditioner (chapter 5): inputs and debounce, virtual signals, speed, the
wake-pending set. -/

namespace Sys2Proof.Machine

/-- Write one input. -/
def Conditioner.setInput (c : Conditioner) (n : Fin 8) (x : Input) : Conditioner :=
  { c with inputs := c.inputs.set n x }

/-- A change of a conditioned level while DORMANT adds an unmasked input to the wake-pending set, once (R100). -/
def Conditioner.noteWake (c : Conditioner) (part : PartState) (n : Fin 8) (mask : Bool) : Conditioner :=
  if part = .dormant ∧ mask = false ∧ n ∉ c.wakePending then
    { c with wakePending := c.wakePending ++ [n] }
  else c

/-- The conditioned level takes the raw level (R90), and the input is settled (R93). -/
def Input.take (x : Input) : Input := { x with conditioned := x.raw, settled := true, timer := none }

/-- Start the debounce from the raw level: with the raw level away from the conditioned level, the timer
starts, or the level is taken at once when the debounce is 0 (R90, R91). -/
def Input.startDebounce (x : Input) : Input :=
  if x.raw = x.conditioned then { x with timer := none }
  else if x.debounce = 0 then x.take
  else { x with timer := some x.debounce }

/-- A raw change (R90, R91, R93): unsettled, the running timer restarts; masked, the level only follows
the pin; otherwise the debounce starts, or stops when the level is back. -/
def Input.rawChange (x : Input) (level : Bool) : Input :=
  let y := { x with raw := level }
  if level = x.raw then x
  else if x.settled = false then
    match x.timer with
    | some _ => { y with timer := some x.debounce }
    | none => y
  else if x.mask then y
  else y.startDebounce

/-- An input changes; a change of its conditioned level may join the wake-pending set (R90, R100). -/
def State.changeInput (s : State) (n : Fin 8) (y : Input) : State :=
  let c := s.scn.setInput n y
  if y.conditioned = s.scn.inputs[n].conditioned then s.setScn c
  else s.setScn (c.noteWake s.stc.part n y.mask)

/-- The level now on an input's pin (R90). -/
def State.inputRawChange (s : State) (n : Fin 8) (level : Bool) : State :=
  s.changeInput n (s.scn.inputs[n].rawChange level)

/-- INPUT_RAW_CHANGE (R90). -/
def execInputRawChange (n : Fin 8) (level : Bool) (s : State) : Outcome := .next (s.inputRawChange n level)

/-- A debounce timer's expiry; nothing happens while the timer is stopped or RESET is low (R90, R93; log 1,
log 26). -/
def State.debounceExpiry (s : State) (n : Fin 8) : State :=
  let x := s.scn.inputs[n]
  if x.timer.isNone ∨ s.pins.resetLow = true then s else s.changeInput n x.take

/-- DEBOUNCE_EXPIRY (R90). -/
def execDebounceExpiry (n : Fin 8) (s : State) : Outcome := .next (s.debounceExpiry n)

/-- One input event (R90). -/
def State.inputEvent (s : State) : InputEvent → State
  | .rawChange n level => s.inputRawChange n level
  | .debounceExpiry n => s.debounceExpiry n

/-- An input's six bytes (R187). -/
def Input.bytes (x : Input) : List Byte :=
  [flag x.raw, flag x.conditioned, byte x.polarity.number, byte x.debounce, flag x.mask,
    byte (x.timer.getD 0)]

/-- A polarity byte (R92). -/
def polarityOf (b : Byte) : Option Polarity :=
  if b = 0#8 then some .activeHigh else if b = 1#8 then some .activeLow else none

/-- The four settings written, in the order of R92: the timer stops, the settings are taken, and an unmasked
input whose raw level differs starts its debounce. -/
def Input.configure (x : Input) (polarity : Polarity) (debounce : Nat) (mask : Bool) : Input :=
  let y := { x with timer := none, polarity := polarity, debounce := debounce, mask := mask }
  if mask then y else y.startDebounce

/-- SET_INPUT (R92). -/
def execSetInput (p : Port) (s : State) : Outcome :=
  serve .setInput p s (fun r s =>
    match inputOf (r.arg 0).toNat with
    | none => .next (s.badField p r 0x01#8)
    | some n =>
      match polarityOf (r.arg 1) with
      | none => .next (s.badField p r 0x02#8)
      | some polarity =>
        let debounce := (r.arg 2).toNat
        if 250 < debounce ∨ debounce % 10 ≠ 0 then .next (s.badField p r 0x03#8)
        else
          match flagOf (r.arg 3) with
          | none => .next (s.badField p r 0x04#8)
          | some mask =>
            let y := s.scn.inputs[n].configure polarity debounce mask
            .next ((s.setScn (s.scn.setInput n y)).done p r y.bytes))

/-! ## Virtual signals (section 5.3) -/

/-- The signal-level pairs a SET_VIRTUAL carries. -/
def virtualPairs : List Byte → List (Nat × Byte)
  | a :: b :: rest => (a.toNat, b) :: virtualPairs rest
  | _ => []

/-- A virtual signal's index, 0 for V0 (signal 8). -/
def virtualOf (n : Nat) : Option (Fin 6) :=
  if h : 8 ≤ n ∧ n - 8 < 6 then some ⟨n - 8, h.2⟩ else none

/-- Whether a port may write a virtual signal: BODY V0 to V3, DETECT V4 and V5 (R94). -/
def mayWriteVirtual (p : Port) (v : Fin 6) : Bool :=
  match p with
  | .body => decide (v.val < 4)
  | .detect => decide (4 ≤ v.val)
  | .cab => false

/-- Check the pairs in order and write them all, or the first failure (R94). -/
def writeVirtuals (p : Port) : List (Nat × Byte) → Vector Bool 6 →
    Except (ResultCode × Byte) (Vector Bool 6)
  | [], v => .ok v
  | (n, b) :: rest, v =>
    match virtualOf n with
    | none => .error (.badField, 0x01#8)
    | some i =>
      match flagOf b with
      | none => .error (.badField, 0x02#8)
      | some level =>
        if mayWriteVirtual p i = false then .error (.rankRefused, 0x01#8)
        else writeVirtuals p rest (v.set i level)

/-- SET_VIRTUAL (R94). Bits 6 and 7 of the reply's byte, which R187 does not assign, are 0 (log 29). -/
def execSetVirtual (p : Port) (s : State) : Outcome :=
  serve .setVirtual p s (fun r s =>
    if (r.arg 0).toNat < 1 ∨ 4 < (r.arg 0).toNat then .next (s.badField p r 0x0F#8)
    else
      match writeVirtuals p (virtualPairs (r.payload.drop 1)) s.scn.virtuals with
      | .error (result, field) => .next (s.answer p r result field [])
      | .ok v => .next ((s.setScn { s.scn with virtuals := v }).done p r [byte (bitsToNat v.toList)]))

/-! ## Speed (section 5.4) -/

/-- SPEED (R95). -/
def execSpeed (p : Port) (s : State) : Outcome :=
  serve .speed p s (fun r s =>
    let v := r.num 0 2
    if 1500 < v then .next (s.badField p r 0x01#8)
    else .next ((s.setScn { s.scn with speed := v, stale := false, age := some 500 }).done p r []))

/-- The speed-age timer's expiry: the speed goes stale and SPEED_STALE is raised; nothing happens while the
timer is stopped (R97; log 1). -/
def State.speedAgeExpiry (s : State) : State :=
  if s.scn.age.isNone then s
  else (s.setScn { s.scn with stale := true, age := none }).raiseAll .speedStale 17 0

/-- SPEED_AGE_EXPIRY (R97). -/
def execSpeedAgeExpiry (s : State) : Outcome := .next s.speedAgeExpiry

/-- The speed state's bytes (R187). -/
def Conditioner.speedBytes (c : Conditioner) : List Byte :=
  le 2 c.speed ++ [flag c.stale] ++ le 2 c.stopThreshold ++ le 2 c.slowThreshold ++ le 2 (c.age.getD 0)

/-- The check of a pair of thresholds, with the failing field (R98). -/
def bandsFailure (stop slow : Nat) : Option Byte :=
  if 1499 < stop then some 0x01#8
  else if slow < 1 ∨ 1500 < slow then some 0x02#8
  else if slow ≤ stop then some 0x02#8
  else none

/-- SET_SPEED_BANDS (R98). -/
def execSetSpeedBands (p : Port) (s : State) : Outcome :=
  serve .setSpeedBands p s (fun r s =>
    let stop := r.num 0 2
    let slow := r.num 2 2
    match bandsFailure stop slow with
    | some field => .next (s.badField p r field)
    | none =>
      let c := { s.scn with stopThreshold := stop, slowThreshold := slow }
      .next ((s.setScn c).done p r c.speedBytes))

/-! ## Reading and changes of state (sections 5.6 to 5.8) -/

/-- READ_SIGNALS's values (R102, R187). Bits 18 to 23 of the signals' three bytes, which R187 does not assign, are 0
(log 29). -/
def Conditioner.values (c : Conditioner) : List Byte :=
  le 3 (bitsToNat c.view.toList) ++ c.inputs.toList.flatMap Input.bytes ++ c.speedBytes
    ++ byte c.wakeRecord.length :: c.wakeRecord.map (fun n => byte n.val)

/-- READ_SIGNALS (R102). -/
def execReadSignals (p : Port) (s : State) : Outcome :=
  serve .readSignals p s (fun r s => .next (s.done p r s.scn.values))

/-- A port reset's effect on the virtual signals, as one change (R103). -/
def Conditioner.portReset (c : Conditioner) (p : Port) : Conditioner :=
  { c with virtuals := Vector.ofFn (fun v => !mayWriteVirtual p v && c.virtuals[v]) }

/-- DORMANT entry: the speed goes stale with no alert, the wake-pending set and record start empty (R103). -/
def Conditioner.enterDormant (c : Conditioner) : Conditioner :=
  { c with stale := true, age := none, wakePending := [], wakeRecord := [] }

/-- Wake: the wake-pending set is copied to the wake record and emptied (R101). -/
def Conditioner.wake (c : Conditioner) : Conditioner :=
  { c with wakeRecord := c.wakePending, wakePending := [] }

/-- The end of BOOT: an input not yet settled takes its raw level (R93). -/
def Input.endBoot (x : Input) : Input := if x.settled then x else x.take

end Sys2Proof.Machine
end

