-- ==== Sys2Proof/Machine/Timebase.lean ====
section
/-! DEFINITION. The Frame Timebase (chapter 3): its settings requests, phase loads, genlock and the FTB's
own part of a TOP. -/

namespace Sys2Proof.Machine

/-- The timebase report (R54, R187). -/
def Timebase.report (f : Timebase) : List Byte :=
  le 2 f.line ++ frameBytes f.frame ++ le 2 f.period ++ le 2 f.stagedPeriod ++ le 2 f.commitLine
    ++ f.strobes.toList.flatMap (le 2) ++ [flag f.genlockOn] ++ le 2 f.phase
    ++ [byte f.genlock.number, byte f.missed, byte f.good] ++ le 2 f.lastSlip

/-- Accept a timebase request: the new settings, and DONE with the report as it stands after (R54). -/
def acceptTimebase (p : Port) (r : Request) (s : State) (f : Timebase) : Outcome :=
  .next ((s.setFtb f).done p r f.report)

/-- SET_PERIOD (R55). -/
def execSetPeriod (p : Port) (s : State) : Outcome :=
  serve .setPeriod p s (fun r s =>
    let v := r.num 0 2
    if v < 736 ∨ 1023 < v ∨ v ≤ s.ftb.commitLine ∨ v ≤ s.ftb.phase
        ∨ s.ftb.strobes.toList.any (fun x => decide (v ≤ x)) = true then .next (s.badField p r 0x01#8)
    else acceptTimebase p r s { s.ftb with stagedPeriod := v })

/-- Whether a line lies below both periods, as R50 keeps it. -/
def Timebase.below (f : Timebase) (v : Nat) : Bool :=
  decide (v < f.period) && decide (v < f.stagedPeriod)

/-- SET_COMMIT_LINE (R56). -/
def execSetCommitLine (p : Port) (s : State) : Outcome :=
  serve .setCommitLine p s (fun r s =>
    let v := r.num 0 2
    if v < 720 ∨ 1022 < v ∨ s.ftb.below v = false then .next (s.badField p r 0x02#8)
    else acceptTimebase p r s { s.ftb with commitLine := v })

/-- SET_STROBE (R57). -/
def execSetStrobe (p : Port) (s : State) : Outcome :=
  serve .setStrobe p s (fun r s =>
    match cameraOf (r.arg 0).toNat with
    | none => .next (s.badField p r 0x03#8)
    | some k =>
      let v := r.num 1 2
      if s.ftb.below v = false then .next (s.badField p r 0x04#8)
      else acceptTimebase p r s { s.ftb with strobes := s.ftb.strobes.set k v })

/-- The genlock state and counts after a SET_GENLOCK of this enable (R58). -/
def Timebase.withGenlock (f : Timebase) (on : Bool) (phase : Nat) : Timebase :=
  let g := { f with genlockOn := on, phase := phase }
  if on = false then { g with genlock := .free, missed := 0, good := 0 }
  else if f.genlockOn = false then { g with genlock := .hunting, missed := 0, good := 0 }
  else g

/-- SET_GENLOCK (R58). -/
def execSetGenlock (p : Port) (s : State) : Outcome :=
  serve .setGenlock p s (fun r s =>
    match flagOf (r.arg 0) with
    | none => .next (s.badField p r 0x05#8)
    | some on =>
      let v := r.num 1 2
      if s.ftb.below v = false then .next (s.badField p r 0x06#8)
      else acceptTimebase p r s (s.ftb.withGenlock on v))

/-- The next value the counter takes by advance: C+1, or 0 when C is P-1 (R51). -/
def Timebase.nextValue (f : Timebase) : Nat := if f.line + 1 < f.period then f.line + 1 else 0

/-- The forward distance d from the next value to PH, reduced into 0 to P-1 (R60). -/
def Timebase.loadDistance (f : Timebase) : Nat :=
  if f.nextValue ≤ f.phase then f.phase - f.nextValue else f.phase + f.period - f.nextValue

/-- The slip of a load made at the end of this line (R60). -/
def Timebase.slip (f : Timebase) : Nat := min f.loadDistance (f.period - f.loadDistance)

/-- RESYNC (R62): one load to PH at the end of the line, answered with its slip and the report. The slip is
that of PH as it is when the request is taken: after a SET_GENLOCK in the same line it may differ from the
slips recorded before it and from the load made (log 15). -/
def execResync (p : Port) (s : State) : Outcome :=
  serve .resync p s (fun r s =>
    let f := { s.ftb with resyncDue := true }
    .next ((s.setFtb f).done p r (le 2 s.ftb.slip ++ f.report)))

/-- Whether a DSYNC pulse is taken: running, genlock on, and none taken during this line (R59). -/
def Timebase.takesDsync (f : Timebase) : Bool :=
  decide (f.run = .running) && f.genlockOn && !f.dsyncDue

/-- The timebase after a DSYNC is taken: counts, genlock state and last slip (R60, R63), a load due. The slip
is that of PH as it is when the pulse is taken (log 15). -/
def Timebase.dsync (f : Timebase) : Timebase :=
  let g := { f with missed := 0, lastSlip := f.slip, dsyncDue := true, dsyncSinceTop := true }
  if f.slip ≤ 2 then
    let good := min 2 (f.good + 1)
    { g with
      good := good
      genlock := if f.genlock = .hunting ∧ good = 2 then .locked else f.genlock }
  else { g with good := 0 }

/-- DSYNC (R59, R63): SYNC_SLIP for a slip above 2, GENLOCK_ACQUIRED when HUNTING becomes LOCKED. -/
def execDsync (s : State) : Outcome :=
  if s.ftb.takesDsync = false then .next s
  else
    let t := s.setFtb s.ftb.dsync
    if 2 < s.ftb.slip then .next (t.raiseAll .syncSlip 0 0)
    else if s.ftb.genlock = .hunting ∧ t.ftb.genlock = .locked then .next (t.raiseAll .genlockAcquired 0 0)
    else .next t

/-- Whether a TOP counts a missing sync: genlock on, not the TOP that starts the timebase, and no DSYNC
taken since the previous TOP (R63). -/
def Timebase.missesSync (f : Timebase) (starting : Bool) : Bool :=
  f.genlockOn && !starting && !f.dsyncSinceTop

/-- The FTB's part of a TOP: F advances, P takes P', the missed-sync count moves (R52, R63). -/
def Timebase.top (f : Timebase) (starting : Bool) : Timebase :=
  let g := { f with frame := f.frame + 1#16, period := f.stagedPeriod, dsyncSinceTop := false }
  if f.missesSync starting then
    let missed := min 3 (f.missed + 1)
    { g with
      missed := missed
      good := 0
      genlock := if f.genlock = .locked ∧ missed = 3 then .hunting else f.genlock }
  else g

/-- The FTB's part of a TOP with its alert, GENLOCK_LOST, which carries the new frame number (R52, R64). -/
def State.timebaseTop (s : State) (starting : Bool) : State :=
  let t := s.setFtb (s.ftb.top starting)
  if s.ftb.genlock = .locked ∧ t.ftb.genlock = .hunting then t.raiseAll .genlockLost 0 0 else t

/-- The counter value taken at the end of this line: PH when a load is due, else the next value (R51). -/
def Timebase.arrival (f : Timebase) : Nat :=
  if f.dsyncDue || f.resyncDue then f.phase else f.nextValue

/-- The counter takes a value, and no load is due any more. -/
def Timebase.moveTo (f : Timebase) (v : Nat) : Timebase :=
  { f with line := v, dsyncDue := false, resyncDue := false }

/-- The timebase held at 0 at DORMANT entry (R66). -/
def Timebase.hold (f : Timebase) : Timebase :=
  { f with
    line := 0
    run := .held
    missed := 0
    good := 0
    genlock := if f.genlockOn then .hunting else .free
    dsyncDue := false
    resyncDue := false
    dsyncSinceTop := false }

/-- The timebase started with the counter at 0 (R65, R66); its TOP is taken after. -/
def Timebase.start (f : Timebase) : Timebase := { f with line := 0, run := .running }

end Sys2Proof.Machine
end

