-- ==== Sys2Proof/Machine/Fitting.lean ====
section
/-! DEFINITION. The fitting record: its bytes, its checks and what an accepted record sets (R181, R182, R188),
and storing it (R183, R184). -/

namespace Sys2Proof.Machine

/-! ## The record's bytes (11.1.6) -/

/-- One input's three bytes. -/
def Input.fittingBytes (x : Input) : List Byte := [byte x.polarity.number, byte x.debounce, flag x.mask]

/-- The timebase settings' 16 bytes. -/
def Timebase.fittingBytes (f : Timebase) : List Byte :=
  le 2 f.stagedPeriod ++ le 2 f.commitLine ++ f.strobes.toList.flatMap (le 2) ++ le 2 f.phase
    ++ [flag f.genlockOn, 0#8]

/-- The slots a store takes: owner BODY or FITTED, active record not BITMAP (R183). -/
def LayerSlot.isStored (x : LayerSlot) : Bool :=
  decide (x.owner = .fitted ∨ x.owner = .port .body) && decide (x.active.part.kind ≠ .bitmap)

/-- Their numbers, ascending: the order in which the record gives the layers, which R181, R183 and 11.1.6 leave open
(log 31). -/
def LayerTable.storedSlots (t : LayerTable) : List (Fin 24) :=
  (List.finRange 24).filter (fun i => t.slots[i].isStored)

/-- Everything after the length field and before the CRC, as now in force (R181, R183, R188). Bits 4 to 6 of the
population byte, which 11.1.6 does not assign, are 0 (log 29). -/
def State.fittingContent (s : State) : List Byte :=
  byte (bitsToNat s.cams.population.toList + 128) :: s.scn.inputs.toList.flatMap Input.fittingBytes
    ++ le 2 s.scn.stopThreshold ++ le 2 s.scn.slowThreshold ++ le 2 s.mkm.threshold
    ++ s.ftb.fittingBytes ++ s.cmp.palette.toList.flatMap Colour.bytes
    ++ byte s.ltb.storedSlots.length
      :: s.ltb.storedSlots.flatMap (fun i => byte i.val :: s.ltb.slots[i].active.bytes)

/-- A record of a content: format, length up to the CRC, content, CRC-32 (11.1.6). -/
def fittingRecord (content : List Byte) : List Byte :=
  let body := 0x01#8 :: le 2 (content.length + 3) ++ content
  body ++ le 4 (crc32 body).toNat

/-- The snapshot a store takes (R183). -/
def State.fittingSnapshot (s : State) : List Byte := fittingRecord s.fittingContent

/-! ## Reading a record -/

/-- A fitted layer: its slot and its record (R181). -/
structure FittedLayer where
  slot : Fin 24
  record : LayerRecord
  deriving DecidableEq, Repr

/-- An input's settings as the record gives them, not yet checked. -/
structure FittedInput where
  polarity : Byte
  debounce : Nat
  mask : Byte
  deriving DecidableEq, Repr

/-- A record whose check is good; its settings are not yet checked (R181). -/
structure FittedRecord where
  population : Option (Vector Bool 4)
  inputs : Vector FittedInput 8
  stop : Nat
  slow : Nat
  near : Nat
  period : Nat
  commitLine : Nat
  strobes : Vector Nat 4
  phase : Nat
  genlock : Byte
  palette : Vector Colour 16
  layers : List FittedLayer
  deriving DecidableEq, Repr

/-- Read `n` layers, each a slot in range and a record in range of a kind other than BITMAP, filling the
bytes exactly (R188). -/
def readLayers : Nat → List Byte → Option (List FittedLayer)
  | 0, [] => some []
  | 0, _ :: _ => none
  | _ + 1, [] => none
  | n + 1, b :: bs =>
    match slotOf b.toNat, readRecord bs with
    | some i, some (r, rest) =>
      if r.part.kind = .bitmap then none else (readLayers n rest).map (⟨i, r⟩ :: ·)
    | _, _ => none

/-- The settings in the first 98 bytes, with the layers (11.1.6). Bits 4 to 6 of byte 3, which the layout does
not assign, are ignored (log 29). -/
def readSettings (bs : List Byte) (layers : List FittedLayer) : FittedRecord :=
  let at_ (i k : Nat) : Nat := fromLe ((bs.drop i).take k)
  let b (i : Nat) : Byte := bs.getD i 0#8
  { population := if bit (b 3) 7 then some (Vector.ofFn (fun k : Fin 4 => bit (b 3) k.val)) else none
    inputs := Vector.ofFn (fun n : Fin 8 =>
      ⟨b (4 + 3 * n.val), (b (5 + 3 * n.val)).toNat, b (6 + 3 * n.val)⟩)
    stop := at_ 28 2
    slow := at_ 30 2
    near := at_ 32 2
    period := at_ 34 2
    commitLine := at_ 36 2
    strobes := Vector.ofFn (fun k : Fin 4 => at_ (38 + 2 * k.val) 2)
    phase := at_ 46 2
    genlock := b 48
    palette := paletteFrom (bs.drop 50)
    layers := layers }

/-- A stored record with its check: none when the check is bad (R181, R188). -/
def readFitting (bs : List Byte) : Option FittedRecord :=
  let n := bs.length - 4
  let count := (bs.getD 98 0#8).toNat
  if bs.length < 103 ∨ bs.getD 0 0#8 ≠ 0x01#8 ∨ fromLe ((bs.drop 1).take 2) ≠ n
      ∨ BitVec.ofNat 32 (fromLe (bs.drop n)) ≠ crc32 (bs.take n) ∨ 24 < count then none
  else
    match readLayers count ((bs.take n).drop 99) with
    | some layers => if (layers.map FittedLayer.slot).Nodup then some (readSettings bs layers) else none
    | none => none

/-! ## The blocks' checks (R182) -/

/-- One fitted input's settings in range (R92, R93). -/
def FittedInput.isGood (x : FittedInput) : Bool :=
  (polarityOf x.polarity).isSome && decide (x.debounce ≤ 250) && decide (x.debounce % 10 = 0)
  && (flagOf x.mask).isSome

/-- The fitted timebase settings in range and in the relation of R50 (R65). -/
def FittedRecord.timebaseGood (f : FittedRecord) : Bool :=
  decide (736 ≤ f.period) && decide (f.period ≤ 1023)
  && decide (720 ≤ f.commitLine) && decide (f.commitLine < f.period)
  && f.strobes.toList.all (fun x => decide (x < f.period)) && decide (f.phase < f.period)
  && (flagOf f.genlock).isSome

/-- Every setting accepted by its block: a population with CL1 (R68), the inputs (R93), the speed bands (R98),
the near threshold, the timebase (R65) (R182). -/
def FittedRecord.settingsGood (f : FittedRecord) : Bool :=
  f.population.all (fun x => x[1]) && f.inputs.toList.all FittedInput.isGood
  && (bandsFailure f.stop f.slow).isNone && decide (f.near ≤ 2000) && f.timebaseGood

/-- The record of a fitted slot, if the record names the slot. -/
def FittedRecord.layerAt (f : FittedRecord) (i : Fin 24) : Option LayerRecord :=
  (f.layers.find? (fun x => decide (x.slot = i))).map FittedLayer.record

/-- The empty table with each fitted layer in its slot under owner FITTED (R47). -/
def FittedRecord.candidates (f : FittedRecord) : Vector Candidate 24 :=
  Vector.ofFn (fun i =>
    match f.layerAt i with
    | some r => ⟨.fitted, r⟩
    | none => ⟨.none, LayerRecord.empty⟩)

/-- The fitted slots, ascending. -/
def FittedRecord.members (f : FittedRecord) : List (Fin 24) :=
  (List.finRange 24).filter (fun i => (f.layerAt i).isSome)

/-- The fitted layers pass as one set against a population (R26, R47). -/
def FittedRecord.layersGood (f : FittedRecord) (present : Vector Bool 4) : Bool :=
  (setFailure present (Vector.replicate 16 none) f.candidates f.members).isNone

/-! ## What an accepted record sets -/

/-- The fitted settings of one input (R93): an unsettled input's timer restarts, or it settles at once with a
debounce of 0; a mask of yes stops a settled input's timer (log 23). -/
def Input.fit (x : Input) (f : FittedInput) : Input :=
  let y :=
    { x with
      polarity := (polarityOf f.polarity).getD .activeHigh
      debounce := f.debounce
      mask := (flagOf f.mask).getD false }
  if x.settled = false then
    if f.debounce = 0 then y.take else { y with timer := some f.debounce }
  else if y.mask then { y with timer := none }
  else y

/-- The fitted layers installed: owner FITTED, both copies the record, CLEAN, force NONE (R26). -/
def LayerTable.install (t : LayerTable) (f : FittedRecord) : LayerTable :=
  { t with
    slots := Vector.ofFn (fun i =>
      match f.layerAt i with
      | some r => ⟨.fitted, .clean, r, r, .none⟩
      | none => t.slots[i]) }

/-- The fitted timebase settings (R65). -/
def Timebase.fit (t : Timebase) (f : FittedRecord) : Timebase :=
  let on := decide (f.genlock = 1#8)
  { t with
    period := f.period
    stagedPeriod := f.period
    commitLine := f.commitLine
    strobes := f.strobes
    phase := f.phase
    genlockOn := on
    genlock := if on then .hunting else .free
    missed := 0
    good := 0 }

/-- The population the record carries, or the one in force (R68). -/
def Cameras.populationWith (c : Cameras) (f : FittedRecord) : Vector Bool 4 :=
  f.population.getD c.population

/-- The fitted population: each link IDLE or ABSENT from it (R68). -/
def Cameras.fit (c : Cameras) (f : FittedRecord) : Cameras :=
  let population := c.populationWith f
  { population := population
    source := if f.population.isSome then .fitting else c.source
    links := Vector.ofFn (fun k =>
      { c.links[k] with link := if population[k] then .idle else .absent }) }

/-- Everything an accepted record sets, together (R182). -/
def State.applyFitting (s : State) (f : FittedRecord) : State :=
  let t := s.setCams (s.cams.fit f)
  let t := t.setScn
    { t.scn with
      inputs := Vector.ofFn (fun n => t.scn.inputs[n].fit f.inputs[n])
      stopThreshold := f.stop
      slowThreshold := f.slow }
  let t := t.setMkm { t.mkm with threshold := f.near }
  let t := t.setFtb (t.ftb.fit f)
  let t := t.setCmp { t.cmp with palette := f.palette }
  t.setLtb (t.ltb.install f)

/-- The fitting status settled. -/
def State.fittingStatus (s : State) (x : FittingStatus) : State := s.setFst { s.fst with status := x }

/-- A refused record: BAD, with FITTING_BAD and its reason, 01h CHECK, 02h SETTING, 03h LAYERS (R182). -/
def State.fittingBad (s : State) (reason : Nat) : State :=
  (s.fittingStatus .bad).raiseAll .fittingBad 0 reason

/-- The Fitting Store settles the record (R182). -/
def State.settleFitting (s : State) : State :=
  match s.fst.record with
  | .absent => s.fittingStatus .none
  | .spoiled => s.fittingBad 1
  | .present bytes =>
    match readFitting bytes with
    | none => s.fittingBad 1
    | some f =>
      if f.settingsGood = false then s.fittingBad 2
      else if f.layersGood (s.cams.populationWith f) = false then s.fittingBad 3
      else (s.applyFitting f).fittingStatus .loaded

/-! ## Storing (R183) -/

/-- The store timer's full time (R183). -/
def storeTime : Nat := 400

/-- STORE_FITTING (R183): the snapshot is taken, and the write first makes the stored check bad. -/
def execStoreFitting (p : Port) (s : State) : Outcome :=
  serve .storeFitting p s (fun r s =>
    if s.stc.part = .run then .next (s.refuse p r .wrongState)
    else if s.fst.store.isSome then .next (s.refuse p r .busy)
    else
      .next (s.setFst
        { s.fst with
          record := .spoiled
          store := some ⟨p, r.tag, true, s.fittingSnapshot, s.ltb.storedSlots.length, storeTime⟩ }))

/-- The reply of an open STORE_FITTING, with its tag (R165). -/
def storeReply (tag : Tag) (result : ResultCode) (values : List Byte) : Reply :=
  ⟨tag, RequestKind.code .storeFitting, result, 0#8, values⟩

/-- The store ends with a record and a reply, if its answer is still open (R183, R184). -/
def State.finishStore (s : State) (x : StoreInFlight) (good : Bool) : State :=
  let t := s.setFst
    { s.fst with record := if good then .present x.snapshot else .spoiled, store := none }
  if x.answerOpen = false then t
  else if good then t.post x.port (storeReply x.tag .done [byte x.layers])
  else t.post x.port (storeReply x.tag .storeFailed [])

/-- STORE_END: whether the read-back equals the snapshot; nothing happens with no store in flight (R183; log 1). -/
def execStoreEnd (readBackEqual : Bool) (s : State) : Outcome :=
  match s.fst.store with
  | none => .next s
  | some x => .next (s.finishStore x readBackEqual)

/-- The store timer's expiry; nothing happens with no store in flight (R183; log 1). -/
def State.storeTimerExpiry (s : State) : State :=
  match s.fst.store with
  | none => s
  | some x => s.finishStore x false

/-- STORE_TIMER_EXPIRY (R183). -/
def execStoreTimerExpiry (s : State) : Outcome := .next s.storeTimerExpiry

end Sys2Proof.Machine
end

