-- ==== Sys2Proof/Machine/Links.lean ====
section
/-! DEFINITION. The Camera Links (chapter 4): arriving frames, the plan request, restart and power, and
what a change of part state does to a link. -/

namespace Sys2Proof.Machine

/-- Write one camera's link. -/
def State.setLink (s : State) (k : Fin 4) (x : CameraLink) : State :=
  s.setCams { s.cams with links := s.cams.links.set k x }

/-- STARTING, LOCKED or LOST: the states in which a camera is strobed and its frames are taken (R70). -/
def LinkState.isActive : LinkState → Bool
  | .starting | .locked | .lost => true
  | .absent | .idle => false

/-- Whether frame starts, lines and frame ends are taken, and the camera is strobed: active, with the
power-off timer stopped (R71, R73). -/
def CameraLink.takesFrames (x : CameraLink) : Bool := x.link.isActive && x.powerOff.isNone

/-- The slot being written, with its sequence number and lines so far (R71). -/
def CameraLink.writing (x : CameraLink) : Option (Fin 3 × Word16 × List CameraLine) :=
  (List.finRange 3).findSome? (fun i =>
    match x.slots[i] with
    | .writing seq lines => some (i, seq, lines)
    | _ => none)

/-- The lowest-numbered FREE slot (R71). -/
def CameraLink.lowestFree (x : CameraLink) : Option (Fin 3) :=
  (List.finRange 3).find? (fun i => decide (x.slots[i] = .free))

/-- The slot that is HELD, with its frame. -/
def CameraLink.heldSlot (x : CameraLink) : Option (Fin 3 × CameraFrame) :=
  (List.finRange 3).findSome? (fun i =>
    match x.slots[i] with
    | .held f => some (i, f)
    | _ => none)

/-- The slot that is READY, with its frame. -/
def CameraLink.readySlot (x : CameraLink) : Option (Fin 3 × CameraFrame) :=
  (List.finRange 3).findSome? (fun i =>
    match x.slots[i] with
    | .ready f => some (i, f)
    | _ => none)

/-- One more discarded frame, the count staying at 255 (R72). -/
def CameraLink.discard (x : CameraLink) : CameraLink :=
  { x with discards := min 255 (x.discards + 1) }

/-- A frame start: a frame being written is discarded and its slot restarts, else the lowest FREE slot
becomes WRITING (R71). -/
def CameraLink.frameStart (x : CameraLink) (seq : Word16) : CameraLink :=
  match x.writing with
  | some (i, _, _) => { x.discard with slots := x.slots.set i (.writing seq []) }
  | none =>
    match x.lowestFree with
    | some i => { x with slots := x.slots.set i (.writing seq []) }
    | none => x

/-- FRAME_START (R71). -/
def execFrameStart (k : Fin 4) (seq : Word16) (s : State) : Outcome :=
  let x := s.cams.links[k]
  if x.takesFrames = false then .next s else .next (s.setLink k (x.frameStart seq))

/-- A line joins the frame being written; with no slot WRITING it is ignored (R71). -/
def CameraLink.line (x : CameraLink) (l : CameraLine) : CameraLink :=
  match x.writing with
  | some (i, seq, lines) => { x with slots := x.slots.set i (.writing seq (lines ++ [l])) }
  | none => x

/-- CAMERA_LINE (R71). -/
def execCameraLine (k : Fin 4) (l : CameraLine) (s : State) : Outcome :=
  let x := s.cams.links[k]
  if x.takesFrames = false then .next s else .next (s.setLink k (x.line l))

/-- A frame passes: 960 lines, each with 1280 pixels and a good line check (R72). -/
def framePasses (lines : List CameraLine) : Bool :=
  decide (lines.length = 960) && lines.all (fun l => l.checkOk && decide (l.pixels.length = 1280))

/-- A READY slot becomes FREE; any other stays. -/
def FrameSlot.dropReady : FrameSlot → FrameSlot
  | .ready _ => .free
  | x => x

/-- A frame end: the frame that passes becomes READY in place of an older READY one, a frame that fails is
discarded (R72). -/
def CameraLink.frameEnd (x : CameraLink) : CameraLink :=
  match x.writing with
  | none => x
  | some (i, seq, lines) =>
    if framePasses lines then
      { x with
        slots := (Vector.ofFn (fun j => x.slots[j].dropReady)).set i
          (.ready ⟨seq, lines.map CameraLine.pixels⟩) }
    else { x.discard with slots := x.slots.set i .free }

/-- FRAME_END (R72). -/
def execFrameEnd (k : Fin 4) (s : State) : Outcome :=
  let x := s.cams.links[k]
  if x.takesFrames = false then .next s else .next (s.setLink k x.frameEnd)

/-! ## The plan request (section 4.4) -/

/-- A HELD slot is freed and the READY one held (R74). -/
def FrameSlot.handOver : FrameSlot → FrameSlot
  | .ready f => .held f
  | .held _ => .free
  | x => x

/-- The slots and counts after a plan request (R74). -/
def CameraLink.countRequest (x : CameraLink) : CameraLink :=
  let y :=
    match x.readySlot with
    | some _ =>
      { x with
        slots := Vector.ofFn (fun i => x.slots[i].handOver)
        miss := 0
        fresh := min 2 (x.fresh + 1) }
    | none => { x with miss := min 3 (x.miss + 1), fresh := 0 }
  if x.link = .starting ∧ x.powerOff = none then { y with starting := x.starting + 1 } else y

/-- The link state's move after the counts (R75), and the alert it raises (R76). -/
def CameraLink.moveAfterRequest (x : CameraLink) : CameraLink × Option AlertCode :=
  match x.link with
  | .starting =>
    if x.fresh = 2 then ({ x with link := .locked, starting := 0 }, some .cameraStarted)
    else if 30 ≤ x.starting then ({ x with link := .lost, starting := 0 }, some .cameraLost)
    else (x, none)
  | .locked => if x.miss = 3 then ({ x with link := .lost }, some .cameraLost) else (x, none)
  | .lost => if x.fresh = 2 then ({ x with link := .locked }, some .cameraBack) else (x, none)
  | .absent | .idle => (x, none)

/-- A camera's plan request: an ABSENT or IDLE camera changes nothing (R74). -/
def CameraLink.planRequest (x : CameraLink) : CameraLink × Option AlertCode :=
  if x.link.isActive then x.countRequest.moveAfterRequest else (x, none)

/-- What a camera hands over after its plan request (R75). -/
def CameraLink.answer (x : CameraLink) : CameraAnswer :=
  ⟨x.link, x.heldSlot.map (fun h => (h.1, h.2.seq))⟩

/-- One camera's plan request, with its alert (R74 to R76). -/
def State.planRequest (s : State) (k : Fin 4) : State :=
  let x := s.cams.links[k].planRequest
  let t := s.setLink k x.1
  match x.2 with
  | some code => t.raiseAll code k.val 0
  | none => t

/-- The plan requests of the four cameras (R147). Their alerts are raised in ascending camera number (log 11). -/
def State.planRequests (s : State) : State :=
  (((s.planRequest 0).planRequest 1).planRequest 2).planRequest 3

/-! ## Restart and power (section 4.5) -/

/-- A slot kept HELD, any other FREE (R79). -/
def FrameSlot.keepHeld : FrameSlot → FrameSlot
  | .held f => .held f
  | _ => .free

/-- A camera power-cycled: STARTING with 200 ms of power-off (R79). -/
def CameraLink.restart (x : CameraLink) : CameraLink :=
  { x with
    link := .starting
    slots := Vector.ofFn (fun i => x.slots[i].keepHeld)
    miss := 0
    fresh := 0
    starting := 0
    powerOff := some 200
    power := false }

/-- CAMERA_RESTART (R79). -/
def execCameraRestart (p : Port) (s : State) : Outcome :=
  serve .cameraRestart p s (fun r s =>
    match cameraOf (r.arg 0).toNat with
    | none => .next (s.badField p r 0x01#8)
    | some k =>
      let x := s.cams.links[k]
      if x.link = .absent then .next (s.badField p r 0x01#8)
      else if s.stc.part = .quiet then .next (s.refuse p r .wrongState)
      else if x.powerOff.isSome then .next (s.refuse p r .busy)
      else .next ((s.setLink k x.restart).done p r []))

/-- The power-off timer's expiry in a part state: CAMPWR goes on if the camera is active, or IDLE in QUIET
(R80). -/
def CameraLink.powerOn (x : CameraLink) (part : PartState) : CameraLink :=
  { x with
    powerOff := none
    power := x.power || x.link.isActive || (decide (x.link = .idle) && decide (part = .quiet)) }

/-- The power-off timer's expiry; nothing happens while the timer is stopped (R80; log 1). -/
def State.powerOffExpiry (s : State) (k : Fin 4) : State :=
  let x := s.cams.links[k]
  if x.powerOff.isSome then s.setLink k (x.powerOn s.stc.part) else s

/-- POWER_OFF_EXPIRY (R80). -/
def execPowerOffExpiry (k : Fin 4) (s : State) : Outcome := .next (s.powerOffExpiry k)

/-! ## Changes of part state (section 4.6) -/

/-- A link when the part enters RUN: IDLE becomes STARTING (R82). -/
def CameraLink.enterRun (x : CameraLink) : CameraLink :=
  if x.link = .idle then
    { x with link := .starting, miss := 0, fresh := 0, starting := 0, power := x.powerOff.isNone }
  else x

/-- A link when the part enters QUIET: an active camera becomes IDLE with every slot FREE (R83). -/
def CameraLink.enterQuiet (x : CameraLink) : CameraLink :=
  if x.link.isActive then
    { x with
      link := .idle
      slots := Vector.replicate 3 FrameSlot.free
      miss := 0
      fresh := 0
      starting := 0
      power := x.powerOff.isNone }
  else x

/-- A link when the part enters DORMANT: power off, the timer stopped (R84). -/
def CameraLink.enterDormant (x : CameraLink) : CameraLink :=
  { x with power := false, powerOff := none }

/-- Change every link. -/
def Cameras.mapLinks (c : Cameras) (f : CameraLink → CameraLink) : Cameras :=
  { c with links := Vector.ofFn (fun k => f c.links[k]) }

/-! ## Reading (section 4.7) -/

/-- A sequence number, or FFFFh for none (R185). -/
def seqBytes (f : Option (Fin 3 × CameraFrame)) : List Byte :=
  match f with
  | some x => frameBytes x.2.seq
  | none => [0xFF#8, 0xFF#8]

/-- One camera's part of CAMERA_STATUS (R86, R187). -/
def CameraLink.statusBytes (x : CameraLink) : List Byte :=
  [byte x.link.number, flag x.power, byte (x.powerOff.getD 0)]
    ++ x.slots.toList.map (fun y => byte y.number)
    ++ seqBytes x.heldSlot ++ seqBytes x.readySlot
    ++ [byte x.miss, byte x.fresh, byte x.starting, byte x.discards]

/-- CAMERA_STATUS's values (R86, R187). -/
def Cameras.statusValues (c : Cameras) : List Byte :=
  byte c.source.number :: c.links.toList.flatMap CameraLink.statusBytes

/-- CAMERA_STATUS (R86). -/
def execCameraStatus (p : Port) (s : State) : Outcome :=
  serve .cameraStatus p s (fun r s => .next (s.done p r s.cams.statusValues))

end Sys2Proof.Machine
end

