-- ==== Sys2Proof/Machine/Compose.lean ====
section
/-! DEFINITION. The Composer (chapter 8): SET_PALETTE, the Frame Plan, drawing one line, and the recorder's
metadata record. -/

namespace Sys2Proof.Machine

/-- SET_PALETTE (R154). -/
def execSetPalette (p : Port) (s : State) : Outcome :=
  serve .setPalette p s (fun r s =>
    if (r.arg 0).toNat ≠ 16 then .next (s.badField p r 0x0F#8)
    else .next ((s.setCmp { s.cmp with palette := paletteFrom (r.payload.drop 1) }).done p r []))

/-! ## The plan (section 8.1) -/

/-- A candidate for a plan: enabled, owned and, if BITMAP, of a VALID region (R143). -/
def isCandidate (regions : Vector (Option Region) 16) (x : LayerSlot) : Bool :=
  x.active.enabled && x.owner.isOwned
  && (match x.active.part with
      | .bitmap b => regions[b.region].any Region.isValid
      | _ => true)

/-- Visible or hidden, the first case that applies (R144). -/
def isVisible (view : Vector Bool 18) (frame : Word16) (x : LayerSlot) : Bool :=
  match x.force with
  | .hide => false
  | .show => true
  | .none => conditionHolds view x.active.condition && x.active.blink.phaseOn frame

/-- Put an entry in by its height, ascending (R145). -/
def insertByZ (e : PlanEntry) : List PlanEntry → List PlanEntry
  | [] => [e]
  | x :: xs => if e.record.z < x.record.z then e :: x :: xs else x :: insertByZ e xs

/-- A slot as a plan holds it (R142). -/
def LayerTable.entry (t : LayerTable) (i : Fin 24) : PlanEntry :=
  ⟨i, t.slots[i].active, t.slots[i].owner, t.slots[i].force⟩

/-- The visible layers in ascending z (R143 to R145). -/
def visibleEntries (t : LayerTable) (regions : Vector (Option Region) 16) (view : Vector Bool 18)
    (frame : Word16) : List PlanEntry :=
  (((List.finRange 24).filter (fun i =>
    isCandidate regions t.slots[i] && isVisible view frame t.slots[i])).map t.entry).foldr insertByZ []

/-- Leave out the ORDINARY layer of lowest z, `n` times (R145). -/
def leaveOut : Nat → List PlanEntry → List PlanEntry
  | 0, es => es
  | n + 1, es => leaveOut n (es.eraseP (fun e => decide (e.record.cls = .ordinary)))

/-- A plan's entries: at most 12 of the visible layers (R145). -/
def keptEntries (visible : List PlanEntry) : List PlanEntry := leaveOut (visible.length - 12) visible

/-- The plan of the frame that a TOP opens, after the FTB's and the cameras' parts of it (R142, R147; log 28). -/
def State.planNow (s : State) : FramePlan :=
  let visible := visibleEntries s.ltb s.ovm.regions s.scn.view s.ftb.frame
  { frame := s.ftb.frame
    entries := keptEntries visible
    leftOut := visible.length - (keptEntries visible).length
    answers := Vector.ofFn (fun k => s.cams.links[k].answer)
    markers := s.mkm.markers
    palette := s.cmp.palette
    signals := s.scn.view
    genlock := s.ftb.genlock }

/-- The output mode a TOP sets (R158). -/
def outputModeFor (part : PartState) : OutputMode :=
  match part with
  | .run => .picture
  | .quiet => .black
  | .boot | .dormant => .off

/-- The recorder mode a TOP sets (R157). -/
def recorderModeFor (part : PartState) (recHold : Bool) : RecorderMode :=
  match part with
  | .run => if recHold then .hold else .send
  | .boot | .quiet | .dormant => .off

/-- Take the plan, set the modes, and raise PLAN_OVERFLOW when the overflow state goes from no to yes
(R142, R146, R157, R158). -/
def State.takePlan (s : State) (recHold : Bool) : State :=
  let plan := s.planNow
  let t := s.setCmp
    { s.cmp with
      plan := some plan
      overflow := decide (0 < plan.leftOut)
      output := outputModeFor s.stc.part
      recorder := recorderModeFor s.stc.part recHold
      stopped := []
      metadataSent := false }
  if 0 < plan.leftOut ∧ s.cmp.overflow = false then t.raiseAll .planOverflow 0 0 else t

/-! ## Overlay reads (R152) -/

/-- Whether a line lies in an entry's dest. -/
def LayerRecord.coversLine (r : LayerRecord) (y : Nat) : Bool :=
  decide (r.destY ≤ y) && decide (y < r.destY + r.destH)

/-- The word numbers, counted from the region's first word, that `cols` pixels from pixel `first` lie in
(R121, R152): 16 pixels a word. -/
def lineWords (first cols : Nat) : List Nat :=
  if cols = 0 then []
  else (List.range ((first + cols - 1) / 16 + 1 - first / 16)).map (fun i => first / 16 + i)

/-- Read words of a VALID region in order: single errors are corrected, and the first word with a double
error ends the reads (R137, R138, R152). -/
def Overlay.readWords (o : Overlay) (base : Nat) : List Nat → Overlay × Option Nat
  | [] => (o, none)
  | w :: ws =>
    match o.readCheck (base / 8 + w) with
    | .clean => o.readWords base ws
    | .single => (o.correct (base / 8 + w)).readWords base ws
    | .double => (o, some w)

/-- A VALID region becomes FAULTED, keeping its CRC (R138). -/
def RegionContent.fault : RegionContent → RegionContent
  | .valid c => .faulted c
  | x => x

/-- A region faults: FAULTED, and REGION_FAULT to all ports (R138). -/
def State.faultRegion (s : State) (g : Fin 16) : State :=
  (s.setOvm (s.ovm.setRegion g (s.ovm.regions[g].map (fun r => { r with content := r.content.fault })))).raiseAll
    .regionFault g.val 0

/-- An entry joins the stopped set (R152). -/
def State.stopEntry (s : State) (i : Fin 24) : State :=
  s.setCmp { s.cmp with stopped := s.cmp.stopped ++ [i] }

/-- The reads of one BITMAP entry for line `y`, with the number of columns, from the dest's left edge, that
it may draw there (R150, R152). Where the region was freed, allocated again with fewer blocks and made VALID
again since the COMMIT that checked its size, the reads past its last block go on into the memory that follows:
the spec leaves these pixels open, and the model settles them so (log 32). -/
def State.readBitmap (s : State) (y : Nat) (e : PlanEntry) (b : BitmapPart) : State × Nat :=
  let row := y - e.record.destY
  let first := row * b.width
  let cols := min e.record.destW b.width
  if e.slot ∈ s.cmp.stopped ∨ e.record.coversLine y = false ∨ b.height ≤ row then (s, 0)
  else
    match s.ovm.regions[b.region] with
    | none => (s.stopEntry e.slot, 0)
    | some g =>
      if g.isValid = false then (s.stopEntry e.slot, 0)
      else
        match s.ovm.readWords g.base (lineWords first cols) with
        | (o, none) => (s.setOvm o, cols)
        | (o, some w) =>
          (((s.setOvm o).faultRegion b.region).stopEntry e.slot, min cols (w * 16 - first))

/-- The reads of one entry for line `y`: only BITMAP entries read (R152). -/
def State.readEntry (s : State) (y : Nat) (e : PlanEntry) : State × Nat :=
  match e.record.part with
  | .bitmap b => s.readBitmap y e b
  | .camera _ | .guide _ | .fill _ => (s, e.record.destW)

/-- The reads of a plan's entries for line `y`, entry by entry in ascending z (log 19), each entry with the
columns it may draw. -/
def State.readEntries (s : State) (y : Nat) : List PlanEntry → State × List (PlanEntry × Nat)
  | [] => (s, [])
  | e :: es =>
    let a := s.readEntry y e
    let b := a.1.readEntries y es
    (b.1, (e, a.2) :: b.2)

/-! ## Pixels (section 8.2) -/

/-- Black, 000000h (R158). -/
def black : Colour := ⟨0#8, 0#8, 0#8⟩

/-- A pixel of a camera frame. -/
def CameraFrame.pixel (f : CameraFrame) (col row : Nat) : Colour := (f.lines.getD row []).getD col black

/-- The source pixel's column of a dest column (R149). -/
def CameraPart.sourceCol (c : CameraPart) (destW i : Nat) : Nat :=
  if c.mirror then c.cropX + c.cropW - 1 - i * c.cropW / destW else c.cropX + i * c.cropW / destW

/-- The source pixel's row of a dest row (R149). -/
def CameraPart.sourceRow (c : CameraPart) (destH j : Nat) : Nat := c.cropY + j * c.cropH / destH

/-- A clipped box: columns `left` to `right` less one, rows `top` to `bottom` less one. -/
structure MarkerBox where
  left : Int
  right : Int
  top : Int
  bottom : Int
  deriving DecidableEq, Repr

/-- A marker's box mapped through a camera layer and clipped to its dest (R118). -/
def Marker.mapped (m : Marker) (r : LayerRecord) (c : CameraPart) : MarkerBox :=
  let acrossFrom : Int :=
    if c.mirror then (c.cropX : Int) + c.cropW - m.boxX - m.boxW else (m.boxX : Int) - c.cropX
  let acrossTo : Int := acrossFrom + m.boxW
  let downFrom : Int := (m.boxY : Int) - c.cropY
  let downTo : Int := downFrom + m.boxH
  { left := max (r.destX + acrossFrom * r.destW / c.cropW) r.destX
    right := min (r.destX + acrossTo * r.destW / c.cropW) (r.destX + r.destW)
    top := max (r.destY + downFrom * r.destH / c.cropH) r.destY
    bottom := min (r.destY + downTo * r.destH / c.cropH) (r.destY + r.destH) }

/-- Whether a canvas pixel lies on the outline of a box, 2 pixels wide (R119). -/
def MarkerBox.outlines (b : MarkerBox) (x y : Int) : Bool :=
  decide (b.left ≤ x) && decide (x < b.right) && decide (b.top ≤ y) && decide (y < b.bottom)
  && (decide (x < b.left + 2) || decide (b.right - 2 ≤ x) || decide (y < b.top + 2) || decide (b.bottom - 2 ≤ y))

/-- A marker's palette entry (R119). -/
def MarkerClass.paletteEntry : MarkerClass → Fin 16
  | .pedestrian => 12
  | .cyclist => 13
  | .vehicle => 14
  | .object => 15

/-- Whether a marker shows in a frame: a near one blinks FAST (R119). -/
def Marker.shows (m : Marker) (frame : Word16) : Bool := !m.near || Blink.phaseOn .fast frame

/-- The palette entry of the marker outline at a canvas pixel of a camera layer: of those that cover it, the
one of highest track id (R117 to R119). -/
def markerAt (plan : FramePlan) (r : LayerRecord) (c : CameraPart) (x y : Nat) : Option (Fin 16) :=
  plan.markers.foldl (fun below m =>
    if c.markers && decide (m.camera = c.camera) && m.shows plan.frame && (m.mapped r c).outlines x y then
      some m.cls.paletteEntry
    else below) none

/-- The camera frame a camera answer hands to the plan, if the camera was LOCKED and its slot is still HELD
(R149). -/
def heldFrame (links : Vector CameraLink 4) (plan : FramePlan) (k : Fin 4) : Option CameraFrame :=
  match plan.answers[k].link, plan.answers[k].held with
  | .locked, some (slot, _) =>
    match links[k].slots[slot] with
    | .held f => some f
    | .free | .writing _ _ | .ready _ => none
  | _, _ => none

/-- A CAMERA entry's pixel: the marker outline, the camera's pixel, or the no-signal fill (R149). -/
def cameraPixel (links : Vector CameraLink 4) (plan : FramePlan) (r : LayerRecord) (c : CameraPart)
    (x y : Nat) : Colour :=
  match heldFrame links plan c.camera with
  | none => plan.palette[1]
  | some f =>
    match markerAt plan r c x y with
    | some k => plan.palette[k]
    | none => f.pixel (c.sourceCol r.destW (x - r.destX)) (c.sourceRow r.destH (y - r.destY))

/-- Pixel `n` of a region that starts at an address: two pixels a byte, the even one in the upper four bits
(R121). -/
def Overlay.pixelIndex (o : Overlay) (base n : Nat) : Fin 16 :=
  let b := (o.byteAt (base + n / 2)).toNat
  if n % 2 = 0 then Fin.ofNat 16 (b / 16) else Fin.ofNat 16 (b % 16)

/-- A BITMAP entry's pixel within the columns it may draw (R150). A pixel past the region's last block is taken
from the memory that follows (the model's choice, log 32). -/
def bitmapPixel (o : Overlay) (plan : FramePlan) (b : BitmapPart) (limit col row : Nat) : Option Colour :=
  if col < limit ∧ col < b.width ∧ row < b.height then
    let base := ((o.regions[b.region]).map Region.base).getD 0
    let k := o.pixelIndex base (row * b.width + col)
    if b.key = some k then none else some plan.palette[k]
  else none

/-- A coordinate of a centre pixel: the whole number nearest to `a + t * d / n`, a half rounded up (R151). -/
def nearest (a t : Nat) (d : Int) (n : Nat) : Int :=
  if n = 0 then a else (2 * ((a : Int) * n + t * d) + n) / (2 * n)

/-- The larger of a segment's extents (R151). -/
def Segment.span (g : Segment) : Nat :=
  max ((g.x1 : Int) - g.x0).natAbs ((g.y1 : Int) - g.y0).natAbs

/-- The centre pixel of a segment at step `t` (R151). -/
def Segment.centre (g : Segment) (t : Nat) : Int × Int :=
  (nearest g.x0 t ((g.x1 : Int) - g.x0) g.span, nearest g.y0 t ((g.y1 : Int) - g.y0) g.span)

/-- Whether the square about a centre pixel covers a pixel (R151). -/
def squareCovers (width : Nat) (c : Int × Int) (x y : Int) : Bool :=
  let back : Int := ((width - 1) / 2 : Nat)
  decide (c.1 - back ≤ x) && decide (x < c.1 - back + width)
  && decide (c.2 - back ≤ y) && decide (y < c.2 - back + width)

/-- Whether a guide covers a pixel, relative to its dest (R151). -/
def GuidePart.covers (g : GuidePart) (x y : Nat) : Bool :=
  g.segments.any (fun sgm => (List.range (sgm.span + 1)).any (fun t => squareCovers g.width (sgm.centre t) x y))

/-- What the drawing of a line reads: the plan, the camera links and Overlay Memory. -/
structure Scene where
  plan : FramePlan
  links : Vector CameraLink 4
  ovm : Overlay
  deriving DecidableEq, Repr

/-- An entry's own picture at a canvas pixel of its dest: a colour, or transparent (R149 to R151). -/
def Scene.ownPixel (v : Scene) (r : LayerRecord) (limit x y : Nat) : Option Colour :=
  match r.part with
  | .camera c => some (cameraPixel v.links v.plan r c x y)
  | .bitmap b => bitmapPixel v.ovm v.plan b limit (x - r.destX) (y - r.destY)
  | .guide g => if g.covers (x - r.destX) (y - r.destY) then some v.plan.palette[g.colour] else none
  | .fill c => some v.plan.palette[c]

/-- One channel of a layer laid over what lies beneath (R148). -/
def blendChannel (alpha : Nat) (l b : Byte) : Byte :=
  BitVec.ofNat 8 ((alpha * l.toNat + (15 - alpha) * b.toNat) / 15)

/-- A colour laid over what lies beneath at an alpha (R148). -/
def blend (alpha : Nat) (l b : Colour) : Colour :=
  ⟨blendChannel alpha l.red b.red, blendChannel alpha l.green b.green, blendChannel alpha l.blue b.blue⟩

/-- Whether a canvas pixel lies in a record's dest. -/
def LayerRecord.inDest (r : LayerRecord) (x y : Nat) : Bool :=
  decide (r.destX ≤ x) && decide (x < r.destX + r.destW) && r.coversLine y

/-- An entry laid over the pixel beneath (R148). -/
def Scene.layOver (v : Scene) (x y : Nat) (below : Colour) (e : PlanEntry × Nat) : Colour :=
  if e.1.record.inDest x y then
    match v.ownPixel e.1.record e.2 x y with
    | some l => blend e.1.record.alpha l below
    | none => below
  else below

/-- A canvas pixel: palette entry 0 with the entries laid over it in ascending z (R148). -/
def Scene.pixel (v : Scene) (entries : List (PlanEntry × Nat)) (x y : Nat) : Colour :=
  entries.foldl (v.layOver x y) v.plan.palette[0]

/-- A canvas line (R148). -/
def Scene.line (v : Scene) (entries : List (PlanEntry × Nat)) (y : Nat) : List Colour :=
  (List.range 1280).map (fun x => v.pixel entries x y)

/-- The entries the recorder shows (R155). -/
def recordedEntries (entries : List (PlanEntry × Nat)) : List (PlanEntry × Nat) :=
  entries.filter (fun e => e.1.record.record)

/-- The picture's line and the recorder's, drawn from a plan after its Overlay Memory reads (R148, R155). -/
def State.drawPicture (s : State) (plan : FramePlan) (y : Nat) : State :=
  let a := s.readEntries y plan.entries
  let v : Scene := ⟨plan, a.1.cams.links, a.1.ovm⟩
  a.1.setLinks
    { a.1.links with
      display := .line y (v.line a.2 y)
      recorder := if s.cmp.recorder = .send then .line y (v.line (recordedEntries a.2) y) else .nothing }

/-- What both links send for counter value `y`, 0 to 719 (R148, R155, R158). -/
def State.drawLine (s : State) (y : Nat) : State :=
  match s.cmp.output, s.cmp.plan with
  | .picture, some plan => s.drawPicture plan y
  | .black, _ => s.setLinks { s.links with display := .line y (List.replicate 1280 black) }
  | .picture, none | .off, _ => s

/-! ## Metadata (R156, section 11.1.7) -/

/-- One entry's two bytes. Bits 4 to 7 of the second, which 11.1.7 does not assign, are 0 (log 29). -/
def PlanEntry.metadataBytes (e : PlanEntry) : List Byte :=
  [byte e.slot.val,
    byte (e.record.cls.number + 2 * e.record.part.kind.number + (if e.record.record then 8 else 0))]

/-- One camera's three bytes. -/
def CameraAnswer.metadataBytes (a : CameraAnswer) : List Byte :=
  byte a.link.number :: (match a.held with
    | some h => frameBytes h.2
    | none => [0xFF#8, 0xFF#8])

/-- The metadata record of a plan (R156). Bits 3 to 7 of byte 3 and bits 18 to 23 of the signals, which 11.1.7 does
not assign, are 0 (log 29). -/
def FramePlan.metadata (plan : FramePlan) (stopped : List (Fin 24)) (early : Bool) : List Byte :=
  0x5A#8 :: frameBytes plan.frame
    ++ [byte ((if early then 1 else 0) + 2 * plan.genlock.number), byte plan.entries.length]
    ++ plan.entries.flatMap PlanEntry.metadataBytes
    ++ byte plan.leftOut :: le 3 (bitsToNat ((List.finRange 24).map (fun i => decide (i ∈ stopped))))
    ++ plan.answers.toList.flatMap CameraAnswer.metadataBytes
    ++ le 3 (bitsToNat plan.signals.toList)
    ++ [byte plan.markers.length, byte (plan.markers.filter Marker.near).length]

/-- Send the frame's metadata record, once a frame, when the recorder mode is SEND (R156). -/
def State.sendMetadata (s : State) (early : Bool) : State :=
  match s.cmp.recorder, s.cmp.plan with
  | .send, some plan =>
    if s.cmp.metadataSent then s
    else
      (s.setLinks { s.links with metadata := some (plan.metadata s.cmp.stopped early) }).setCmp
        { s.cmp with metadataSent := true }
  | .off, _ | .hold, _ | .send, none => s

/-! ## A whole TOP, and DORMANT entry -/

/-- A TOP that fires (R52, R142, R147, R156 to R158): the frame before is closed, the FTB advances and pulses
RSYNC, the cameras answer, the plan is taken. The plan's genlock state is the one the FTB left (log 28). -/
def State.fireTop (s : State) (starting recHold : Bool) : State :=
  let t := s.sendMetadata true
  let t := t.setLinks { t.links with rsync := true }
  let t := t.setPins { t.pins with recHold := recHold }
  ((t.timebaseTop starting).planRequests).takePlan recHold

/-- The Composer at DORMANT entry (R159). -/
def Composer.enterDormant (c : Composer) : Composer :=
  { c with
    plan := none
    overflow := false
    output := .off
    recorder := .off
    stopped := []
    metadataSent := false }

end Sys2Proof.Machine
end

