-- ==== Sys2Proof/Machine/PartState.lean ====
section
/-! DEFINITION. The State Controller (chapter 10): RUN and QUIET, the tests at BLANK, DORMANT and the wake, and
with them the events of one counter value and LINE_END (chapter 3). -/

namespace Sys2Proof.Machine

/-- STATE_CHANGED with the new state and the cause (R180). -/
def State.announce (s : State) (cause : Cause) : State :=
  s.raiseAll .stateChanged s.stc.part.number cause.number

/-- The part takes a state; no entry is pending and no RUN is requested in it (R176, R177). -/
def State.moveTo (s : State) (part : PartState) : State :=
  s.setStc { part := part, entry := none, runRequest := false }

/-- The reply of an open QUIET, with its tag (R165). -/
def quietReply (tag : Tag) (result : ResultCode) (values : List Byte) : Reply :=
  ⟨tag, RequestKind.code .quiet, result, 0#8, values⟩

/-- A pending entry is answered REFUSED_CONDITION and dropped (R176). -/
def State.refuseEntry (s : State) (e : PendingEntry) (cause : Cause) : State :=
  (s.setStc { s.stc with entry := none }).post e.port (quietReply e.tag .refusedCondition [byte cause.number])

/-- RUN (R177): in RUN it withdraws a pending entry (R176), in QUIET it sets the run request. -/
def execRun (p : Port) (s : State) : Outcome :=
  serve .run p s (fun r s =>
    if s.stc.part = .quiet then .next ((s.setStc { s.stc with runRequest := true }).done p r [])
    else
      match s.stc.entry with
      | some e => .next ((s.refuseEntry e .runRequest).done p r [])
      | none => .next (s.done p r []))

/-- QUIET (R176). -/
def execQuiet (p : Port) (s : State) : Outcome :=
  serve .quiet p s (fun r s =>
    if s.stc.part = .quiet then .next ((s.setStc { s.stc with runRequest := false }).done p r [])
    else if s.stc.entry.isSome then .next (s.refuse p r .busy)
    else .next (s.setStc { s.stc with entry := some ⟨p, r.tag⟩ }))

/-! ## The tests at BLANK -/

/-- A reply and an announcement made at the same moment, in the order taken (R168; log 10). -/
def State.answerAndAnnounce (s : State) (replyFirst : Bool) (p : Port) (r : Reply) (cause : Cause) : State :=
  if replyFirst then (s.post p r).announce cause else (s.announce cause).post p r

/-- QUIET entry (R176, R83). -/
def State.enterQuiet (s : State) (e : PendingEntry) (replyFirst : Bool) : State :=
  ((s.moveTo .quiet).setCams (s.cams.mapLinks CameraLink.enterQuiet)).answerAndAnnounce replyFirst e.port
    (quietReply e.tag .done []) .quietRequest

/-- The entry test in RUN (R176). -/
def State.entryTest (s : State) (replyFirst : Bool) : State :=
  match s.stc.entry with
  | none => s
  | some e =>
    if s.scn.stopped = false then s.refuseEntry e .notStopped
    else if s.safetyCondition then s.refuseEntry e .safetyCondition
    else s.enterQuiet e replyFirst

/-- The cause of leaving QUIET, the first that applies (R177). -/
def State.exitCause (s : State) : Option Cause :=
  if s.scn.stopped = false then some .notStopped
  else if s.safetyCondition then some .safetyCondition
  else if s.stc.runRequest then some .runRequest
  else none

/-- The exit test in QUIET (R177, R82). -/
def State.exitTest (s : State) : State :=
  match s.exitCause with
  | none => s
  | some cause => ((s.moveTo .run).setCams (s.cams.mapLinks CameraLink.enterRun)).announce cause

/-- The State Controller's test of the state it is in (R174). -/
def State.blankTest (s : State) (replyFirst : Bool) : State :=
  match s.stc.part with
  | .run => s.entryTest replyFirst
  | .quiet => s.exitTest
  | .boot | .dormant => s

/-- BLANK: the markers age and the State Controller tests, in the order taken (R113, R174; log 10). -/
def State.blank (s : State) (order : LineOrder) : State :=
  if order.agingFirst then s.ageStep.blankTest order.replyFirst
  else (s.blankTest order.replyFirst).ageStep

/-! ## The events of a counter value (R51) -/

/-- Whether STROBE `k` fires and its camera is strobed (R51, R73). -/
def State.strobes (s : State) (k : Fin 4) : Bool :=
  decide (s.ftb.strobes[k] = s.ftb.line) && s.cams.links[k].takesFrames

/-- The strobes of the counter's value (R73). -/
def State.strobe (s : State) : State :=
  s.setLinks { s.links with strobed := Vector.ofFn s.strobes }

/-- BLANK, COMMIT and the strobes of the counter's value, in the order taken (R51, R53; log 10). -/
def State.blankAndCommit (s : State) (order : LineOrder) : State :=
  let c (t : State) : State := if t.ftb.line = t.ftb.commitLine then t.commitEvent else t
  let b (t : State) : State := if t.ftb.line = 720 then t.blank order else t
  if order.commitFirst then b (c s) else c (b s)

/-- The canvas line and, after line 719, the metadata record (R148, R155, R156). -/
def State.canvasLine (s : State) : State :=
  let t := if s.ftb.line < 720 then s.drawLine s.ftb.line else s
  if s.ftb.line = 719 then t.sendMetadata false else t

/-- Every event of the value the counter has taken: TOP first, then the canvas line, then the strobes, BLANK
and COMMIT, which lie at other values but for strobes (R51 to R53). -/
def State.lineEvents (s : State) (starting : Bool) (recHold : Bool) (order : LineOrder) : State :=
  let t := if s.ftb.line = 0 then s.fireTop starting recHold else s
  let t := t.canvasLine
  if order.strobeFirst then t.strobe.blankAndCommit order else (t.blankAndCommit order).strobe

/-- Silence the links for the coming step of the timebase, and let memory errors come about (log 8, log 21). -/
def State.openStep (s : State) (upsets : List Upset) : State :=
  (s.setLinks LinkOutputs.silent).setOvm (s.ovm.suffer upsets)

/-- LINE_END (R51): the counter takes PH when a load is due, else the next value; nothing happens while the
timebase is held. -/
def execLineEnd (out : Surroundings) (order : LineOrder) (s : State) : Outcome :=
  if s.ftb.run = .held then .next s
  else
    let t := s.openStep out.upsets
    .next ((t.setFtb (t.ftb.moveTo t.ftb.arrival)).lineEvents false out.recHold order)

/-! ## Entering RUN with a TOP, and DORMANT -/

/-- An order for the values where no two events can meet in a way that matters: the start of the timebase at
0, where BLANK and COMMIT do not fire (R51, R56). -/
def LineOrder.start : LineOrder := ⟨true, true, true, true⟩

/-- The part enters RUN and the timebase starts with a TOP at 0 (R65, R66, R82, R175, R179): the cameras become
STARTING first, then the events of value 0 fire. -/
def State.startRun (s : State) (out : Surroundings) : State :=
  let t := (s.openStep out.upsets).moveTo .run
  let t := t.setCams (t.cams.mapLinks CameraLink.enterRun)
  (t.setFtb t.ftb.start).lineEvents true out.recHold LineOrder.start

/-- The wake from DORMANT (R179). The input events taken after it are taken in RUN, so they add nothing to the
wake-pending set, and the first plan's view sees them (R101; log 10). -/
def State.wakeUp (s : State) (meets : Waking) : State :=
  (meets.inputs.foldl State.inputEvent ((s.setScn s.scn.wake).moveTo .run)).startRun meets.out

/-- WAKE (R179): its reply is posted before everything the wake raises, or after it (R168; log 10). -/
def execWake (p : Port) (meets : Waking) (replyFirst : Bool) (s : State) : Outcome :=
  serve .wake p s (fun r s =>
    if s.stc.part ≠ .dormant then .next (s.done p r [])
    else if replyFirst then .next (((s.done p r []).wakeUp meets).announce .wakeRequest)
    else .next (((s.wakeUp meets).announce .wakeRequest).done p r []))

/-- WAKE_IN (R179): a rising edge wakes a DORMANT part and is otherwise lost. -/
def execWakeIn (meets : Waking) (s : State) : Outcome :=
  if s.stc.part = .dormant then .next ((s.wakeUp meets).announce .wakeIn) else .next s

/-- Whether work stands that refuses DORMANT (R178). -/
def State.workStands (s : State) : Bool :=
  s.ltb.sets.body.isSome || s.ltb.sets.detect.isSome || s.ltb.sets.cab.isSome
  || s.ovm.jobs.body.isSome || s.ovm.jobs.detect.isSome || s.ovm.jobs.cab.isSome
  || s.fst.store.isSome || s.stc.runRequest

/-- DORMANT entry, before it is announced (R178: R66, R84, R103, R120, R159). -/
def State.enterDormant (s : State) : State :=
  let t := (s.setLinks LinkOutputs.silent).sendMetadata true
  let t := t.setFtb t.ftb.hold
  let t := t.setCams (t.cams.mapLinks CameraLink.enterDormant)
  let t := t.setMarkers []
  let t := t.setScn t.scn.enterDormant
  let t := t.setCmp t.cmp.enterDormant
  t.moveTo .dormant

/-- DORMANT (R178). -/
def execDormant (p : Port) (replyFirst : Bool) (s : State) : Outcome :=
  serve .dormant p s (fun r s =>
    if s.stc.part = .run then .next (s.refuse p r .wrongState)
    else if s.workStands then .next (s.refuse p r .busy)
    else
      .next (s.enterDormant.answerAndAnnounce replyFirst p ⟨r.tag, r.kind, .done, 0#8, []⟩ .dormantRequest))

end Sys2Proof.Machine
end

