-- ==== Sys2Proof/Machine/Boot.lean ====
section
/-! DEFINITION. Device reset, BOOT and its end (chapter 10), and one millisecond of the part's own clock. -/

namespace Sys2Proof.Machine

/-- The Fitting Store at device reset: the record is kept, its check bad if a store was cut off (R184). -/
def Fitting.atDeviceReset (f : Fitting) : Fitting where
  record := if f.store.isSome then .spoiled else f.record
  status := .none
  store := none

/-- The levels on the input pins. -/
def Conditioner.pinLevels (c : Conditioner) : Vector Bool 8 := Vector.ofFn (fun n => c.inputs[n].raw)

/-- The state after a device reset, RESET still low (R25, R65, R85, R103, R120, R140, R159, R173 to R175). The
levels on the pins are the outside's and stay. -/
def State.deviceReset (s : State) (campop : BitVec 2) : State where
  ports := PerPort.all PortState.atReset
  ltb := LayerTable.atReset
  ftb := Timebase.atReset
  cams := Cameras.atReset campop
  scn := Conditioner.atReset s.scn.pinLevels
  mkm := MarkerMap.atReset
  ovm := Overlay.atReset (s.ovm.epoch + 1)
  cmp := Composer.atReset
  stc := Controller.atReset
  fst := s.fst.atDeviceReset
  links := LinkOutputs.silent
  pins := { s.pins with resetLow := true, campop := campop }
  pending := s.pending

/-- DEVICE_RESET (R175). -/
def execDeviceReset (campop : BitVec 2) (s : State) : Outcome := .next (s.deviceReset campop)

/-- BOOT_START: RESET is high and BOOT begins (R175). -/
def execBootStart (s : State) : Outcome := .next (s.setPins { s.pins with resetLow := false })

/-- Every unsettled input takes its raw level (R93). -/
def Conditioner.endBoot (c : Conditioner) : Conditioner :=
  { c with inputs := Vector.ofFn (fun n => c.inputs[n].endBoot) }

/-- The end of BOOT: the record settled, the inputs settled, then RUN with its TOP, then STATE_CHANGED (R175, R182). -/
def State.endBoot (s : State) (out : Surroundings) : State :=
  let t := s.settleFitting
  ((t.setScn t.scn.endBoot).startRun out).announce .bootEnd

/-- BOOT_END: nothing happens outside BOOT or while RESET is low (R175; log 1). -/
def execBootEnd (out : Surroundings) (s : State) : Outcome :=
  if s.stc.part = .boot ∧ s.pins.resetLow = false then .next (s.endBoot out) else .next s

/-! ## One millisecond of the part's clock (log 2) -/

/-- One millisecond off an input's debounce timer, which expires at its end. -/
def State.tickInput (s : State) (n : Fin 8) : State :=
  let x := s.scn.inputs[n]
  match x.timer with
  | none => s
  | some t =>
    if t ≤ 1 then s.debounceExpiry n else s.setScn (s.scn.setInput n { x with timer := some (t - 1) })

/-- One millisecond off the speed-age timer. -/
def State.tickSpeed (s : State) : State :=
  match s.scn.age with
  | none => s
  | some t => if t ≤ 1 then s.speedAgeExpiry else s.setScn { s.scn with age := some (t - 1) }

/-- One millisecond off a camera's power-off timer. -/
def State.tickCamera (s : State) (k : Fin 4) : State :=
  let x := s.cams.links[k]
  match x.powerOff with
  | none => s
  | some t => if t ≤ 1 then s.powerOffExpiry k else s.setLink k { x with powerOff := some (t - 1) }

/-- One millisecond off the receive timer of the RECEIVING job. -/
def State.tickReceive (s : State) : State :=
  match s.ovm.jobs.firstJob Job.isReceiving with
  | none => s
  | some (p, j) =>
    match j.state with
    | .receiving t =>
      if t ≤ 1 then s.receiveTimeout
      else s.setOvm (s.ovm.setJob p (some { j with state := .receiving (t - 1) }))
    | .suspended | .verifying _ _ => s

/-- One millisecond of verification; no memory error comes about in it (log 2). -/
def State.tickVerify (s : State) : State :=
  match s.ovm.jobs.firstJob Job.isVerifying with
  | none => s
  | some (p, j) =>
    match j.state with
    | .verifying t tag =>
      if t ≤ 1 then s.verificationEnd []
      else s.setOvm (s.ovm.setJob p (some { j with state := .verifying (t - 1) tag }))
    | .suspended | .receiving _ => s

/-- One millisecond off the store timer. -/
def State.tickStore (s : State) : State :=
  match s.fst.store with
  | none => s
  | some x =>
    if x.timer ≤ 1 then s.storeTimerExpiry
    else s.setFst { s.fst with store := some { x with timer := x.timer - 1 } }

/-- One millisecond: the timers in this order, each expiring at its end; nothing while RESET is low (log 2,
log 26). -/
def State.tick (s : State) : State :=
  if s.pins.resetLow then s
  else
    let t := (List.finRange 8).foldl State.tickInput s
    let t := (List.finRange 4).foldl State.tickCamera t.tickSpeed
    t.tickReceive.tickVerify.tickStore

end Sys2Proof.Machine
end

