-- ==== Sys2Proof/Machine/Transactions.lean ====
section
/-! DEFINITION. The client ports (chapter 9): transactions and delivery, unknown kinds, IDENTIFY, SUBSCRIBE,
RESET_PORT. -/

namespace Sys2Proof.Machine

/-! ## Records (R186) -/

/-- A reply record. -/
def Reply.record (r : Reply) : List Byte :=
  [0x01#8, r.tag.zeroExtend 8, r.kind, byte r.result.number, r.field] ++ r.values

/-- An alert record, 9 bytes. -/
def Alert.record (a : Alert) : List Byte :=
  [0x02#8, byte a.code.number, byte a.code.cls.number, byte a.code.subjectKind, byte a.subject, byte a.detail]
    ++ frameBytes a.frame ++ [byte a.count]

/-- The record to offer (R168): a class S alert at the head of its queue, else the older of the two heads. -/
def PortState.chooseOffer (q : PortState) : Option Offer × List Byte :=
  match q.alerts.head?, q.replies.head? with
  | none, none => (none, [])
  | some a, none => (some (.alert a.stamp), a.item.record)
  | none, some r => (some (.reply r.stamp), r.item.record)
  | some a, some r =>
    if isSafety a || decide (a.stamp < r.stamp) then (some (.alert a.stamp), a.item.record)
    else (some (.reply r.stamp), r.item.record)

/-- The status header as a transaction begins (R161). -/
def PortState.header (q : PortState) : StatusHeader where
  credits := 4 - q.requests.length
  repliesPending := q.replies.length
  alertsPending := q.alerts.length
  overrun := q.overrun
  short := q.short
  alertsLost := q.alertsLost
  recordLength := q.chooseOffer.2.length

/-- The status header's four bytes (11.1.3). -/
def StatusHeader.bytes (h : StatusHeader) : List Byte :=
  [byte (h.credits + 16 * h.repliesPending),
    byte (h.alertsPending + 16 * bitsToNat [h.overrun, h.short, h.alertsLost])] ++ le 2 h.recordLength

/-- The return frame: the header and the record offered (R160). -/
def Transaction.returnFrame (t : Transaction) : List Byte := t.header.bytes ++ t.record

/-- The bytes the part clocks out in a transaction of `n` bytes: the return frame as far as it goes, then fill
bytes of 00h (R160). -/
def Transaction.clockOut (t : Transaction) (n : Nat) : List Byte :=
  t.returnFrame.take n ++ List.replicate (n - t.returnFrame.length) 0#8

/-- A transaction begins: header and offer are prepared, and OVERRUN and SHORT are reported (R161, R168). -/
def PortState.begin (q : PortState) : PortState :=
  { q with
    overrun := false
    short := false
    transaction := some ⟨q.header, q.chooseOffer.1, q.chooseOffer.2⟩ }

/-- TRANSACTION_START: nothing happens while RESET is low or a transaction is under way (R161; log 1, log 26). -/
def execTransactionStart (p : Port) (s : State) : Outcome :=
  if s.pins.resetLow = true ∨ (s.ports.get p).transaction.isSome = true then .next s
  else .next (s.modPort p PortState.begin)

/-! ## The end of a transaction (R162, R163, R168) -/

/-- The payload length a request frame's header declares (11.1.1). -/
def declaredLength (bytes : List Byte) : Nat := fromLe ((bytes.drop 2).take 2)

/-- Whether a transaction ended early: before the header, before the end of the frame the header declares,
or before the end of the offered record (R160, R163; log 12). -/
def endedEarly (t : Transaction) (bytes : List Byte) : Bool :=
  decide (bytes.length < 4) || decide (bytes.length < 4 + declaredLength bytes + 2)
  || (t.offer.isSome && decide (bytes.length < 4 + t.record.length))

/-- Whether a frame's CRC-16 is right; it is sent high byte first (R160, 11.1.1). -/
def frameChecks (bytes : List Byte) : Bool :=
  let n := 4 + declaredLength bytes
  decide (crc16 (bytes.take n) = bytes.getD n 0#8 ++ bytes.getD (n + 1) 0#8)

/-- The tag a frame carries, in bits 0 to 3 of byte 1 (11.1.1). -/
def frameTag (bytes : List Byte) : Tag := (bytes.getD 1 0#8).truncate 4

/-- The request a frame carries. -/
def frameRequest (bytes : List Byte) : Request :=
  ⟨bytes.getD 0 0#8, frameTag bytes, (bytes.drop 4).take (declaredLength bytes)⟩

/-- The bytes of the request frame that a master sends for a request (11.1.1). -/
def Request.frame (r : Request) : List Byte :=
  let body := r.kind :: r.tag.zeroExtend 8 :: le 2 r.payload.length ++ r.payload
  body ++ [(crc16 body).extractLsb' 8 8, (crc16 body).extractLsb' 0 8]

/-- The offered record leaves its queue, if it is still there; a delivered alert clears ALERTS_LOST (R167,
R168; log 24). -/
def PortState.deliver (q : PortState) : Option Offer → PortState
  | none => q
  | some (.reply n) => { q with replies := q.replies.filter (fun r => decide (r.stamp ≠ n)) }
  | some (.alert n) =>
    if q.alerts.any (fun a => decide (a.stamp = n)) then
      { q with alerts := q.alerts.filter (fun a => decide (a.stamp ≠ n)), alertsLost := false }
    else q

/-- The frame is examined, the first case that applies after an early end (R162). -/
def State.examine (s : State) (p : Port) (bytes : List Byte) : State :=
  let r := frameRequest bytes
  if 260 < declaredLength bytes ∨ frameChecks bytes = false then
    if s.placesInUse p < 8 then s.refuse p r .badCheck
    else s.modPort p (fun q => { q with overrun := true })
  else if r.kind = pollCode then s
  else if 4 ≤ (s.ports.get p).requests.length then s.modPort p (fun q => { q with overrun := true })
  else s.modPort p (fun q => { q with requests := q.requests ++ [r] })

/-- TRANSACTION_END: nothing happens with no transaction under way (R162, R163, R168, R173; log 1). The part has
sent as many bytes as the master (R160). Delivery comes before the frame is examined (log 12). -/
def execTransactionEnd (p : Port) (bytes : List Byte) (s : State) : Outcome :=
  match (s.ports.get p).transaction with
  | none => .next s
  | some t =>
    let u := s.modPort p (fun q => { q with transaction := none, clockedOut := t.clockOut bytes.length })
    if endedEarly t bytes then .next (u.modPort p (fun q => { q with short := true }))
    else .next ((u.modPort p (·.deliver t.offer)).examine p bytes)

/-! ## Requests of the port itself -/

/-- UNKNOWN_KIND: the head of the queue is of no kind of section 9.6 (R164). Where it is of one, or the
executor waits, nothing happens (log 1). -/
def execUnknownKind (p : Port) (s : State) : Outcome :=
  match s.head p with
  | none => .next s
  | some r =>
    if (RequestKind.ofCode r.kind).isSome then .next s
    else .next ((s.dropRequest p).refuse p r .unknownKind)

/-- IDENTIFY's values (R172, R187). Bits 4 to 7 of the population byte, which R187 does not assign, are 0 (log 29). -/
def identifyValues (s : State) : List Byte :=
  [0x43#8, 0x20#8, 0x04#8, 0x02#8, byte (bitsToNat s.cams.population.toList), byte s.cams.source.number,
    byte s.fst.status.number, byte s.stc.part.number]

/-- IDENTIFY (R172). -/
def execIdentify (p : Port) (s : State) : Outcome :=
  serve .identify p s (fun r s => .next (s.done p r (identifyValues s)))

/-- A subscription's four bytes. -/
def Subscription.bytes (u : Subscription) : List Byte :=
  [flag u.camera, flag u.layer, flag u.timing, flag u.part]

/-- SUBSCRIBE (R170). -/
def execSubscribe (p : Port) (s : State) : Outcome :=
  serve .subscribe p s (fun r s =>
    match flagOf (r.arg 0), flagOf (r.arg 1), flagOf (r.arg 2), flagOf (r.arg 3) with
    | some c, some l, some t, some k =>
      .next ((s.modPort p (fun q => { q with subscription := ⟨c, l, t, k⟩ })).done p r
        (s.ports.get p).subscription.bytes)
    | _, _, _, _ => .next (s.badField p r 0x01#8))

/-- A port's queues, flags and subscription at RESET_PORT (R171). A transaction under way goes on (R168). -/
def PortState.clear (q : PortState) : PortState :=
  { q with
    requests := []
    replies := []
    alerts := []
    overrun := false
    short := false
    alertsLost := false
    subscription := ⟨true, true, true, true⟩ }

/-- The State Controller at a port reset: a pending entry of that port is cancelled (R184). -/
def Controller.portReset (c : Controller) (p : Port) : Controller :=
  { c with entry := c.entry.filter (fun e => decide (e.port ≠ p)) }

/-- The Fitting Store at a port reset: a store of that port loses its answer and runs on (R184). -/
def Fitting.portReset (f : Fitting) (p : Port) : Fitting :=
  { f with
    store := f.store.map (fun x => if x.port = p then { x with answerOpen := false } else x) }

/-- The blocks' rules for a port reset (R171: R27, R35, R103, R120, R135, R184). -/
def State.resetBlocks (s : State) (p : Port) : State :=
  let t := s.setLtb (s.ltb.portReset p)
  let t := t.setScn (t.scn.portReset p)
  let t := if p = .detect then t.setMarkers [] else t
  let t := t.setStc (t.stc.portReset p)
  let t := t.setFst (t.fst.portReset p)
  t.resetJob p

/-- RESET_PORT (R171). -/
def execResetPort (p : Port) (s : State) : Outcome :=
  serve .resetPort p s (fun r s => .next (((s.modPort p PortState.clear).resetBlocks p).done p r []))

end Sys2Proof.Machine
end

