-- ==== Sys2Proof/Machine/Dispatch.lean ====
section
/-! DEFINITION. The dispatch: one arm for each command, one meaning for each arm. -/

namespace Sys2Proof.Machine

/-- The effect of a command on everything but the queue of waiting commands. -/
def exec (i : Instr) (s : State) : Host.Outcome State Fault Refusal :=
  match i with
  | .deviceReset campop => Sys2Proof.Machine.execDeviceReset campop s
  | .bootStart => Sys2Proof.Machine.execBootStart s
  | .bootEnd out => Sys2Proof.Machine.execBootEnd out s
  | .transactionStart p => Sys2Proof.Machine.execTransactionStart p s
  | .transactionEnd p bytes => Sys2Proof.Machine.execTransactionEnd p bytes s
  | .unknownKind p => Sys2Proof.Machine.execUnknownKind p s
  | .identify p => Sys2Proof.Machine.execIdentify p s
  | .resetPort p => Sys2Proof.Machine.execResetPort p s
  | .subscribe p => Sys2Proof.Machine.execSubscribe p s
  | .readLayer p => Sys2Proof.Machine.execReadLayer p s
  | .readSignals p => Sys2Proof.Machine.execReadSignals p s
  | .readMarkers p => Sys2Proof.Machine.execReadMarkers p s
  | .readRegions p => Sys2Proof.Machine.execReadRegions p s
  | .cameraStatus p => Sys2Proof.Machine.execCameraStatus p s
  | .claim p => Sys2Proof.Machine.execClaim p s
  | .release p => Sys2Proof.Machine.execRelease p s
  | .edit p => Sys2Proof.Machine.execEdit p s
  | .discard p => Sys2Proof.Machine.execDiscard p s
  | .commit p => Sys2Proof.Machine.execCommit p s
  | .seize p => Sys2Proof.Machine.execSeize p s
  | .force p => Sys2Proof.Machine.execForce p s
  | .alloc p => Sys2Proof.Machine.execAlloc p s
  | .free p => Sys2Proof.Machine.execFree p s
  | .openLoad p => Sys2Proof.Machine.execOpenLoad p s
  | .loadData p => Sys2Proof.Machine.execLoadData p s
  | .abortLoad p => Sys2Proof.Machine.execAbortLoad p s
  | .eccClear p => Sys2Proof.Machine.execEccClear p s
  | .setPeriod p => Sys2Proof.Machine.execSetPeriod p s
  | .setCommitLine p => Sys2Proof.Machine.execSetCommitLine p s
  | .setStrobe p => Sys2Proof.Machine.execSetStrobe p s
  | .setGenlock p => Sys2Proof.Machine.execSetGenlock p s
  | .resync p => Sys2Proof.Machine.execResync p s
  | .cameraRestart p => Sys2Proof.Machine.execCameraRestart p s
  | .setInput p => Sys2Proof.Machine.execSetInput p s
  | .speed p => Sys2Proof.Machine.execSpeed p s
  | .setSpeedBands p => Sys2Proof.Machine.execSetSpeedBands p s
  | .setVirtual p => Sys2Proof.Machine.execSetVirtual p s
  | .mark p => Sys2Proof.Machine.execMark p s
  | .unmark p => Sys2Proof.Machine.execUnmark p s
  | .clearMarks p => Sys2Proof.Machine.execClearMarks p s
  | .setNear p => Sys2Proof.Machine.execSetNear p s
  | .setPalette p => Sys2Proof.Machine.execSetPalette p s
  | .run p => Sys2Proof.Machine.execRun p s
  | .quiet p => Sys2Proof.Machine.execQuiet p s
  | .dormant p replyFirst => Sys2Proof.Machine.execDormant p replyFirst s
  | .wake p meets replyFirst => Sys2Proof.Machine.execWake p meets replyFirst s
  | .storeFitting p => Sys2Proof.Machine.execStoreFitting p s
  | .storeEnd readBackEqual => Sys2Proof.Machine.execStoreEnd readBackEqual s
  | .storeTimerExpiry => Sys2Proof.Machine.execStoreTimerExpiry s
  | .lineEnd out order => Sys2Proof.Machine.execLineEnd out order s
  | .dsync => Sys2Proof.Machine.execDsync s
  | .frameStart k seq => Sys2Proof.Machine.execFrameStart k seq s
  | .cameraLine k line => Sys2Proof.Machine.execCameraLine k line s
  | .frameEnd k => Sys2Proof.Machine.execFrameEnd k s
  | .powerOffExpiry k => Sys2Proof.Machine.execPowerOffExpiry k s
  | .inputRawChange n level => Sys2Proof.Machine.execInputRawChange n level s
  | .debounceExpiry n => Sys2Proof.Machine.execDebounceExpiry n s
  | .speedAgeExpiry => Sys2Proof.Machine.execSpeedAgeExpiry s
  | .wakeIn meets => Sys2Proof.Machine.execWakeIn meets s
  | .verificationEnd upsets => Sys2Proof.Machine.execVerificationEnd upsets s
  | .receiveTimeout => Sys2Proof.Machine.execReceiveTimeout s

end Sys2Proof.Machine
end

