-- ==== Sys2Proof/Safety.lean ====
section
/-! DEFINITION. What stays true of the block whatever commands it is given: one predicate for each block's
relation that the specification says the block keeps. -/

namespace Sys2Proof.Machine

/-- The relation of R50: the counter below the active period, both periods in 736 to 1023 and above the commit
line, every strobe line and the genlock phase; and, held, the counter at 0 (R51). -/
abbrev Timebase.Good (f : Timebase) : Prop :=
  f.line < f.period ∧ 736 ≤ f.period ∧ f.period ≤ 1023 ∧ 736 ≤ f.stagedPeriod ∧ f.stagedPeriod ≤ 1023
  ∧ 720 ≤ f.commitLine ∧ f.commitLine < f.period ∧ f.commitLine < f.stagedPeriod
  ∧ (∀ k : Fin 4, f.strobes[k] < f.period ∧ f.strobes[k] < f.stagedPeriod)
  ∧ f.phase < f.period ∧ f.phase < f.stagedPeriod
  ∧ (f.run = .held → f.line = 0)

/-- The bounds of one port's queues (R162, R167, R164, R165). -/
abbrev State.PortGood (s : State) (p : Port) : Prop :=
  (s.ports.get p).requests.length ≤ 4 ∧ (s.ports.get p).alerts.length ≤ 8 ∧ s.placesInUse p ≤ 8

/-- The bounds of every port's queues. -/
abbrev State.PortsGood (s : State) : Prop :=
  s.PortGood .body ∧ s.PortGood .detect ∧ s.PortGood .cab

/-- Overlay Memory's list is in its canonical form. -/
abbrev State.MemoryGood (s : State) : Prop := s.ovm.memory.wf = true

/-- An unowned slot holds the empty record twice, no force, and is CLEAN (R2). -/
abbrev LayerTable.UnownedGood (t : LayerTable) : Prop :=
  ∀ i : Fin 24, t.slots[i].owner = .none → t.slots[i] = LayerSlot.unowned

/-- A slot that is active, enabled and owned (R44). -/
abbrev LayerSlot.Shows (x : LayerSlot) : Prop := x.active.enabled = true ∧ x.owner ≠ .none

/-- How many active layers that are enabled and owned are SAFETY (R44). -/
def LayerTable.safetyLayers (t : LayerTable) : Nat :=
  ((List.finRange 24).filter (fun i =>
    t.slots[i].active.enabled && t.slots[i].owner.isOwned && decide (t.slots[i].active.cls = .safety))).length

/-- R44: among active layers that are enabled and owned, no two have the same z, every SAFETY layer stands
above every ORDINARY one, and at most 8 are SAFETY. -/
abbrev LayerTable.StackGood (t : LayerTable) : Prop :=
  (∀ i j : Fin 24, i ≠ j → t.slots[i].Shows → t.slots[j].Shows →
    t.slots[i].active.z ≠ t.slots[j].active.z)
  ∧ (∀ i j : Fin 24, t.slots[i].Shows → t.slots[j].Shows → t.slots[i].active.cls = .safety →
    t.slots[j].active.cls = .ordinary → t.slots[j].active.z < t.slots[i].active.z)
  ∧ t.safetyLayers ≤ 8

/-- The pending sets (R29): members ascending, owned by the set's port and PENDING; every PENDING slot is a
member of its owner's set. -/
abbrev LayerTable.SetsGood (t : LayerTable) : Prop :=
  (∀ p : Port, ∀ x : PendingSet, t.sets.get p = some x →
    x.members.Pairwise (· < ·) ∧ ∀ i ∈ x.members, t.slots[i].owner = .port p ∧ t.slots[i].status = .pending)
  ∧ (∀ i : Fin 24, t.slots[i].status = .pending →
    ∃ p : Port, ∃ x : PendingSet, t.slots[i].owner = .port p ∧ t.sets.get p = some x ∧ i ∈ x.members)

/-- The Layer Table: R2, R44, R29, and an empty table through BOOT (R25). -/
abbrev State.TableGood (s : State) : Prop :=
  s.ltb.UnownedGood ∧ s.ltb.StackGood ∧ s.ltb.SetsGood
  ∧ (s.stc.part = .boot → ∀ i : Fin 24, s.ltb.slots[i].owner = .none)

/-- SAFETY content stays with BODY and FITTED (R14). -/
abbrev LayerTable.SafetyOwned (t : LayerTable) : Prop :=
  ∀ i : Fin 24, t.slots[i].holdsSafety = true →
    t.slots[i].owner = .port .body ∨ t.slots[i].owner = .fitted

/-- The Marker Map (R104): at most 16 markers, ascending and so distinct track ids, every age below its ttl;
and NEAR as the map gives it (R99, R116). -/
abbrev State.MarkersGood (s : State) : Prop :=
  s.mkm.markers.length ≤ 16
  ∧ (s.mkm.markers.map Marker.track).Pairwise (· < ·)
  ∧ (∀ m ∈ s.mkm.markers, m.track ≤ 255 ∧ m.age < m.ttl)
  ∧ s.scn.near = s.mkm.markers.any Marker.near

/-- A job holds the place of the Load Engine while it is RECEIVING or VERIFYING (R127). -/
abbrev Overlay.holdsPlace (o : Overlay) (p : Port) : Prop :=
  ∃ j : Job, o.jobs.get p = some j ∧ j.isSuspended = false

/-- Every region lies inside the 64 blocks (R122). -/
abbrev Overlay.RegionsGood (o : Overlay) : Prop :=
  ∀ g : Fin 16, ∀ r : Region, o.regions[g] = some r → 1 ≤ r.count ∧ r.first + r.count ≤ 64

/-- The blocks of two regions that are not FREE never overlap (R122). -/
abbrev Overlay.RegionsApart (o : Overlay) : Prop :=
  ∀ g h : Fin 16, ∀ r t : Region, g ≠ h → o.regions[g] = some r → o.regions[h] = some t →
    r.first + r.count ≤ t.first ∨ t.first + t.count ≤ r.first

/-- The load jobs (R127): a job names a LOADING region its port owns, within its size; a LOADING region is
named by its owner's job; at most one job is RECEIVING or VERIFYING. -/
abbrev Overlay.JobsGood (o : Overlay) : Prop :=
  (∀ p : Port, ∀ j : Job, o.jobs.get p = some j →
    ∃ r : Region, o.regions[j.region] = some r ∧ r.owner = p ∧ r.content = .loading
      ∧ j.length ≤ r.count * blockBytes ∧ j.cursor ≤ j.length)
  ∧ (∀ g : Fin 16, ∀ r : Region, o.regions[g] = some r → r.content = .loading →
    ∃ j : Job, o.jobs.get r.owner = some j ∧ j.region = g)
  ∧ (∀ p q : Port, o.holdsPlace p → o.holdsPlace q → p = q)

/-- Overlay Memory and the Load Engine together. -/
abbrev State.EngineGood (s : State) : Prop :=
  s.ovm.RegionsGood ∧ s.ovm.RegionsApart ∧ s.ovm.JobsGood ∧ s.ovm.corrected ≤ 255

/-- How many of a link's slots are in a state, by its number (R69). -/
def CameraLink.slotsIn (x : CameraLink) (state : Nat) : Nat :=
  ((List.finRange 3).filter (fun i => decide (x.slots[i].number = state))).length

/-- A camera link (R69): at most one slot WRITING, one READY and one HELD, and the counts in their ranges. -/
abbrev CameraLink.Good (x : CameraLink) : Prop :=
  x.slotsIn 1 ≤ 1 ∧ x.slotsIn 2 ≤ 1 ∧ x.slotsIn 3 ≤ 1
  ∧ x.miss ≤ 3 ∧ x.fresh ≤ 2 ∧ x.starting ≤ 30 ∧ x.discards ≤ 255

/-- Every camera link. -/
abbrev State.CamerasGood (s : State) : Prop := ∀ k : Fin 4, s.cams.links[k].Good

/-- The timebase runs in RUN and QUIET and is held in BOOT and DORMANT (R49, R174), and only then do the links
send (R158, R159). -/
abbrev State.OutputGood (s : State) : Prop :=
  (s.ftb.run = .running ↔ s.stc.part = .run ∨ s.stc.part = .quiet)
  ∧ (s.stc.part = .boot ∨ s.stc.part = .dormant →
    s.cmp.output = .off ∧ s.cmp.recorder = .off ∧ s.cmp.plan = none)

/-- Everything a device reset leaves true and every step keeps. -/
abbrev State.Good (s : State) : Prop :=
  s.ftb.Good ∧ s.PortsGood ∧ s.MemoryGood ∧ s.TableGood ∧ s.ltb.SafetyOwned
  ∧ s.MarkersGood ∧ s.EngineGood ∧ s.CamerasGood ∧ s.OutputGood

/-! ## What statements are made of -/

/-- The request kind and port of an executor's command; none for every other command. -/
def requestOf : Instr → Option (RequestKind × Port)
  | .identify p => some (.identify, p)
  | .resetPort p => some (.resetPort, p)
  | .subscribe p => some (.subscribe, p)
  | .readLayer p => some (.readLayer, p)
  | .readSignals p => some (.readSignals, p)
  | .readMarkers p => some (.readMarkers, p)
  | .readRegions p => some (.readRegions, p)
  | .cameraStatus p => some (.cameraStatus, p)
  | .claim p => some (.claim, p)
  | .release p => some (.release, p)
  | .edit p => some (.edit, p)
  | .discard p => some (.discard, p)
  | .commit p => some (.commit, p)
  | .seize p => some (.seize, p)
  | .force p => some (.force, p)
  | .alloc p => some (.alloc, p)
  | .free p => some (.free, p)
  | .openLoad p => some (.openLoad, p)
  | .loadData p => some (.loadData, p)
  | .abortLoad p => some (.abortLoad, p)
  | .eccClear p => some (.eccClear, p)
  | .setPeriod p => some (.setPeriod, p)
  | .setCommitLine p => some (.setCommitLine, p)
  | .setStrobe p => some (.setStrobe, p)
  | .setGenlock p => some (.setGenlock, p)
  | .resync p => some (.resync, p)
  | .cameraRestart p => some (.cameraRestart, p)
  | .setInput p => some (.setInput, p)
  | .speed p => some (.speed, p)
  | .setSpeedBands p => some (.setSpeedBands, p)
  | .setVirtual p => some (.setVirtual, p)
  | .mark p => some (.mark, p)
  | .unmark p => some (.unmark, p)
  | .clearMarks p => some (.clearMarks, p)
  | .setNear p => some (.setNear, p)
  | .setPalette p => some (.setPalette, p)
  | .run p => some (.run, p)
  | .quiet p => some (.quiet, p)
  | .dormant p _ => some (.dormant, p)
  | .wake p _ _ => some (.wake, p)
  | .storeFitting p => some (.storeFitting, p)
  | _ => none

/-- A port's executor takes a request (R164): it is the head of the queue, BOOT has begun and a reply place is
free. -/
abbrev State.Takes (s : State) (p : Port) (r : Request) : Prop :=
  (s.ports.get p).requests.head? = some r ∧ s.pins.resetLow = false ∧ s.placesInUse p < 8

/-- It is of a kind and passes the executor's checks, and so reaches its block (R164). -/
abbrev State.Reaches (s : State) (p : Port) (kind : RequestKind) (r : Request) : Prop :=
  s.Takes p r ∧ r.kind = kind.code ∧ kind.permitted p = true ∧ kind.admitted s.stc.part = true
  ∧ kind.payloadFits r.payload = true

/-- The port's request has left its queue, and nothing else has changed. -/
def State.taken (s : State) (p : Port) : State :=
  s.setPorts (s.ports.set p { s.ports.get p with requests := (s.ports.get p).requests.tail })

/-- The port's request has left its queue and this reply has joined the tail of its reply queue (R164). -/
def State.replied (s : State) (p : Port) (r : Request) (result : ResultCode) (field : Byte)
    (values : List Byte) : State :=
  let q := s.ports.get p
  s.setPorts (s.ports.set p
    { q with
      requests := q.requests.tail
      replies := q.replies ++ [⟨q.nextStamp, ⟨r.tag, r.kind, result, field, values⟩⟩]
      nextStamp := q.nextStamp + 1 })

/-- Every field of a record in its range (R12). -/
abbrev LayerRecord.InRange (r : LayerRecord) : Prop :=
  r.z ≤ 23 ∧ r.destX ≤ 1272 ∧ r.destY ≤ 712 ∧ 8 ≤ r.destW ∧ r.destW ≤ 1280 ∧ 8 ≤ r.destH ∧ r.destH ≤ 720
  ∧ r.alpha ≤ 15 ∧ r.condition.length ≤ 4
  ∧ match r.part with
    | .camera c => c.cropX ≤ 1264 ∧ c.cropY ≤ 944 ∧ 16 ≤ c.cropW ∧ c.cropW ≤ 1280 ∧ 16 ≤ c.cropH ∧ c.cropH ≤ 960
    | .bitmap b => 1 ≤ b.width ∧ b.width ≤ 1280 ∧ 1 ≤ b.height ∧ b.height ≤ 720
    | .guide g => 1 ≤ g.width ∧ g.width ≤ 4 ∧ g.segments.length ≤ 6
        ∧ ∀ x ∈ g.segments, x.x0 ≤ 1279 ∧ x.y0 ≤ 719 ∧ x.x1 ≤ 1279 ∧ x.y1 ≤ 719
    | .fill _ => True

/-- Both copies of every slot in range (R12, R11, R188). -/
abbrev LayerTable.RangesGood (t : LayerTable) : Prop :=
  ∀ i : Fin 24, t.slots[i].staged.InRange ∧ t.slots[i].active.InRange

/-- What every block holds after a device reset, wherever the specification gives a value (R25, R49, R67, R69,
R85, R88, R93, R95, R103, R120, R140, R154, R159, R173, R174, R181). -/
def State.AtDeviceReset (t : State) (campop : BitVec 2) : Prop :=
  t.stc = ⟨.boot, none, false⟩
  ∧ (∀ i : Fin 24, t.ltb.slots[i] = ⟨.none, .clean, LayerRecord.empty, LayerRecord.empty, .none⟩)
  ∧ (∀ p : Port, t.ltb.sets.get p = none)
  ∧ (t.ftb.line = 0 ∧ t.ftb.period = 750 ∧ t.ftb.stagedPeriod = 750 ∧ t.ftb.frame = 0#16
    ∧ t.ftb.commitLine = 725 ∧ t.ftb.strobes = #v[736, 738, 740, 742] ∧ t.ftb.genlockOn = false
    ∧ t.ftb.phase = 0 ∧ t.ftb.genlock = .free ∧ t.ftb.missed = 0 ∧ t.ftb.good = 0 ∧ t.ftb.lastSlip = 0
    ∧ t.ftb.run = .held)
  ∧ (∀ p : Port, (t.ports.get p).requests = [] ∧ (t.ports.get p).replies = [] ∧ (t.ports.get p).alerts = []
    ∧ (t.ports.get p).overrun = false ∧ (t.ports.get p).short = false ∧ (t.ports.get p).alertsLost = false
    ∧ (t.ports.get p).subscription = ⟨true, true, true, true⟩ ∧ (t.ports.get p).transaction = none)
  ∧ t.cams.population = strapPopulation campop ∧ t.cams.source = .straps
  ∧ (∀ k : Fin 4, t.cams.links[k] =
    ⟨if (strapPopulation campop)[k] then .idle else .absent, #v[.free, .free, .free], 0, 0, 0, 0, none, false⟩)
  ∧ (∀ n : Fin 8, t.scn.inputs[n].settled = false ∧ t.scn.inputs[n].polarity = .activeHigh
    ∧ t.scn.inputs[n].debounce = 50 ∧ t.scn.inputs[n].mask = false ∧ t.scn.inputs[n].timer = some 50)
  ∧ (∀ v : Fin 6, t.scn.virtuals[v] = false)
  ∧ (t.scn.speed = 0 ∧ t.scn.stopThreshold = 2 ∧ t.scn.slowThreshold = 150 ∧ t.scn.stale = true
    ∧ t.scn.age = none ∧ t.scn.near = false ∧ t.scn.wakePending = [] ∧ t.scn.wakeRecord = [])
  ∧ t.mkm = ⟨[], 150⟩
  ∧ (∀ g : Fin 16, t.ovm.regions[g] = none) ∧ t.ovm.corrected = 0 ∧ (∀ p : Port, t.ovm.jobs.get p = none)
  ∧ t.cmp.plan = none ∧ t.cmp.palette = defaultPalette ∧ t.cmp.overflow = false ∧ t.cmp.output = .off
  ∧ t.cmp.recorder = .off ∧ t.cmp.stopped = []
  ∧ t.fst.status = .none ∧ t.fst.store = none

end Sys2Proof.Machine
end

