-- ==== Sys2Proof/Certificates/Slice0/Obligations.lean ====
section
/-! DEFINITION. The statements for the provers, from the rules of `spec/`. -/

section

open Sys2Proof Sys2Proof.Machine

/-- With a command c at the front of the queue, step is exec of c on the state whose queue is the rest. With
an empty queue, step is one millisecond of the part's own clock (the model's choice, log 2): nothing while
RESET is low (log 26); else every running debounce timer, the speed-age timer, every power-off timer, the time
of a RECEIVING or VERIFYING job (in a state that keeps the load engine's relation) and the store timer lose a
millisecond, and one at its end expires: the input takes its raw level and is settled, the speed is stale, the
camera's timer stops and an active camera, or an IDLE one in QUIET, is powered, the job is gone, the store is
over with a bad check. A stopped timer's input, speed and camera stay; the Layer Table, the timebase, the map,
the Composer, the part state, the links and the pins stay, and with no timer of the speed, a job or a store at
its end so do the ports. (00_scope section 5, 95_what_each_step_holds, R80, R90, R97, R132, R134, R183.) -/
def Obligations.StepRunsFrontCommand : Prop :=
  (∀ (c : Instr) (rest : List Instr) (s : State), s.pending = c :: rest → step s = exec c (s.setPending rest))
  ∧ ∀ s : State, s.pending = [] → ∃ t, step s = .next t
    ∧ (s.pins.resetLow = true → t = s)
    ∧ (s.pins.resetLow = false →
      (∀ (n : Fin 8) (x : Input), x = s.scn.inputs[n] →
        (x.timer = none → t.scn.inputs[n] = x)
        ∧ (∀ a, x.timer = some a → 1 < a → t.scn.inputs[n] = { x with timer := some (a - 1) })
        ∧ (∀ a, x.timer = some a → a ≤ 1 →
            t.scn.inputs[n] = { x with conditioned := x.raw, settled := true, timer := none }))
      ∧ (s.scn.age = none → t.scn.age = none ∧ t.scn.stale = s.scn.stale)
      ∧ (∀ a, s.scn.age = some a → 1 < a → t.scn.age = some (a - 1) ∧ t.scn.stale = s.scn.stale)
      ∧ (∀ a, s.scn.age = some a → a ≤ 1 → t.scn.age = none ∧ t.scn.stale = true)
      ∧ (∀ (k : Fin 4) (x : CameraLink), x = s.cams.links[k] →
        (x.powerOff = none → t.cams.links[k] = x)
        ∧ (∀ a, x.powerOff = some a → 1 < a → t.cams.links[k] = { x with powerOff := some (a - 1) })
        ∧ (∀ a, x.powerOff = some a → a ≤ 1 → t.cams.links[k] = { x with
            powerOff := none
            power := x.power || decide (x.link ∈ [LinkState.starting, .locked, .lost])
              || decide (x.link = .idle ∧ s.stc.part = .quiet) }))
      ∧ (s.EngineGood → ∀ (p : Port) (j : Job), s.ovm.jobs.get p = some j →
        (∀ a, j.state = .receiving a →
          t.ovm.jobs.get p = if 1 < a then some { j with state := .receiving (a - 1) } else none)
        ∧ (∀ a tag, j.state = .verifying a tag →
          t.ovm.jobs.get p = if 1 < a then some { j with state := .verifying (a - 1) tag } else none))
      ∧ (s.fst.store = none → t.fst = s.fst)
      ∧ (∀ x, s.fst.store = some x →
        t.fst = if 1 < x.timer then { s.fst with store := some { x with timer := x.timer - 1 } }
          else ⟨.spoiled, s.fst.status, none⟩)
      ∧ ((∀ a, s.scn.age = some a → 1 < a)
          → (∀ p j a, s.ovm.jobs.get p = some j → (j.state = .receiving a ∨ ∃ tag, j.state = .verifying a tag) → 1 < a)
          → (∀ x, s.fst.store = some x → 1 < x.timer) → t.ports = s.ports)
      ∧ t.ltb = s.ltb ∧ t.ftb = s.ftb ∧ t.mkm = s.mkm ∧ t.cmp = s.cmp ∧ t.stc = s.stc ∧ t.links = s.links
      ∧ t.pins = s.pins ∧ t.pending = s.pending)

/-- For every command and state, exec answers no refusal, answers a fault only for LOAD_DATA (the fault, for
an address that Overlay Memory does not have, is the model's choice, log 27), and a next state keeps the queue
of waiting commands as it was given. In every state in which the regions lie inside the 64 blocks and every
job lies within its LOADING region (an invariant stated separately), exec of every command, and step, answer a
next state; that one is answered too for a command whose event cannot happen there is the model's choice (log
1). (R121, R122, R127, R131, 95_what_each_step_holds.) -/
def Obligations.NoCommandStops : Prop :=
  (∀ (c : Instr) (s : State),
    (∀ r, exec c s ≠ .refused r) ∧ (∀ f, exec c s = .fault f → ∃ p, c = .loadData p)
    ∧ (∀ t, exec c s = .next t → t.pending = s.pending))
  ∧ ∀ s : State, s.ovm.RegionsGood → s.ovm.JobsGood → (∀ c, ∃ t, exec c s = .next t) ∧ ∃ t, step s = .next t

/-- For every command and state where exec answers a next state: the Layer Table, the timebase, the camera
links, the Signal Conditioner, the Marker Map, the Overlay Memory block, the Composer, the State Controller,
the Fitting Store, the links and the kept pins are each as before unless the command is one of those named for
the block (for the Layer Table, with the commit line not in the picture, as R50 keeps it); and with memory in
its canonical form every byte of Overlay Memory reads as before unless the command is LOAD_DATA or
DEVICE_RESET (the write-back of a corrected word writes what was read). (R1, R49, R69, R88, R104, R121, R141,
R174, R181.) -/
def Obligations.BlocksChangeOnlyByTheirCommands : Prop :=
  ∀ (c : Instr) (s t : State), exec c s = .next t →
    (720 ≤ s.ftb.commitLine → t.ltb ≠ s.ltb → (∃ x, c = .deviceReset x) ∨ (∃ x, c = .bootEnd x) ∨ (∃ x y, c = .lineEnd x y)
      ∨ ∃ k p, requestOf c = some (k, p) ∧ k ∈ [RequestKind.resetPort, .claim, .release, .edit, .discard, .commit,
          .seize, .force])
    ∧ (t.ftb ≠ s.ftb → (∃ x, c = .deviceReset x) ∨ (∃ x, c = .bootEnd x) ∨ (∃ x y, c = .lineEnd x y)
      ∨ c = .dsync ∨ (∃ x, c = .wakeIn x)
      ∨ ∃ k p, requestOf c = some (k, p) ∧ k ∈ [RequestKind.setPeriod, .setCommitLine, .setStrobe, .setGenlock,
          .resync, .dormant, .wake])
    ∧ (t.cams ≠ s.cams → (∃ x, c = .deviceReset x) ∨ (∃ x, c = .bootEnd x) ∨ (∃ x y, c = .lineEnd x y)
      ∨ (∃ x, c = .wakeIn x) ∨ (∃ k x, c = .frameStart k x) ∨ (∃ k x, c = .cameraLine k x)
      ∨ (∃ k, c = .frameEnd k) ∨ (∃ k, c = .powerOffExpiry k)
      ∨ ∃ k p, requestOf c = some (k, p) ∧ k ∈ [RequestKind.cameraRestart, .dormant, .wake])
    ∧ (t.scn ≠ s.scn → (∃ x, c = .deviceReset x) ∨ (∃ x, c = .bootEnd x) ∨ (∃ x y, c = .lineEnd x y)
      ∨ (∃ x, c = .wakeIn x) ∨ (∃ n x, c = .inputRawChange n x) ∨ (∃ n, c = .debounceExpiry n)
      ∨ c = .speedAgeExpiry
      ∨ ∃ k p, requestOf c = some (k, p) ∧ k ∈ [RequestKind.resetPort, .setInput, .speed, .setSpeedBands,
          .setVirtual, .mark, .unmark, .clearMarks, .setNear, .dormant, .wake])
    ∧ (t.mkm ≠ s.mkm → (∃ x, c = .deviceReset x) ∨ (∃ x, c = .bootEnd x) ∨ (∃ x y, c = .lineEnd x y)
      ∨ ∃ k p, requestOf c = some (k, p) ∧ k ∈ [RequestKind.resetPort, .mark, .unmark, .clearMarks, .setNear,
          .dormant])
    ∧ (t.ovm ≠ s.ovm → (∃ x, c = .deviceReset x) ∨ (∃ x, c = .bootEnd x) ∨ (∃ x y, c = .lineEnd x y)
      ∨ (∃ x, c = .wakeIn x) ∨ (∃ x, c = .verificationEnd x) ∨ c = .receiveTimeout
      ∨ ∃ k p, requestOf c = some (k, p) ∧ k ∈ [RequestKind.resetPort, .alloc, .free, .openLoad, .loadData,
          .abortLoad, .eccClear, .wake])
    ∧ (t.cmp ≠ s.cmp → (∃ x, c = .deviceReset x) ∨ (∃ x, c = .bootEnd x) ∨ (∃ x y, c = .lineEnd x y)
      ∨ (∃ x, c = .wakeIn x)
      ∨ ∃ k p, requestOf c = some (k, p) ∧ k ∈ [RequestKind.setPalette, .dormant, .wake])
    ∧ (t.stc ≠ s.stc → (∃ x, c = .deviceReset x) ∨ (∃ x, c = .bootEnd x) ∨ (∃ x y, c = .lineEnd x y)
      ∨ (∃ x, c = .wakeIn x)
      ∨ ∃ k p, requestOf c = some (k, p) ∧ k ∈ [RequestKind.resetPort, .run, .quiet, .dormant, .wake])
    ∧ (t.fst ≠ s.fst → (∃ x, c = .deviceReset x) ∨ (∃ x, c = .bootEnd x) ∨ (∃ x, c = .storeEnd x)
      ∨ c = .storeTimerExpiry
      ∨ ∃ k p, requestOf c = some (k, p) ∧ k ∈ [RequestKind.resetPort, .storeFitting])
    ∧ (t.links ≠ s.links → (∃ x, c = .deviceReset x) ∨ (∃ x, c = .bootEnd x) ∨ (∃ x y, c = .lineEnd x y)
      ∨ (∃ x, c = .wakeIn x) ∨ ∃ k p, requestOf c = some (k, p) ∧ k ∈ [RequestKind.dormant, .wake])
    ∧ (t.pins ≠ s.pins → (∃ x, c = .deviceReset x) ∨ c = .bootStart ∨ (∃ x, c = .bootEnd x)
      ∨ (∃ x y, c = .lineEnd x y) ∨ (∃ x, c = .wakeIn x) ∨ ∃ p, requestOf c = some (.wake, p))
    ∧ (s.MemoryGood → (∀ p, c ≠ .loadData p) → (∀ x, c ≠ .deviceReset x) →
        ∀ a, t.ovm.byteAt a = s.ovm.byteAt a)

/-- State.reset satisfies the timebase, queue, memory, layer table, SAFETY ownership, marker, load engine,
camera and output invariants. (R2, R25, R44, R49, R50, R104, R127, R173, R174.) -/
def Obligations.ResetIsGood : Prop :=
  State.reset.Good

/-- If the counter is below the active period, both periods lie in 736 to 1023 and exceed the commit line,
every strobe line and the genlock phase, and a held counter stands at 0, then the same holds after every step.
(R50, R51, R52, R55, R56, R57, R58, R65, R66.) -/
def Obligations.EveryStepKeepsTimebase : Prop :=
  ∀ s t : State, s.ftb.Good → step s = .next t → t.ftb.Good

/-- If on each port at most 4 requests and 8 alerts are queued and at most 8 reply places are in use (queued
replies and open requests), then the same holds after every step. (R162, R164, R165, R167, R171.) -/
def Obligations.EveryStepKeepsQueueBounds : Prop :=
  ∀ s t : State, s.PortsGood → step s = .next t → t.PortsGood

/-- If the list of written bytes has strictly rising addresses inside Overlay Memory, then it has after every
step. (R121, R131, R137.) -/
def Obligations.EveryStepKeepsMemoryCanonical : Prop :=
  ∀ s t : State, s.MemoryGood → step s = .next t → t.MemoryGood

/-- If no two active, enabled, owned layers share a z, every SAFETY one stands above every ORDINARY one, at
most 8 are SAFETY, every unowned slot holds the empty record twice, the pending sets and the PENDING slots
agree, and the table is unowned in BOOT, then all this holds after every step. (R2, R25, R29, R38, R39, R40,
R44, R47.) -/
def Obligations.EveryStepKeepsLayerStack : Prop :=
  ∀ s t : State, s.TableGood → step s = .next t → t.TableGood

/-- If every slot whose active or staged copy is SAFETY is owned by BODY or FITTED, then the same holds after
every step. (R14, R16, R17, R21, R26.) -/
def Obligations.EveryStepKeepsSafetyWithBody : Prop :=
  ∀ s t : State, s.ltb.SafetyOwned → step s = .next t → t.ltb.SafetyOwned

/-- If the map holds at most 16 markers with ascending and so distinct track ids up to 255, every age is below
its ttl, and NEAR is whether any marker is near, then the same holds after every step. (R99, R104, R106, R109,
R113, R116.) -/
def Obligations.EveryStepKeepsMarkerMap : Prop :=
  ∀ s t : State, s.MarkersGood → step s = .next t → t.MarkersGood

/-- If the regions lie inside the 64 blocks and do not overlap, each job names a LOADING region of its port
and lies within it, each LOADING region is named by its owner's job, at most one job is RECEIVING or
VERIFYING, and the corrected-error count is at most 255, then the same holds after every step. (R122, R124,
R127, R129, R130, R135, R137.) -/
def Obligations.EveryStepKeepsLoadEngine : Prop :=
  ∀ s t : State, s.EngineGood → step s = .next t → t.EngineGood

/-- If each camera has at most one slot WRITING, one READY and one HELD and its counts lie in their ranges,
then the same holds after every step. (R69, R71, R72, R74, R75.) -/
def Obligations.EveryStepKeepsFrameSlots : Prop :=
  ∀ s t : State, s.CamerasGood → step s = .next t → t.CamerasGood

/-- If the timebase runs exactly in RUN and QUIET, and in BOOT and DORMANT both output modes are OFF and there
is no plan, then the same holds after every step. (R49, R142, R158, R159, R174.) -/
def Obligations.EveryStepKeepsOutputStates : Prop :=
  ∀ s t : State, s.OutputGood → step s = .next t → t.OutputGood

/-- For every kind byte, tag and payload of at most 260 bytes, the frame of the request (header, payload,
CRC-16 high byte first) declares the payload's length, passes the CRC check and is read as that request.
(R160, R185, 11_record_formats 11.1.1.) -/
def Obligations.RequestFrameReadsBack : Prop :=
  ∀ r : Request, r.payload.length ≤ 260 →
    r.frame.length = 6 + r.payload.length ∧ declaredLength r.frame = r.payload.length
    ∧ frameChecks r.frame = true ∧ frameRequest r.frame = r

/-- For every layer record whose fields lie in the ranges of R12, reading its bytes (11.1.4), whatever follows
them, gives the record and what follows. (R12, R185, 11_record_formats 11.1.4.) -/
def Obligations.LayerRecordReadsBack : Prop :=
  ∀ (r : LayerRecord) (rest : List Byte), r.InRange → readRecord (r.bytes ++ rest) = some (r, rest)

/-- In every state whose layer records are in range, whose timebase relation holds, whose inputs have debounce
times at most 250 and whose thresholds are in range, the snapshot, whatever order its layers stand in (the
model's is log 31), reads back with a good check: it carries the population, the settings of the inputs,
thresholds, timebase settings and palette in force, and for each slot whose owner is FITTED or BODY and whose
active record is not of kind BITMAP, enabled or not, its active record, and no other layer. (R181, R183, R188,
11_record_formats 11.1.6.) -/
def Obligations.StoredFittingReadsBack : Prop :=
  ∀ s : State, s.ltb.RangesGood → s.ftb.Good → (∀ n : Fin 8, s.scn.inputs[n].debounce ≤ 250) →
    s.scn.stopThreshold < 1500 → s.scn.slowThreshold ≤ 1500 → s.mkm.threshold ≤ 2000 →
    ∃ f, readFitting s.fittingSnapshot = some f
      ∧ f.population = some s.cams.population
      ∧ (∀ n : Fin 8, f.inputs[n] = ⟨byte s.scn.inputs[n].polarity.number, s.scn.inputs[n].debounce,
          flag s.scn.inputs[n].mask⟩)
      ∧ f.stop = s.scn.stopThreshold ∧ f.slow = s.scn.slowThreshold ∧ f.near = s.mkm.threshold
      ∧ f.period = s.ftb.stagedPeriod ∧ f.commitLine = s.ftb.commitLine ∧ f.strobes = s.ftb.strobes
      ∧ f.phase = s.ftb.phase ∧ f.genlock = flag s.ftb.genlockOn ∧ f.palette = s.cmp.palette
      ∧ (∀ i : Fin 24, f.layerAt i =
          if (s.ltb.slots[i].owner = .fitted ∨ s.ltb.slots[i].owner = .port .body)
            ∧ s.ltb.slots[i].active.part.kind ≠ .bitmap then some s.ltb.slots[i].active else none)

/-- From every state DEVICE_RESET answers a next state with every block at the values the specification gives
for device reset, RESET low, the raw input levels as on the pins, and the fitting record kept, or with a bad
check if a store was in flight. State.reset has the same values with CAMPOP 00 (the straps' level is the
model's choice, log 3). From every state BOOT_START answers the state with RESET no longer low and everything
else as it was. (R25, R49, R67, R85, R93, R103, R140, R159, R173, R174, R175, R184.) -/
def Obligations.DeviceResetLeavesResetValues : Prop :=
  (∀ (campop : BitVec 2) (s : State), ∃ t, exec (.deviceReset campop) s = .next t
    ∧ t.AtDeviceReset campop ∧ t.pins.resetLow = true
    ∧ (∀ n : Fin 8, t.scn.inputs[n].raw = s.scn.inputs[n].raw)
    ∧ (s.fst.store = none → t.fst.record = s.fst.record)
    ∧ (s.fst.store ≠ none → t.fst.record = .spoiled))
  ∧ State.reset.AtDeviceReset 0#2
  ∧ ∀ s : State, exec .bootStart s = .next { s with pins := { s.pins with resetLow := false } }

/-- In BOOT with RESET high, BOOT_END answers a next state in RUN, the timebase running at line 0 with the
frame number advanced by 1 and the active period at the staged one, RSYNC pulsed, a plan of that frame,
picture on the display link, every input settled with its timer stopped unless it was settled before, no
camera IDLE, and, after every alert of that TOP such as PLAN_OVERFLOW (an order among a TOP's alerts that is
the model's choice, log 11), STATE_CHANGED raised to all ports with subject 1 (RUN), detail 01h (BOOT_END) and
the new frame number. A camera whose link stands by the population before, IDLE if present and ABSENT if not,
is set by the population then in force: absent, it is ABSENT and otherwise as it was; present, it became
STARTING with its counts 0 and CAMPWR on unless its power-off timer runs, and the first plan request was taken
of it. With no READY frame that request leaves its slots as they were, the miss count 1, the fresh count 0 and
the starting count 1, or 0 while its power-off timer runs. (R65, R68, R74, R82, R93, R142, R158, R175, R180.)
-/
def Obligations.BootEndEntersRunWithTop : Prop :=
  ∀ (out : Surroundings) (s : State), s.stc.part = .boot → s.pins.resetLow = false →
    ∃ t : State, exec (.bootEnd out) s = .next (t.raiseAll .stateChanged 1 1)
      ∧ t.stc.part = .run ∧ t.ftb.run = .running ∧ t.ftb.line = 0
      ∧ t.ftb.frame = s.ftb.frame + 1#16 ∧ t.ftb.period = t.ftb.stagedPeriod
      ∧ t.links.rsync = true ∧ t.cmp.output = .picture
      ∧ (∃ plan, t.cmp.plan = some plan ∧ plan.frame = t.ftb.frame)
      ∧ (∀ n : Fin 8, t.scn.inputs[n].settled = true)
      ∧ (∀ n : Fin 8, s.scn.inputs[n].settled = false → t.scn.inputs[n].conditioned = s.scn.inputs[n].raw
          ∧ t.scn.inputs[n].timer = none)
      ∧ (∀ k : Fin 4, t.cams.links[k].link ≠ .idle)
      ∧ (∀ (k : Fin 4) (x : CameraLink), x = s.cams.links[k] →
          x.link = (if s.cams.population[k] then .idle else .absent) →
          (t.cams.population[k] = false → t.cams.links[k] = { x with link := .absent })
          ∧ (t.cams.population[k] = true →
            t.cams.links[k] = (CameraLink.planRequest { x with
              link := .starting, miss := 0, fresh := 0, starting := 0, power := decide (x.powerOff = none) }).1
            ∧ ((∀ (i : Fin 3) f, x.slots[i] ≠ .ready f) → t.cams.links[k] = { x with
              link := .starting, miss := 1, fresh := 0, starting := if x.powerOff = none then 1 else 0,
              power := decide (x.powerOff = none) })))

/-- In BOOT with RESET high and a stored record whose check is good and whose settings and layers pass,
BOOT_END answers a next state with status LOADED, the record's population, thresholds, timebase settings (P'
and P, Lc, S0 to S3, PH and GL, with the genlock state HUNTING or FREE and both sync counts 0) and palette,
each input with the record's polarity, debounce and mask, each named slot owned by FITTED with both copies the
record, CLEAN, force NONE, and each other slot as it was. The record names a layer for a slot exactly if that
slot and layer stand among its layers. With a population in the record, a camera it marks absent is ABSENT and
otherwise as it was, and one it marks present became STARTING with its counts 0 and CAMPWR on unless its
power-off timer runs, and then took the first plan request: with no READY frame its slots are as they were,
miss count 1, fresh count 0 and starting count 1, or 0 while that timer runs. The settings pass exactly if a
population carried marks CL1 present, each input has polarity and mask 0 or 1 and a debounce of at most 250
and a multiple of 10, the stop threshold is at most 1499, the slow one 1 to 1500 and above it, the near
threshold at most 2000, P 736 to 1023, Lc 720 or more, GL 0 or 1, and Lc, each strobe line and PH below P. The
layers pass exactly if the commit checks (CommitChecksHold) find no failure of the named slots, in ascending
order, over the empty table with each layer in its slot under FITTED. What makes the stored check good is in
BootEndRefusesBadFitting. (R26, R47, R50, R65, R68, R82, R92, R93, R98, R154, R182.) -/
def Obligations.BootEndInstallsGoodFitting : Prop :=
  (∀ (out : Surroundings) (s : State) (bytes : List Byte) (f : FittedRecord),
    s.stc.part = .boot → s.pins.resetLow = false → s.fst.record = .present bytes →
    readFitting bytes = some f → f.settingsGood = true → f.layersGood (f.population.getD s.cams.population) = true →
    ∃ t, exec (.bootEnd out) s = .next t
      ∧ t.fst.status = .loaded ∧ t.cams.population = f.population.getD s.cams.population
      ∧ (f.population ≠ none → t.cams.source = .fitting)
      ∧ t.scn.stopThreshold = f.stop ∧ t.scn.slowThreshold = f.slow ∧ t.mkm.threshold = f.near
      ∧ t.ftb.period = f.period ∧ t.ftb.stagedPeriod = f.period ∧ t.ftb.commitLine = f.commitLine
      ∧ t.ftb.strobes = f.strobes ∧ t.ftb.phase = f.phase ∧ t.cmp.palette = f.palette
      ∧ t.ftb.genlockOn = decide (f.genlock = 1#8)
      ∧ t.ftb.genlock = (if f.genlock = 1#8 then .hunting else .free) ∧ t.ftb.missed = 0 ∧ t.ftb.good = 0
      ∧ (∀ n : Fin 8, byte t.scn.inputs[n].polarity.number = f.inputs[n].polarity
          ∧ t.scn.inputs[n].debounce = f.inputs[n].debounce ∧ flag t.scn.inputs[n].mask = f.inputs[n].mask)
      ∧ (∀ (i : Fin 24) (r : LayerRecord), f.layerAt i = some r →
          t.ltb.slots[i] = ⟨.fitted, .clean, r, r, .none⟩)
      ∧ (∀ i : Fin 24, f.layerAt i = none → t.ltb.slots[i] = s.ltb.slots[i])
      ∧ (∀ (i : Fin 24) (r : LayerRecord), f.layerAt i = some r ↔ ⟨i, r⟩ ∈ f.layers)
      ∧ (∀ pop, f.population = some pop → ∀ (k : Fin 4) (x : CameraLink), x = s.cams.links[k] →
          (pop[k] = false → t.cams.links[k] = { x with link := .absent })
          ∧ (pop[k] = true →
            t.cams.links[k] = (CameraLink.planRequest { x with
              link := .starting, miss := 0, fresh := 0, starting := 0, power := decide (x.powerOff = none) }).1
            ∧ ((∀ (i : Fin 3) g, x.slots[i] ≠ .ready g) → t.cams.links[k] = { x with
              link := .starting, miss := 1, fresh := 0, starting := if x.powerOff = none then 1 else 0,
              power := decide (x.powerOff = none) }))))
  ∧ (∀ f : FittedRecord, f.settingsGood = true ↔
      (∀ pop, f.population = some pop → pop[1] = true)
      ∧ (∀ n : Fin 8, f.inputs[n].polarity.toNat ≤ 1 ∧ f.inputs[n].debounce ≤ 250 ∧ f.inputs[n].debounce % 10 = 0
        ∧ f.inputs[n].mask.toNat ≤ 1)
      ∧ f.stop ≤ 1499 ∧ 1 ≤ f.slow ∧ f.slow ≤ 1500 ∧ f.stop < f.slow ∧ f.near ≤ 2000
      ∧ 736 ≤ f.period ∧ f.period ≤ 1023 ∧ 720 ≤ f.commitLine ∧ f.commitLine < f.period
      ∧ (∀ k : Fin 4, f.strobes[k] < f.period) ∧ f.phase < f.period ∧ f.genlock.toNat ≤ 1)
  ∧ (∀ (f : FittedRecord) (present : Vector Bool 4) (table : Vector Candidate 24),
      (∀ (i : Fin 24) (r : LayerRecord), f.layerAt i = some r → table[i] = ⟨.fitted, r⟩) →
      (∀ i : Fin 24, f.layerAt i = none → table[i] = ⟨.none, LayerRecord.empty⟩) →
      (f.layersGood present = true ↔ setFailure present (Vector.replicate 16 none) table
        ((List.finRange 24).filter (fun i => decide (f.layerAt i ≠ none))) = none))

/-- In BOOT with RESET high: an absent record gives status NONE; a record with a bad check, a refused setting
or refused layers gives status BAD. In each case the table, the palette, the thresholds, the inputs' polarity,
debounce and mask, the population and the timebase settings are as they were. With the table unowned and every
camera IDLE or ABSENT, as BOOT has them, the alerts raised are FITTING_BAD, for a BAD record, with subject 0
and detail 01h (CHECK), 02h (SETTING) or 03h (LAYERS), and then STATE_CHANGED, and no other. The commit line
is not 0, as R50 keeps it. The stored check is good, and a record is read, exactly if the bytes are a body of
99 bytes or more and four bytes that are its CRC-32, byte 0 is 01h, bytes 1 and 2 are the body's length, byte
98 counts at most 24 layers, the bytes from 99 on are that many layers and nothing more, no slot stands twice,
and each layer is a slot 0 to 23 and a layer record of kind CAMERA, GUIDE or FILL with every field, count and
enumerated bit field in its range; otherwise the check is bad. The settings are then those of 11.1.6: a
population by bits 0 to 3 of byte 3 if its bit 7 is 1, else none, the inputs at 4 to 27, the thresholds at 28
to 33, P, Lc, S0 to S3 and PH at 34 to 47, GL at 48 and the palette at 50 to 97. Bits and bytes marked 0 are
ignored (R185), as are the bits that no layout assigns (the model's choice, log 29). Which settings and layers
pass is in BootEndInstallsGoodFitting. (R12, R26, R180, R181, R182, R185, R188, 11_record_formats 11.1.4,
11_record_formats 11.1.6.) -/
def Obligations.BootEndRefusesBadFitting : Prop :=
  (∀ (out : Surroundings) (s : State), s.stc.part = .boot → s.pins.resetLow = false → s.ftb.commitLine ≠ 0 →
    ∀ (status : FittingStatus) (told : State),
    ((s.fst.record = .absent ∧ status = .none ∧ told = s)
      ∨ (s.fst.record = .spoiled ∧ status = .bad ∧ told = s.raiseAll .fittingBad 0 1)
      ∨ (∃ bytes, s.fst.record = .present bytes ∧ readFitting bytes = none ∧ status = .bad
          ∧ told = s.raiseAll .fittingBad 0 1)
      ∨ (∃ bytes f, s.fst.record = .present bytes ∧ readFitting bytes = some f ∧ f.settingsGood = false
          ∧ status = .bad ∧ told = s.raiseAll .fittingBad 0 2)
      ∨ (∃ bytes f, s.fst.record = .present bytes ∧ readFitting bytes = some f ∧ f.settingsGood = true
          ∧ f.layersGood (f.population.getD s.cams.population) = false ∧ status = .bad
          ∧ told = s.raiseAll .fittingBad 0 3)) →
    ∃ t, exec (.bootEnd out) s = .next t
      ∧ t.fst.status = status ∧ t.fst.record = s.fst.record ∧ t.ltb = s.ltb ∧ t.cmp.palette = s.cmp.palette
      ∧ t.scn.stopThreshold = s.scn.stopThreshold ∧ t.scn.slowThreshold = s.scn.slowThreshold
      ∧ t.mkm = s.mkm ∧ t.cams.population = s.cams.population ∧ t.cams.source = s.cams.source
      ∧ t.ftb.stagedPeriod = s.ftb.stagedPeriod ∧ t.ftb.commitLine = s.ftb.commitLine
      ∧ t.ftb.strobes = s.ftb.strobes ∧ t.ftb.phase = s.ftb.phase ∧ t.ftb.genlockOn = s.ftb.genlockOn
      ∧ t.ftb.genlock = s.ftb.genlock
      ∧ (∀ n : Fin 8, t.scn.inputs[n].polarity = s.scn.inputs[n].polarity
          ∧ t.scn.inputs[n].debounce = s.scn.inputs[n].debounce ∧ t.scn.inputs[n].mask = s.scn.inputs[n].mask)
      ∧ ((∀ i : Fin 24, s.ltb.slots[i].owner = .none) →
          (∀ k : Fin 4, s.cams.links[k].link ∈ [LinkState.absent, .idle]) →
          t.ports = ((told.setFtb { s.ftb with frame := s.ftb.frame + 1#16 }).raiseAll .stateChanged 1 1).ports))
  ∧ ∀ (bs : List Byte) (f : FittedRecord) (holds : List Byte → FittedLayer → Prop),
    (∀ c l, holds c l ↔ ∃ (a e : Byte) (part : List Byte) (r : LayerRecord), r = l.record
      ∧ a.getLsbD 0 = r.enabled ∧ a.getLsbD 1 = decide (r.cls = .safety) ∧ a.toNat / 4 % 4 = r.part.kind.number
      ∧ a.toNat / 16 % 4 = r.blink.number ∧ a.getLsbD 6 = r.record
      ∧ r.z ≤ 23 ∧ r.destX ≤ 1272 ∧ r.destY ≤ 712 ∧ 8 ≤ r.destW ∧ r.destW ≤ 1280 ∧ 8 ≤ r.destH ∧ r.destH ≤ 720
      ∧ r.alpha ≤ 15 ∧ r.condition.length ≤ 4
      ∧ (match r.part with
        | .camera p => p.cropX ≤ 1264 ∧ p.cropY ≤ 944 ∧ 16 ≤ p.cropW ∧ p.cropW ≤ 1280 ∧ 16 ≤ p.cropH ∧ p.cropH ≤ 960
            ∧ e.getLsbD 0 = p.mirror ∧ e.getLsbD 1 = p.markers
            ∧ part = byte p.camera.val :: (le 2 p.cropX ++ le 2 p.cropY ++ le 2 p.cropW ++ le 2 p.cropH ++ [e])
        | .bitmap _ => False
        | .guide g => 1 ≤ g.width ∧ g.width ≤ 4 ∧ g.segments.length ≤ 6
            ∧ (∀ x ∈ g.segments, x.x0 ≤ 1279 ∧ x.y0 ≤ 719 ∧ x.x1 ≤ 1279 ∧ x.y1 ≤ 719)
            ∧ part = [byte g.colour.val, byte g.width, byte g.segments.length] ++ g.segments.flatMap (fun x =>
                le 2 x.x0 ++ le 2 x.y0 ++ le 2 x.x1 ++ le 2 x.y1)
        | .fill k => part = [byte k.val])
      ∧ c = [byte l.slot.val, a, byte r.z] ++ le 2 r.destX ++ le 2 r.destY ++ le 2 r.destW ++ le 2 r.destH
        ++ [byte r.alpha, byte r.condition.length]
        ++ r.condition.flatMap (fun x => [byte x.signal.val, flag x.level]) ++ part) →
    (readFitting bs = some f ↔
      ∃ (body crc : List Byte) (chunks : List (List Byte)) (get : Nat → Byte) (two : Nat → Nat),
        bs = body ++ crc ∧ crc.length = 4 ∧ fromLe crc = (crc32 body).toNat ∧ 99 ≤ body.length
        ∧ (∀ i, get i = body.getD i 0#8) ∧ (∀ i, two i = (get i).toNat + 256 * (get (i + 1)).toNat)
        ∧ get 0 = 0x01#8 ∧ two 1 = body.length
        ∧ ((get 3).getLsbD 7 = false → f.population = none)
        ∧ ((get 3).getLsbD 7 = true → ∃ pop, f.population = some pop ∧ ∀ k : Fin 4, pop[k] = (get 3).getLsbD k.val)
        ∧ (∀ n : Fin 8, f.inputs[n] = ⟨get (4 + 3 * n.val), (get (5 + 3 * n.val)).toNat, get (6 + 3 * n.val)⟩)
        ∧ f.stop = two 28 ∧ f.slow = two 30 ∧ f.near = two 32 ∧ f.period = two 34 ∧ f.commitLine = two 36
        ∧ (∀ k : Fin 4, f.strobes[k] = two (38 + 2 * k.val)) ∧ f.phase = two 46 ∧ f.genlock = get 48
        ∧ (∀ k : Fin 16, f.palette[k] = ⟨get (50 + 3 * k.val), get (51 + 3 * k.val), get (52 + 3 * k.val)⟩)
        ∧ f.layers.length ≤ 24 ∧ (get 98).toNat = f.layers.length ∧ (f.layers.map FittedLayer.slot).Nodup
        ∧ body.drop 99 = chunks.flatten ∧ List.Forall₂ holds chunks f.layers)

/-- With RESET high and no transaction under way, TRANSACTION_START answers a next state in which the port
holds a transaction: its header reports 4 minus the requests queued, the replies and alerts queued, the three
flags and the record's length, as the four bytes of 11.1.3, OVERRUN and SHORT become no, and the record
offered is the alert queue's head if that is of class S, else the older of the two heads, else the one there
is, else none; nothing else changes. A reply record and an alert record have the bytes of R186, with the
result codes, alert codes, classes and subject kinds numbered as in 9.7 and R186. A reply posted joins the
tail of its queue. Each alert code has its class. An alert raised to all ports is raised to each; at a port it
is routed always in class S and else by the subscription, and not routed it changes nothing. Routed, it raises
the repeat count, up to 255, of a queued alert of its code and subject that is not being offered (the first,
log 16); else at 8 alerts it is dropped and ALERTS_LOST is yes; else in class S it joins behind the class S
alerts at the head of the queue; else it joins the tail; with the current frame number and count 1. (R161,
R163, R164, R166, R167, R168, R186, 11_record_formats 11.1.3, 09_client_ports 9.7.) -/
def Obligations.TransactionStartAndRecordsOffered : Prop :=
  (∀ (p : Port) (s : State), s.pins.resetLow = false → (s.ports.get p).transaction = none →
    ∃ x : Transaction,
      exec (.transactionStart p) s = .next (s.setPorts (s.ports.set p
        { s.ports.get p with overrun := false, short := false, transaction := some x }))
      ∧ x.header = ⟨4 - (s.ports.get p).requests.length, (s.ports.get p).replies.length,
          (s.ports.get p).alerts.length, (s.ports.get p).overrun, (s.ports.get p).short,
          (s.ports.get p).alertsLost, x.record.length⟩
      ∧ ((s.ports.get p).alerts = [] → (s.ports.get p).replies = [] → x.offer = none ∧ x.record = [])
      ∧ (∀ a as, (s.ports.get p).alerts = a :: as →
          (a.item.code.cls = .safety ∨ (s.ports.get p).replies = []
            ∨ ∃ r rs, (s.ports.get p).replies = r :: rs ∧ a.stamp < r.stamp) →
          x.offer = some (.alert a.stamp) ∧ x.record = a.item.record)
      ∧ (∀ r rs, (s.ports.get p).replies = r :: rs →
          ((s.ports.get p).alerts = []
            ∨ ∃ a as, (s.ports.get p).alerts = a :: as ∧ a.item.code.cls ≠ .safety ∧ ¬ a.stamp < r.stamp) →
          x.offer = some (.reply r.stamp) ∧ x.record = r.item.record)
      ∧ x.header.bytes = [byte (x.header.credits + 16 * x.header.repliesPending),
          byte (x.header.alertsPending + (if x.header.overrun then 16 else 0) + (if x.header.short then 32 else 0)
            + (if x.header.alertsLost then 64 else 0)), byte x.record.length, byte (x.record.length / 256)])
  ∧ (∀ r : Reply, r.record = [0x01#8, r.tag.zeroExtend 8, r.kind, byte r.result.number, r.field] ++ r.values)
  ∧ (∀ a : Alert, a.record = [0x02#8, byte a.code.number, byte a.code.cls.number, byte a.code.subjectKind,
      byte a.subject, byte a.detail, byte a.frame.toNat, byte (a.frame.toNat / 256), byte a.count])
  ∧ (∀ code : AlertCode,
      (code.cls = .safety ↔ code ∈ [AlertCode.cameraLost, .nearObject, .regionFault, .speedStale])
      ∧ (code.cls = .camera ↔ code ∈ [AlertCode.cameraStarted, .cameraBack])
      ∧ (code.cls = .layer ↔
          code ∈ [AlertCode.layerSeized, .loadSuspended, .loadResumed, .loadTimeout, .planOverflow])
      ∧ (code.cls = .timing ↔ code ∈ [AlertCode.syncSlip, .genlockLost, .genlockAcquired])
      ∧ (code.cls = .part ↔ code ∈ [AlertCode.stateChanged, .fittingBad]))
  ∧ ([ResultCode.done, .granted, .heldBy, .rankRefused, .notOwner, .badField, .busy, .committed, .commitRefused,
      .noSpace, .inUse, .held, .sequence, .loadFailed, .storeFailed, .wrongState, .badCheck, .unknownKind,
      .refusedCondition].map ResultCode.number = List.range 19)
  ∧ ([AlertCode.cameraLost, .nearObject, .regionFault, .speedStale, .cameraStarted, .cameraBack, .layerSeized,
      .loadSuspended, .loadResumed, .loadTimeout, .planOverflow, .syncSlip, .genlockLost, .genlockAcquired,
      .stateChanged, .fittingBad].map (fun c => (c.number, c.subjectKind)) =
      [(0x01, 0), (0x02, 1), (0x03, 2), (0x04, 3), (0x10, 0), (0x11, 0), (0x20, 4), (0x21, 2), (0x22, 2), (0x23, 2),
        (0x24, 5), (0x30, 6), (0x31, 6), (0x32, 6), (0x40, 7), (0x41, 8)])
  ∧ [AlertClass.safety, .camera, .layer, .timing, .part].map AlertClass.number = [0, 1, 2, 3, 4]
  ∧ (∀ (s : State) (p : Port) (r : Reply), s.post p r = s.setPorts (s.ports.set p { s.ports.get p with
      replies := (s.ports.get p).replies ++ [⟨(s.ports.get p).nextStamp, r⟩]
      nextStamp := (s.ports.get p).nextStamp + 1 }))
  ∧ (∀ (s : State) (code : AlertCode) (subject detail : Nat), s.raiseAll code subject detail =
      ((s.raiseTo .body code subject detail).raiseTo .detect code subject detail).raiseTo .cab code subject detail)
  ∧ ∀ (s : State) (p : Port) (code : AlertCode) (subject detail : Nat) (q : PortState), q = s.ports.get p →
    ∀ (routed : Prop) (matching : Stamped Alert → Prop),
    (routed ↔ code.cls = .safety ∨ (code.cls = .camera ∧ q.subscription.camera = true)
      ∨ (code.cls = .layer ∧ q.subscription.layer = true) ∨ (code.cls = .timing ∧ q.subscription.timing = true)
      ∨ (code.cls = .part ∧ q.subscription.part = true)) →
    (∀ a, matching a ↔ a.item.code = code ∧ a.item.subject = subject
      ∧ ∀ x, q.transaction = some x → x.offer ≠ some (.alert a.stamp)) →
    (¬ routed → s.raiseTo p code subject detail = s)
    ∧ (routed →
      (∀ before a after, q.alerts = before ++ a :: after → (∀ b ∈ before, ¬ matching b) → matching a →
        s.raiseTo p code subject detail = s.setPorts (s.ports.set p { q with
          alerts := before ++ ⟨a.stamp, { a.item with count := min 255 (a.item.count + 1) }⟩ :: after }))
      ∧ ((∀ a ∈ q.alerts, ¬ matching a) → 8 ≤ q.alerts.length →
        s.raiseTo p code subject detail = s.setPorts (s.ports.set p { q with alertsLost := true }))
      ∧ ((∀ a ∈ q.alerts, ¬ matching a) → q.alerts.length < 8 → code.cls = .safety →
        ∀ before after, q.alerts = before ++ after → (∀ a ∈ before, a.item.code.cls = .safety) →
          (∀ a, after.head? = some a → a.item.code.cls ≠ .safety) →
        s.raiseTo p code subject detail = s.setPorts (s.ports.set p { q with
          alerts := before ++ ⟨q.nextStamp, ⟨code, subject, detail, s.ftb.frame, 1⟩⟩ :: after
          nextStamp := q.nextStamp + 1 }))
      ∧ ((∀ a ∈ q.alerts, ¬ matching a) → q.alerts.length < 8 → code.cls ≠ .safety →
        s.raiseTo p code subject detail = s.setPorts (s.ports.set p { q with
          alerts := q.alerts ++ [⟨q.nextStamp, ⟨code, subject, detail, s.ftb.frame, 1⟩⟩]
          nextStamp := q.nextStamp + 1 })))

/-- With a transaction under way that lasted fewer than the 4 header bytes, or fewer than the request frame as
its header declares it, or fewer than the 4 header bytes and the offered record, TRANSACTION_END answers the
state with SHORT set on that port, no transaction under way and, as the bytes the part clocked out, the status
header and the record as far as they went, then 00h for each further byte the master clocked, and changes
nothing else. That the part counts whole bytes is the model's choice, log 12. (R160, R163, R168.) -/
def Obligations.TransactionEndEarlySetsShort : Prop :=
  ∀ (p : Port) (bytes : List Byte) (s : State) (x : Transaction), (s.ports.get p).transaction = some x →
    (bytes.length < 4 ∨ bytes.length < 6 + fromLe ((bytes.drop 2).take 2)
      ∨ (x.offer ≠ none ∧ bytes.length < 4 + x.record.length)) →
    exec (.transactionEnd p bytes) s = .next (s.setPorts (s.ports.set p
      { s.ports.get p with
        short := true
        transaction := none
        clockedOut := (List.range bytes.length).map (fun i => (x.header.bytes ++ x.record).getD i 0#8) }))

/-- With a complete transaction, no transaction is under way any more, the bytes the part clocked out are the
status header, the record and then 00h for each further byte, and the offered record leaves its queue: a reply
by itself, an alert with ALERTS_LOST becoming no, and one that RESET_PORT has removed changes nothing (log
24). Then: a payload length above 260 or a wrong CRC-16 posts BAD_CHECK with the frame's tag and kind if a
reply place is free, else sets OVERRUN; a good POLL changes nothing more; a good frame at a queue of 4 sets
OVERRUN; any other good frame joins the tail of the request queue. Nothing else changes. That delivery comes
before the examination is the model's reading, log 12. (R160, R162, R167, R168.) -/
def Obligations.TransactionEndTakesFrame : Prop :=
  ∀ (p : Port) (bytes : List Byte) (s : State) (x : Transaction), (s.ports.get p).transaction = some x →
    6 + declaredLength bytes ≤ bytes.length → (x.offer = none ∨ 4 + x.record.length ≤ bytes.length) →
    ∀ y : PortState, y = { s.ports.get p with
      transaction := none
      clockedOut := (List.range bytes.length).map (fun i => (x.header.bytes ++ x.record).getD i 0#8) } →
    ∀ (q : PortState) (u : State), u = s.setPorts (s.ports.set p q) →
    (x.offer = none → q = y) →
    (∀ n, x.offer = some (.reply n) → q = { y with replies := y.replies.filter (fun r => decide (r.stamp ≠ n)) }) →
    (∀ n, x.offer = some (.alert n) → (∃ a ∈ y.alerts, a.stamp = n) → q = { y with
      alerts := y.alerts.filter (fun a => decide (a.stamp ≠ n)), alertsLost := false }) →
    (∀ n, x.offer = some (.alert n) → (∀ a ∈ y.alerts, a.stamp ≠ n) → q = y) →
    (260 < declaredLength bytes ∨ frameChecks bytes = false → u.placesInUse p < 8 →
      exec (.transactionEnd p bytes) s = .next (u.setPorts (u.ports.set p
        { q with
          replies := q.replies ++ [⟨q.nextStamp, ⟨frameTag bytes, bytes.getD 0 0#8, .badCheck, 0#8, []⟩⟩]
          nextStamp := q.nextStamp + 1 })))
    ∧ (260 < declaredLength bytes ∨ frameChecks bytes = false → 8 ≤ u.placesInUse p →
      exec (.transactionEnd p bytes) s = .next (u.setPorts (u.ports.set p { q with overrun := true })))
    ∧ (declaredLength bytes ≤ 260 → frameChecks bytes = true → bytes.getD 0 0#8 = 0x02#8 →
      exec (.transactionEnd p bytes) s = .next u)
    ∧ (declaredLength bytes ≤ 260 → frameChecks bytes = true → bytes.getD 0 0#8 ≠ 0x02#8 →
      4 ≤ q.requests.length →
      exec (.transactionEnd p bytes) s = .next (u.setPorts (u.ports.set p { q with overrun := true })))
    ∧ (declaredLength bytes ≤ 260 → frameChecks bytes = true → bytes.getD 0 0#8 ≠ 0x02#8 →
      q.requests.length < 4 →
      exec (.transactionEnd p bytes) s = .next (u.setPorts (u.ports.set p
        { q with requests := q.requests ++ [frameRequest bytes] })))

/-- For each of the 41 request kinds, on a request of that kind that the executor takes: a kind not permitted
on the port is answered RANK_REFUSED with field id FEh; one permitted and not admitted by the part state
WRONG_STATE; one permitted and admitted whose payload length does not suit it BAD_FIELD with id FFh. A request
the executor takes whose kind byte is the code of none of the 41 is answered UNKNOWN_KIND with its tag and
kind byte. The request leaves its queue, and nothing else changes. Each kind's code, the ports it is permitted
on and the part states that admit it are those of section 9.6; its payload length is that of 11.1.2: none, 1,
2, 3, 4 or 9 bytes, at least 1 for LOAD_DATA, by the count as carried for SET_VIRTUAL, MARK and SET_PALETTE,
and for EDIT a slot, a count and that many pairs of an id, a length and that many bytes, with nothing after
them. (R164, R185, R186, 09_client_ports 9.6, 11_record_formats 11.1.2.) -/
def Obligations.ExecutorChecksInOrder : Prop :=
  (∀ (c : Instr) (kind : RequestKind) (p : Port) (s : State) (r : Request), requestOf c = some (kind, p) →
    s.Takes p r → r.kind = kind.code →
    (kind.permitted p = false → exec c s = .next (s.replied p r .rankRefused 0xFE#8 []))
    ∧ (kind.permitted p = true → kind.admitted s.stc.part = false →
        exec c s = .next (s.replied p r .wrongState 0#8 []))
    ∧ (kind.permitted p = true → kind.admitted s.stc.part = true → kind.payloadFits r.payload = false →
        exec c s = .next (s.replied p r .badField 0xFF#8 [])))
  ∧ (∀ (p : Port) (s : State) (r : Request), s.Takes p r → (∀ kind : RequestKind, r.kind ≠ kind.code) →
    exec (.unknownKind p) s = .next (s.replied p r .unknownKind 0#8 []))
  ∧ (∀ kind : RequestKind,
    (kind.permitted .body = true ↔ kind ∉ [RequestKind.mark, .unmark])
    ∧ (kind.permitted .detect = true ↔ kind ∉ [RequestKind.seize, .force, .eccClear, .setStrobe, .setInput, .speed,
        .setSpeedBands, .setNear, .setPalette, .dormant, .storeFitting, .setPeriod, .setCommitLine, .setGenlock,
        .resync, .cameraRestart, .quiet])
    ∧ (kind.permitted .cab = true ↔ kind ∉ [RequestKind.seize, .force, .eccClear, .setStrobe, .setInput, .speed,
        .setSpeedBands, .setNear, .setPalette, .dormant, .storeFitting, .mark, .unmark, .setVirtual, .clearMarks])
    ∧ (∀ part : PartState, kind.admitted part = true ↔ kind ∈ [RequestKind.identify, .resetPort]
        ∨ (kind = .wake ∧ part ≠ .boot) ∨ part = .run ∨ part = .quiet)
    ∧ ∀ (bytes : List Byte) (n : Nat), n = bytes.length →
      (kind ∈ [RequestKind.identify, .resetPort, .readSignals, .readMarkers, .readRegions, .cameraStatus, .discard,
          .commit, .abortLoad, .eccClear, .resync, .clearMarks, .run, .quiet, .dormant, .wake, .storeFitting] →
        (kind.payloadFits bytes = true ↔ n = 0))
      ∧ (kind ∈ [RequestKind.readLayer, .claim, .release, .seize, .alloc, .free, .cameraRestart] →
        (kind.payloadFits bytes = true ↔ n = 1))
      ∧ (kind ∈ [RequestKind.force, .setPeriod, .setCommitLine, .speed, .setNear, .unmark] →
        (kind.payloadFits bytes = true ↔ n = 2))
      ∧ (kind ∈ [RequestKind.setStrobe, .setGenlock] → (kind.payloadFits bytes = true ↔ n = 3))
      ∧ (kind ∈ [RequestKind.subscribe, .setInput, .setSpeedBands] → (kind.payloadFits bytes = true ↔ n = 4))
      ∧ (kind = .openLoad → (kind.payloadFits bytes = true ↔ n = 9))
      ∧ (kind = .loadData → (kind.payloadFits bytes = true ↔ 1 ≤ n))
      ∧ (kind = .setVirtual → (kind.payloadFits bytes = true ↔ 1 ≤ n ∧ n = 1 + 2 * (bytes.getD 0 0#8).toNat))
      ∧ (kind = .mark → (kind.payloadFits bytes = true ↔ 1 ≤ n ∧ n = 1 + 15 * (bytes.getD 0 0#8).toNat))
      ∧ (kind = .setPalette → (kind.payloadFits bytes = true ↔ 1 ≤ n ∧ n = 1 + 3 * (bytes.getD 0 0#8).toNat))
      ∧ (kind = .edit → (kind.payloadFits bytes = true ↔ ∃ (slot : Byte) (pairs : List EditPair), pairs.length < 256
          ∧ (∀ x ∈ pairs, x.value.length < 256) ∧ bytes = slot :: byte pairs.length
            :: pairs.flatMap (fun x => x.id :: byte x.value.length :: x.value))))
  ∧ (∀ kind : RequestKind, kind ∈ RequestKind.all)
  ∧ RequestKind.all = [.identify, .resetPort, .subscribe, .readLayer, .readSignals, .readMarkers, .readRegions,
      .cameraStatus, .claim, .release, .edit, .discard, .commit, .seize, .force, .alloc, .free, .openLoad, .loadData,
      .abortLoad, .eccClear, .setPeriod, .setCommitLine, .setStrobe, .setGenlock, .resync, .cameraRestart, .setInput,
      .speed, .setSpeedBands, .setVirtual, .mark, .unmark, .clearMarks, .setNear, .setPalette, .run, .quiet, .dormant,
      .wake, .storeFitting]
  ∧ RequestKind.all.map RequestKind.code = [0x01#8, 0x03#8, 0x04#8, 0x10#8, 0x11#8, 0x12#8, 0x13#8, 0x14#8, 0x20#8,
      0x21#8, 0x22#8, 0x23#8, 0x24#8, 0x25#8, 0x26#8, 0x30#8, 0x31#8, 0x32#8, 0x33#8, 0x34#8, 0x35#8, 0x40#8, 0x41#8,
      0x42#8, 0x43#8, 0x44#8, 0x48#8, 0x50#8, 0x51#8, 0x52#8, 0x53#8, 0x58#8, 0x59#8, 0x5A#8, 0x5B#8, 0x60#8, 0x70#8,
      0x71#8, 0x72#8, 0x73#8, 0x74#8]

/-- While 8 reply places of a port are in use, the executor's command for any kind other than RESET_PORT, and
for an unknown kind, leaves the state as it is. So does the command for any kind that the head of the queue is
not of (a disabled command; log 1). (R164, R171.) -/
def Obligations.ExecutorWaitsForPlace : Prop :=
  ∀ (c : Instr) (kind : RequestKind) (p : Port) (s : State), requestOf c = some (kind, p) →
    (kind ≠ .resetPort → 8 ≤ s.placesInUse p → exec c s = .next s)
    ∧ ((∀ r, (s.ports.get p).requests.head? = some r → r.kind ≠ kind.code) → exec c s = .next s)
    ∧ ((∀ r, (s.ports.get p).requests.head? = some r → r.kind ≠ RequestKind.code .resetPort) →
        8 ≤ s.placesInUse p → exec (.unknownKind p) s = .next s)

/-- On a request that reaches its block, IDENTIFY answers DONE with 43h, 0420h, 2, the population, bit k for
CLk, its source, the fitting status and the part state; READ_SIGNALS, READ_MARKERS, READ_REGIONS and
CAMERA_STATUS answer DONE with the bytes of R187: the 18 signals as bits of three bytes, six bytes for each
input, the speed state, the wake record; the near threshold, the count and each marker's item, age and near in
the map's order; the 16 regions, the corrected-error count, the job count and the jobs, which come in the
order BODY, DETECT, CAB (the model's choice, log 30), a region's owner numbered as a port (the model's
deduction, log 14); the population source and each camera's link, power, slots, sequences and counts, FFFFh
for none. READ_LAYER of a slot 0 to 23 answers DONE with the slot, owner, status, force and both records, each
a layer record of 11.1.4. Nothing changes but the port's queues. SUBSCRIBE: with every value 0 or 1 the
subscription takes the four values and the reply is DONE with the four held before; with any other value
BAD_FIELD 01h and nothing else changes. A bit of a byte that no layout assigns, as in the population byte and
a camera's flags, is 0 (the model's choice, log 29). An enumerated value is its position in its list, from 0.
(R23, R86, R102, R112, R126, R170, R172, R185, R187, 11_record_formats 11.1.4.) -/
def Obligations.ReadingRequestsAndSubscribe : Prop :=
  (∀ (p : Port) (s : State) (r : Request),
    (s.Reaches p .identify r → ∃ present : Byte, (∀ k : Fin 4, present.getLsbD k.val = s.cams.population[k])
        ∧ (∀ k, 4 ≤ k → present.getLsbD k = false)
        ∧ exec (.identify p) s = .next (s.replied p r .done 0#8
          [0x43#8, 0x20#8, 0x04#8, 0x02#8, present, byte s.cams.source.number,
            byte s.fst.status.number, byte s.stc.part.number]))
    ∧ (s.Reaches p .readSignals r → ∃ bits : List Byte, bits.length = 3
        ∧ (∀ k : Fin 18, (bits.getD (k.val / 8) 0#8).getLsbD (k.val % 8) = s.scn.signal k)
        ∧ exec (.readSignals p) s = .next (s.replied p r .done 0#8 (bits
          ++ (List.finRange 8).flatMap (fun n => [flag s.scn.inputs[n].raw, flag s.scn.inputs[n].conditioned,
              byte s.scn.inputs[n].polarity.number, byte s.scn.inputs[n].debounce, flag s.scn.inputs[n].mask,
              byte (s.scn.inputs[n].timer.getD 0)])
          ++ le 2 s.scn.speed ++ [flag s.scn.stale] ++ le 2 s.scn.stopThreshold ++ le 2 s.scn.slowThreshold
          ++ le 2 (s.scn.age.getD 0) ++ [byte s.scn.wakeRecord.length]
          ++ s.scn.wakeRecord.map (fun n => byte n.val))))
    ∧ (s.Reaches p .readMarkers r → exec (.readMarkers p) s = .next (s.replied p r .done 0#8
        (le 2 s.mkm.threshold ++ [byte s.mkm.markers.length] ++ s.mkm.markers.flatMap (fun x =>
          le 2 x.track ++ [byte x.camera.val] ++ le 2 x.boxX ++ le 2 x.boxY ++ le 2 x.boxW ++ le 2 x.boxH
            ++ [byte x.cls.number] ++ le 2 x.range ++ [byte x.ttl, byte x.age, flag x.near]))))
    ∧ (s.Reaches p .readRegions r → exec (.readRegions p) s = .next (s.replied p r .done 0#8
        ((List.finRange 16).flatMap (fun g => match s.ovm.regions[g] with
            | none => [0#8, 0xFF#8, 0xFF#8, 0xFF#8, 0xFF#8, 0xFF#8, 0xFF#8, 0xFF#8]
            | some x => [match x.content with | .empty => 1#8 | .loading => 2#8 | .valid _ => 3#8 | .faulted _ => 4#8,
                  byte x.first, byte x.count, byte (Port.number x.owner)]
                ++ (match x.content with
                  | .valid c | .faulted c => le 4 c.toNat
                  | .empty | .loading => [0xFF#8, 0xFF#8, 0xFF#8, 0xFF#8]))
          ++ [byte s.ovm.corrected,
              byte ([Port.body, .detect, .cab].filter (fun q => (s.ovm.jobs.get q).isSome)).length]
          ++ [Port.body, .detect, .cab].flatMap (fun q => match s.ovm.jobs.get q with
            | none => []
            | some j => [byte (Port.number q), byte j.region.val, byte j.state.number] ++ le 4 j.length
                ++ le 4 j.cursor ++ [j.nextSeq]))))
    ∧ (s.Reaches p .cameraStatus r →
        ∀ held ready : Fin 4 → List Byte,
        (∀ (k : Fin 4) (i : Fin 3) f, s.cams.links[k].slots[i] = .held f → held k = le 2 f.seq.toNat) →
        (∀ k : Fin 4, (∀ (i : Fin 3) f, s.cams.links[k].slots[i] ≠ .held f) → held k = [0xFF#8, 0xFF#8]) →
        (∀ (k : Fin 4) (i : Fin 3) f, s.cams.links[k].slots[i] = .ready f → ready k = le 2 f.seq.toNat) →
        (∀ k : Fin 4, (∀ (i : Fin 3) f, s.cams.links[k].slots[i] ≠ .ready f) → ready k = [0xFF#8, 0xFF#8]) →
        exec (.cameraStatus p) s = .next (s.replied p r .done 0#8 (byte s.cams.source.number
          :: (List.finRange 4).flatMap (fun k => [byte s.cams.links[k].link.number, flag s.cams.links[k].power,
              byte (s.cams.links[k].powerOff.getD 0), byte s.cams.links[k].slots[0].number,
              byte s.cams.links[k].slots[1].number, byte s.cams.links[k].slots[2].number] ++ held k ++ ready k
            ++ [byte s.cams.links[k].miss, byte s.cams.links[k].fresh, byte s.cams.links[k].starting,
              byte s.cams.links[k].discards]))))
    ∧ (∀ i : Fin 24, s.Reaches p .readLayer r → (r.arg 0).toNat = i.val →
        exec (.readLayer p) s = .next (s.replied p r .done 0#8
          ([byte i.val, byte s.ltb.slots[i].owner.number, byte s.ltb.slots[i].status.number,
            byte s.ltb.slots[i].force.number] ++ s.ltb.slots[i].staged.bytes ++ s.ltb.slots[i].active.bytes)))
    ∧ (s.Reaches p .subscribe r →
      (∀ c l t k : Bool, r.arg 0 = flag c → r.arg 1 = flag l → r.arg 2 = flag t → r.arg 3 = flag k →
        exec (.subscribe p) s = .next ((s.setPorts (s.ports.set p
          { s.ports.get p with subscription := ⟨c, l, t, k⟩ })).replied p r .done 0#8
            [flag (s.ports.get p).subscription.camera, flag (s.ports.get p).subscription.layer,
              flag (s.ports.get p).subscription.timing, flag (s.ports.get p).subscription.part]))
      ∧ ((∃ i : Nat, i < 4 ∧ 1 < (r.arg i).toNat) →
        exec (.subscribe p) s = .next (s.replied p r .badField 0x01#8 []))))
  ∧ (∀ r : LayerRecord, r.bytes = byte ((if r.enabled then 1 else 0) + 2 * r.cls.number + 4 * r.part.kind.number
        + 16 * r.blink.number + (if r.record then 64 else 0))
      :: byte r.z :: (le 2 r.destX ++ le 2 r.destY ++ le 2 r.destW ++ le 2 r.destH
        ++ [byte r.alpha, byte r.condition.length]
        ++ r.condition.flatMap (fun x => [byte x.signal.val, flag x.level])
        ++ (match r.part with
          | .camera c => byte c.camera.val :: (le 2 c.cropX ++ le 2 c.cropY ++ le 2 c.cropW ++ le 2 c.cropH
              ++ [byte ((if c.mirror then 1 else 0) + (if c.markers then 2 else 0))])
          | .bitmap b => byte b.region.val :: (le 2 b.width ++ le 2 b.height ++ [match b.key with
              | some k => byte k.val
              | none => 0xFF#8])
          | .guide g => [byte g.colour.val, byte g.width, byte g.segments.length] ++ g.segments.flatMap (fun x =>
              le 2 x.x0 ++ le 2 x.y0 ++ le 2 x.x1 ++ le 2 x.y1)
          | .fill c => [byte c.val])))
  ∧ ([Port.body, .detect, .cab].map Port.number = [0, 1, 2]
    ∧ [Owner.none, .fitted, .port .body, .port .detect, .port .cab].map Owner.number = [0, 1, 2, 3, 4]
    ∧ [Staging.clean, .edited, .pending].map Staging.number = [0, 1, 2]
    ∧ [Force.none, .show, .hide].map Force.number = [0, 1, 2]
    ∧ [LayerClass.ordinary, .safety].map LayerClass.number = [0, 1]
    ∧ [LayerKind.camera, .bitmap, .guide, .fill].map LayerKind.number = [0, 1, 2, 3]
    ∧ [Blink.solid, .slow, .fast].map Blink.number = [0, 1, 2]
    ∧ [LinkState.absent, .idle, .starting, .locked, .lost].map LinkState.number = [0, 1, 2, 3, 4]
    ∧ (∀ seq lines f, [FrameSlot.free, .writing seq lines, .ready f, .held f].map FrameSlot.number = [0, 1, 2, 3])
    ∧ [PopulationSource.straps, .fitting].map PopulationSource.number = [0, 1]
    ∧ [Polarity.activeHigh, .activeLow].map Polarity.number = [0, 1]
    ∧ [MarkerClass.pedestrian, .cyclist, .vehicle, .object].map MarkerClass.number = [0, 1, 2, 3]
    ∧ (∀ a b tag, [JobState.receiving a, .suspended, .verifying b tag].map JobState.number = [0, 1, 2])
    ∧ [GenlockState.free, .hunting, .locked].map GenlockState.number = [0, 1, 2]
    ∧ [PartState.boot, .run, .quiet, .dormant].map PartState.number = [0, 1, 2, 3]
    ∧ [FittingStatus.loaded, .bad, .none].map FittingStatus.number = [0, 1, 2])

/-- On a RESET_PORT at the head of a queue with RESET high and no payload, whatever the places in use, the
next state has an empty request queue, the DONE as the only reply, no alerts, the flags no, the subscription
full; no open request of the port; every slot of the port unowned and every other slot as it was; no pending
set of the port and every other as it was; V0 to V3 of BODY or V4 and V5 of DETECT at 0; for DETECT an empty
Marker Map; a QUIET entry of another port kept and one of the port gone; the port's job, if VERIFYING, kept
with its answer cancelled and the regions and other jobs as they were, otherwise gone with its region EMPTY
and every other region as it was; in a state that keeps the load engine's relations, where the job was
RECEIVING and another port's job waits, the one of highest rank RECEIVING with 2000 ms and its port alone told
LOAD_RESUMED, and where it was SUSPENDED or no other waits every other port as it was; a store in flight kept,
one of the port with its answer dropped; memory, the fitting record, the run request and the other ports'
requests and replies as they were; and the part state, the timebase, the cameras and the Composer as they
were. (R27, R35, R103, R120, R130, R135, R136, R171, R184.) -/
def Obligations.ResetPortReturnsPort : Prop :=
  ∀ (p : Port) (s : State) (r : Request), (s.ports.get p).requests.head? = some r →
    r.kind = RequestKind.code .resetPort → r.payload = [] → s.pins.resetLow = false →
    ∃ t, exec (.resetPort p) s = .next t
      ∧ (t.ports.get p).requests = []
      ∧ (∃ n, (t.ports.get p).replies = [⟨n, ⟨r.tag, r.kind, .done, 0#8, []⟩⟩])
      ∧ (t.ports.get p).alerts = [] ∧ (t.ports.get p).overrun = false ∧ (t.ports.get p).short = false
      ∧ (t.ports.get p).alertsLost = false ∧ (t.ports.get p).subscription = ⟨true, true, true, true⟩
      ∧ t.openRequests p = 0
      ∧ (∀ i : Fin 24, t.ltb.slots[i] =
          if s.ltb.slots[i].owner = .port p then LayerSlot.unowned else s.ltb.slots[i])
      ∧ (∀ q : Port, t.ltb.sets.get q = if q = p then none else s.ltb.sets.get q)
      ∧ (∀ v : Fin 6, t.scn.virtuals[v] = if mayWriteVirtual p v then false else s.scn.virtuals[v])
      ∧ (p = .detect → t.mkm.markers = [] ∧ t.scn.near = false)
      ∧ (p ≠ .detect → t.mkm = s.mkm)
      ∧ (∀ e, s.stc.entry = some e → e.port ≠ p → t.stc.entry = some e)
      ∧ (∀ e, s.stc.entry = some e → e.port = p → t.stc.entry = none)
      ∧ (s.stc.entry = none → t.stc.entry = none) ∧ t.stc.runRequest = s.stc.runRequest
      ∧ (s.fst.store = none → t.fst = s.fst)
      ∧ (∀ x, s.fst.store = some x →
          t.fst = { s.fst with store := some (if x.port = p then { x with answerOpen := false } else x) })
      ∧ t.ovm.memory = s.ovm.memory ∧ t.fst.record = s.fst.record
      ∧ (s.ovm.jobs.get p = none → t.ovm = s.ovm)
      ∧ (∀ j, s.ovm.jobs.get p = some j → j.isVerifying = true →
          t.ovm = { s.ovm with jobs := s.ovm.jobs.set p (some { j with answerOpen := false }) })
      ∧ (∀ j, s.ovm.jobs.get p = some j → j.isVerifying = false → t.ovm.jobs.get p = none
          ∧ (∀ g : Fin 16, t.ovm.regions[g] = if g = j.region then
              s.ovm.regions[g].map (fun x => { x with content := .empty }) else s.ovm.regions[g]))
      ∧ (s.EngineGood → ∀ q : Port, q ≠ p →
          ((∀ j, s.ovm.jobs.get p = some j → j.isReceiving = false) →
            t.ports.get q = s.ports.get q ∧ t.ovm.jobs.get q = s.ovm.jobs.get q)
          ∧ (∀ j, s.ovm.jobs.get p = some j → j.isReceiving = true →
            (s.ovm.jobs.get q = none → t.ports.get q = s.ports.get q ∧ t.ovm.jobs.get q = none)
            ∧ ∀ k, s.ovm.jobs.get q = some k →
              ((∀ q' k', q' ≠ p → s.ovm.jobs.get q' = some k' → Port.number q ≤ Port.number q') →
                t.ovm.jobs.get q = some { k with state := .receiving 2000 }
                ∧ t.ports.get q = (s.raiseTo q .loadResumed k.region.val 0).ports.get q)
              ∧ ((∃ q' k', q' ≠ p ∧ s.ovm.jobs.get q' = some k' ∧ Port.number q' < Port.number q) →
                t.ovm.jobs.get q = some k ∧ t.ports.get q = s.ports.get q)))
      ∧ (∀ q : Port, q ≠ p → (t.ports.get q).requests = (s.ports.get q).requests
          ∧ (t.ports.get q).replies = (s.ports.get q).replies)
      ∧ t.stc.part = s.stc.part ∧ t.ftb = s.ftb ∧ t.cams = s.cams ∧ t.cmp = s.cmp

/-- On a CLAIM, SEIZE, RELEASE, EDIT, READ_LAYER or FORCE that reaches the Layer Table with a slot number of
24 or more, the answer is BAD_FIELD with id 00h and nothing else changes. (R15, R16, R17, R19, R20, R23,
R153.) -/
def Obligations.SlotNumberIsCheckedFirst : Prop :=
  ∀ (c : Instr) (kind : RequestKind) (p : Port) (s : State) (r : Request), requestOf c = some (kind, p) →
    kind ∈ [RequestKind.claim, .seize, .release, .edit, .readLayer, .force] → s.Reaches p kind r →
    24 ≤ (r.arg 0).toNat → exec c s = .next (s.replied p r .badField 0x00#8 [])

/-- On a CLAIM of slot i that reaches the Layer Table: its owner is answered GRANTED with no change; another
port than BODY is refused RANK_REFUSED (FEh) where either copy is SAFETY; a slot of another port gives HELD_BY
with that owner; a free slot becomes the requester's with the empty record in both copies; a FITTED slot
becomes the requester's with its staged copy taken from the active one, CLEAN, force kept. (R3, R14, R16,
R31.) -/
def Obligations.ClaimTestsInOrder : Prop :=
  ∀ (p : Port) (s : State) (r : Request) (i : Fin 24), s.Reaches p .claim r → (r.arg 0).toNat = i.val →
    ∀ x : LayerSlot, x = s.ltb.slots[i] →
    (x.owner = .port p → exec (.claim p) s = .next (s.replied p r .granted 0#8 []))
    ∧ (x.owner ≠ .port p → p ≠ .body → (x.active.cls = .safety ∨ x.staged.cls = .safety) →
        exec (.claim p) s = .next (s.replied p r .rankRefused 0xFE#8 []))
    ∧ ((p = .body ∨ (x.active.cls = .ordinary ∧ x.staged.cls = .ordinary)) →
        (∀ q : Port, x.owner = .port q → q ≠ p →
          exec (.claim p) s = .next (s.replied p r .heldBy 0#8 [byte (2 + Port.number q)]))
        ∧ (x.owner = .none →
          exec (.claim p) s = .next ((s.setSlot i
            ⟨.port p, .clean, LayerRecord.empty, LayerRecord.empty, .none⟩).replied p r .granted 0#8 []))
        ∧ (x.owner = .fitted →
          exec (.claim p) s = .next ((s.setSlot i
            ⟨.port p, .clean, x.active, x.active, x.force⟩).replied p r .granted 0#8 [])))

/-- On a SEIZE of slot i that reaches the Layer Table: BODY's own slot is answered GRANTED with no change, and
the reply names BODY (2) as the owner before, which is the model's deduction (log 14: R17 gives that reply no
value); any other becomes BODY's, CLEAN, its staged copy taken from the active one, force kept, and leaves its
owner's pending set; the reply names the owner before; a losing port, and no other, has LAYER_SEIZED raised
for the slot. (R17, R18, R32, R187.) -/
def Obligations.SeizeTakesAnySlot : Prop :=
  ∀ (s : State) (r : Request) (i : Fin 24), s.Reaches .body .seize r → (r.arg 0).toNat = i.val →
    ∀ x : LayerSlot, x = s.ltb.slots[i] →
    (x.owner = .port .body → exec (.seize .body) s = .next (s.replied .body r .granted 0#8 [2#8]))
    ∧ (x.owner = .none → exec (.seize .body) s = .next ((s.setSlot i
        ⟨.port .body, .clean, x.active, x.active, x.force⟩).replied .body r .granted 0#8 [0#8]))
    ∧ (x.owner = .fitted → exec (.seize .body) s = .next ((s.setSlot i
        ⟨.port .body, .clean, x.active, x.active, x.force⟩).replied .body r .granted 0#8 [1#8]))
    ∧ (∀ q : Port, q ≠ .body → x.owner = .port q →
        exec (.seize .body) s = .next
          ((((s.setLtb { s.ltb with sets := s.ltb.sets.set q ((s.ltb.sets.get q).map (fun m =>
              ⟨m.tag, m.members.filter (fun j => decide (j ≠ i))⟩)) }).setSlot i
            ⟨.port .body, .clean, x.active, x.active, x.force⟩).raiseTo q .layerSeized i.val 0).replied .body r
              .granted 0#8 [byte (2 + Port.number q)]))

/-- On a RELEASE of slot i that reaches the Layer Table: from any port but the owner NOT_OWNER and no change;
from the owner DONE, the slot unowned with the empty record in both copies, CLEAN, force NONE, and out of the
owner's pending set, which stays. (R2, R19, R33.) -/
def Obligations.ReleaseFreesOwnSlot : Prop :=
  ∀ (p : Port) (s : State) (r : Request) (i : Fin 24), s.Reaches p .release r → (r.arg 0).toNat = i.val →
    (s.ltb.slots[i].owner ≠ .port p → exec (.release p) s = .next (s.replied p r .notOwner 0#8 []))
    ∧ (s.ltb.slots[i].owner = .port p →
        exec (.release p) s = .next (((s.setLtb { s.ltb with
            sets := s.ltb.sets.set p ((s.ltb.sets.get p).map (fun m =>
              ⟨m.tag, m.members.filter (fun j => decide (j ≠ i))⟩)) }).setSlot i
          ⟨.none, .clean, LayerRecord.empty, LayerRecord.empty, .none⟩).replied p r .done 0#8 []))

/-- On an EDIT of slot i that reaches the Layer Table: a number of pairs outside 1 to 16 gives BAD_FIELD 0Fh;
then another port's slot NOT_OWNER; then a PENDING slot BUSY; then the first failing pair's result and id,
with nothing written; otherwise the staged copy is the result of every pair in order, the status EDITED, the
active copy and force as they were. The pairs are those the payload's bytes lay out: the slot, the number of
pairs, then for each pair in order its field id, its value length and that many value bytes, and nothing more;
a payload with a number from 1 to 16 that reaches the Layer Table is always of this form. (R4, R14, R20, R21,
R185, 11_record_formats 11.1.2.) -/
def Obligations.EditWritesAllOrNothing : Prop :=
  ∀ (p : Port) (s : State) (r : Request) (i : Fin 24), s.Reaches p .edit r → (r.arg 0).toNat = i.val →
    ∀ (x : LayerSlot) (n : Nat) (laidOut : List EditPair → Prop), x = s.ltb.slots[i] → n = (r.arg 1).toNat →
    (∀ pairs, laidOut pairs ↔ pairs.length = n ∧ (∀ z ∈ pairs, z.value.length ≤ 255)
      ∧ r.payload = [r.arg 0, r.arg 1] ++ pairs.flatMap (fun z => [z.id, byte z.value.length] ++ z.value)) →
    ((n < 1 ∨ 16 < n) → exec (.edit p) s = .next (s.replied p r .badField 0x0F#8 []))
    ∧ (1 ≤ n → n ≤ 16 → x.owner ≠ .port p → exec (.edit p) s = .next (s.replied p r .notOwner 0#8 []))
    ∧ (1 ≤ n → n ≤ 16 → x.owner = .port p → x.status = .pending →
        exec (.edit p) s = .next (s.replied p r .busy 0#8 []))
    ∧ (1 ≤ n → n ≤ 16 → x.owner = .port p → x.status ≠ .pending →
        (∃ pairs, laidOut pairs)
        ∧ ∀ pairs, laidOut pairs → (∀ result field, applyPairs p pairs x.staged = .error (result, field) →
          exec (.edit p) s = .next (s.replied p r result field []))
        ∧ (∀ w, applyPairs p pairs x.staged = .ok w →
          exec (.edit p) s = .next ((s.setSlot i ⟨x.owner, .edited, w, x.active, x.force⟩).replied p r .done
            0#8 [])))

/-- With no pair left the working copy is the result. A first pair of class SAFETY from DETECT or CAB ends in
RANK_REFUSED 02h. Any other is accepted exactly if it is of a field of the table of R12, in the common part or
in the kind-specific part the working copy has, its value has the field's length (one byte, two bytes low byte
first, a term count and its terms, a segment count and its segments) and lies in the field's range; then the
pairs that follow are taken on the working copy with that field written and every other kept, where a kind
other than the one held puts in that kind's default part. Else the result is BAD_FIELD with the pair's id, be
it in the table or not. A field write that is accepted on a record whose fields lie in the ranges of R12
leaves every field in its range. (R7, R8, R9, R10, R12, R14, R21, 11_record_formats 11.1.2.) -/
def Obligations.EditPairsByRule : Prop :=
  (∀ (p : Port) (r : LayerRecord) (accepts : Byte → List Byte → LayerRecord → Prop),
    (∀ id v w, accepts id v w ↔
      (id = 0x01#8 ∧ ∃ b : Bool, v = [flag b] ∧ w = { r with enabled := b })
      ∨ (id = 0x02#8 ∧ ∃ c : LayerClass, v = [byte c.number] ∧ w = { r with cls := c })
      ∨ (id = 0x03#8 ∧ ∃ k : LayerKind, v = [byte k.number] ∧ w = if r.part.kind = k then r else { r with part :=
        match k with
        | .camera => .camera ⟨1, 0, 0, 1280, 960, false, false⟩
        | .bitmap => .bitmap ⟨0, 8, 8, none⟩
        | .guide => .guide ⟨15, 2, []⟩
        | .fill => .fill 0 })
      ∨ (id = 0x04#8 ∧ ∃ n, n ≤ 23 ∧ v = [byte n] ∧ w = { r with z := n })
      ∨ (id = 0x05#8 ∧ ∃ n, n ≤ 1272 ∧ v = le 2 n ∧ w = { r with destX := n })
      ∨ (id = 0x06#8 ∧ ∃ n, n ≤ 712 ∧ v = le 2 n ∧ w = { r with destY := n })
      ∨ (id = 0x07#8 ∧ ∃ n, 8 ≤ n ∧ n ≤ 1280 ∧ v = le 2 n ∧ w = { r with destW := n })
      ∨ (id = 0x08#8 ∧ ∃ n, 8 ≤ n ∧ n ≤ 720 ∧ v = le 2 n ∧ w = { r with destH := n })
      ∨ (id = 0x09#8 ∧ ∃ n, n ≤ 15 ∧ v = [byte n] ∧ w = { r with alpha := n })
      ∨ (id = 0x0A#8 ∧ ∃ ts : List Term, ts.length ≤ 4 ∧ v = byte ts.length :: ts.flatMap (fun x =>
        [byte x.signal.val, flag x.level]) ∧ w = { r with condition := ts })
      ∨ (id = 0x0B#8 ∧ ∃ b : Blink, v = [byte b.number] ∧ w = { r with blink := b })
      ∨ (id = 0x0C#8 ∧ ∃ b : Bool, v = [flag b] ∧ w = { r with record := b })
      ∨ (id = 0x10#8 ∧ ∃ (c : CameraPart) (k : Fin 4), r.part = .camera c ∧ v = [byte k.val] ∧ w = { r with part := .camera { c with camera := k } })
      ∨ (id = 0x11#8 ∧ ∃ (c : CameraPart) (n : Nat), r.part = .camera c ∧ n ≤ 1264 ∧ v = le 2 n ∧ w = { r with part := .camera { c with cropX := n } })
      ∨ (id = 0x12#8 ∧ ∃ (c : CameraPart) (n : Nat), r.part = .camera c ∧ n ≤ 944 ∧ v = le 2 n ∧ w = { r with part := .camera { c with cropY := n } })
      ∨ (id = 0x13#8 ∧ ∃ (c : CameraPart) (n : Nat), r.part = .camera c ∧ 16 ≤ n ∧ n ≤ 1280 ∧ v = le 2 n ∧ w = { r with part := .camera { c with cropW := n } })
      ∨ (id = 0x14#8 ∧ ∃ (c : CameraPart) (n : Nat), r.part = .camera c ∧ 16 ≤ n ∧ n ≤ 960 ∧ v = le 2 n ∧ w = { r with part := .camera { c with cropH := n } })
      ∨ (id = 0x15#8 ∧ ∃ (c : CameraPart) (f : Bool), r.part = .camera c ∧ v = [flag f] ∧ w = { r with part := .camera { c with mirror := f } })
      ∨ (id = 0x16#8 ∧ ∃ (c : CameraPart) (f : Bool), r.part = .camera c ∧ v = [flag f] ∧ w = { r with part := .camera { c with markers := f } })
      ∨ (id = 0x18#8 ∧ ∃ (b : BitmapPart) (k : Fin 16), r.part = .bitmap b ∧ v = [byte k.val] ∧ w = { r with part := .bitmap { b with region := k } })
      ∨ (id = 0x19#8 ∧ ∃ (b : BitmapPart) (n : Nat), r.part = .bitmap b ∧ 1 ≤ n ∧ n ≤ 1280 ∧ v = le 2 n ∧ w = { r with part := .bitmap { b with width := n } })
      ∨ (id = 0x1A#8 ∧ ∃ (b : BitmapPart) (n : Nat), r.part = .bitmap b ∧ 1 ≤ n ∧ n ≤ 720 ∧ v = le 2 n ∧ w = { r with part := .bitmap { b with height := n } })
      ∨ (id = 0x1B#8 ∧ ∃ (b : BitmapPart) (key : Option (Fin 16)), r.part = .bitmap b ∧ v = [match key with
        | some k => byte k.val
        | none => 0xFF#8] ∧ w = { r with part := .bitmap { b with key := key } })
      ∨ (id = 0x20#8 ∧ ∃ (g : GuidePart) (k : Fin 16), r.part = .guide g ∧ v = [byte k.val] ∧ w = { r with part := .guide { g with colour := k } })
      ∨ (id = 0x21#8 ∧ ∃ (g : GuidePart) (n : Nat), r.part = .guide g ∧ 1 ≤ n ∧ n ≤ 4 ∧ v = [byte n] ∧ w = { r with part := .guide { g with width := n } })
      ∨ (id = 0x22#8 ∧ ∃ (g : GuidePart) (ss : List Segment), r.part = .guide g ∧ ss.length ≤ 6
        ∧ (∀ x ∈ ss, x.x0 ≤ 1279 ∧ x.y0 ≤ 719 ∧ x.x1 ≤ 1279 ∧ x.y1 ≤ 719)
        ∧ v = byte ss.length :: ss.flatMap (fun x => le 2 x.x0 ++ le 2 x.y0 ++ le 2 x.x1 ++ le 2 x.y1)
        ∧ w = { r with part := .guide { g with segments := ss } })
      ∨ (id = 0x28#8 ∧ ∃ k j : Fin 16, r.part = .fill j ∧ v = [byte k.val] ∧ w = { r with part := .fill k })) →
    applyPairs p [] r = .ok r
    ∧ ∀ (rest : List EditPair) (id : Byte) (v : List Byte),
      (p ≠ .body ∧ id = 0x02#8 ∧ v = [1#8] → applyPairs p (⟨id, v⟩ :: rest) r = .error (.rankRefused, 0x02#8))
      ∧ (¬ (p ≠ .body ∧ id = 0x02#8 ∧ v = [1#8]) →
        (∀ w, accepts id v w → applyPairs p (⟨id, v⟩ :: rest) r = applyPairs p rest w)
        ∧ ((∀ w, ¬ accepts id v w) → applyPairs p (⟨id, v⟩ :: rest) r = .error (.badField, id))))
  ∧ ∀ (r w : LayerRecord) (id : Nat) (v : List Byte), r.InRange → r.writeField id v = some w → w.InRange

/-- On a DISCARD that reaches the Layer Table: BUSY with no change while the port has a pending commit;
otherwise DONE with the number of the port's EDITED slots, each of which is now CLEAN with its staged copy the
active one; every other slot is as it was. (R22, R31.) -/
def Obligations.DiscardReturnsEditedSlots : Prop :=
  ∀ (p : Port) (s : State) (r : Request), s.Reaches p .discard r →
    (s.ltb.sets.get p ≠ none → exec (.discard p) s = .next (s.replied p r .busy 0#8 []))
    ∧ (s.ltb.sets.get p = none → ∃ t : LayerTable,
        exec (.discard p) s = .next ((s.setLtb t).replied p r .done 0#8
          [byte ((List.finRange 24).filter (fun i =>
            decide (s.ltb.slots[i].owner = .port p ∧ s.ltb.slots[i].status = .edited))).length])
        ∧ t.sets = s.ltb.sets
        ∧ ∀ i : Fin 24, t.slots[i] =
            if s.ltb.slots[i].owner = .port p ∧ s.ltb.slots[i].status = .edited then
              ⟨.port p, .clean, s.ltb.slots[i].active, s.ltb.slots[i].active, s.ltb.slots[i].force⟩
            else s.ltb.slots[i])

/-- On a COMMIT that reaches the Layer Table: BUSY while the port has a pending commit; COMMITTED with count 0
and F + 1 when it owns no EDITED slot; otherwise no reply: the port's EDITED slots, ascending, become PENDING
members of its new set under the request's tag, and the other slots and sets stay. (R29, R30, R31, R164,
R165.) -/
def Obligations.CommitOpensSet : Prop :=
  ∀ (p : Port) (s : State) (r : Request), s.Reaches p .commit r →
    ∀ edited : List (Fin 24), edited = (List.finRange 24).filter (fun i =>
      decide (s.ltb.slots[i].owner = .port p ∧ s.ltb.slots[i].status = .edited)) →
    (s.ltb.sets.get p ≠ none → exec (.commit p) s = .next (s.replied p r .busy 0#8 []))
    ∧ (s.ltb.sets.get p = none → edited = [] →
        exec (.commit p) s = .next (s.replied p r .committed 0#8 (0#8 :: le 2 (s.ftb.frame + 1#16).toNat)))
    ∧ (s.ltb.sets.get p = none → edited ≠ [] → ∃ t : LayerTable,
        exec (.commit p) s = .next ((s.setLtb t).taken p)
        ∧ t.sets = s.ltb.sets.set p (some ⟨r.tag, edited⟩)
        ∧ ∀ i : Fin 24, t.slots[i] =
            if i ∈ edited then
              ⟨s.ltb.slots[i].owner, .pending, s.ltb.slots[i].staged, s.ltb.slots[i].active, s.ltb.slots[i].force⟩
            else s.ltb.slots[i])

/-- The COMMIT event resolves BODY's pending set, then DETECT's on the state that left, then CAB's on the
state DETECT's left. Resolving a port's pending set: if no member fails a check, every member's staged copy
becomes active and CLEAN and COMMITTED is posted with the number of members and F + 1; if the first failing
member is i with a detail code, every member is EDITED again, no active copy changes and COMMIT_REFUSED is
posted with i and the code. Either way the set is gone, every other slot and set is as it was, and the reply
carries the set's tag. Without a set nothing changes. (R34, R36, R38, R39, R40, R41.) -/
def Obligations.CommitSetIsAllOrNothing : Prop :=
  (∀ s : State, s.commitEvent = ((s.resolveSet .body).resolveSet .detect).resolveSet .cab)
  ∧ ∀ (p : Port) (s : State),
    (s.ltb.sets.get p = none → s.resolveSet p = s)
    ∧ ∀ x : PendingSet, s.ltb.sets.get p = some x →
      ∀ verdict, verdict = setFailure s.cams.presence s.ovm.regions (s.ltb.candidates x.members) x.members →
      ∃ (t : LayerTable) (result : ResultCode) (values : List Byte),
        s.resolveSet p = (s.setLtb t).setPorts (s.ports.set p
          { s.ports.get p with
            replies := (s.ports.get p).replies
              ++ [⟨(s.ports.get p).nextStamp, ⟨x.tag, 0x24#8, result, 0#8, values⟩⟩]
            nextStamp := (s.ports.get p).nextStamp + 1 })
        ∧ t.sets = s.ltb.sets.set p none
        ∧ (∀ i : Fin 24, i ∉ x.members → t.slots[i] = s.ltb.slots[i])
        ∧ (verdict = none → result = .committed
            ∧ values = byte x.members.length :: le 2 (s.ftb.frame + 1#16).toNat
            ∧ ∀ i ∈ x.members, t.slots[i] = ⟨s.ltb.slots[i].owner, .clean, s.ltb.slots[i].staged,
                s.ltb.slots[i].staged, s.ltb.slots[i].force⟩)
        ∧ (∀ (i : Fin 24) (code : DetailCode), verdict = some (i, code) → result = .commitRefused
            ∧ values = [byte i.val, byte code.number]
            ∧ ∀ j ∈ x.members, t.slots[j] = ⟨s.ltb.slots[j].owner, .edited, s.ltb.slots[j].staged,
                s.ltb.slots[j].active, s.ltb.slots[j].force⟩)

/-- Against a candidate table a set passes exactly if no member fails any of the ten checks of R39: GEOMETRY,
CROP, SCALE, SEGMENT, CAMERA_ABSENT, REGION_NOT_VALID, BITMAP_SIZE, Z_CONFLICT, Z_ORDER, SAFETY_COUNT, each as
R42 to R44 state it, the last three for an enabled member over the enabled, owned candidates. A set fails with
member i and a code exactly if i is a member, none before it in the list fails any check, i fails that check,
and i fails none of a lower number; the codes have the values 01h to 0Ah in the order of R39. The candidate
table of a Layer Table and a set has each slot's owner, a member's staged record and any other slot's active
record. (R38, R39, R42, R43, R44.) -/
def Obligations.CommitChecksHold : Prop :=
  [DetailCode.geometry, .crop, .scale, .segment, .cameraAbsent, .regionNotValid, .bitmapSize, .zConflict, .zOrder,
      .safetyCount].map DetailCode.number = [1, 2, 3, 4, 5, 6, 7, 8, 9, 10]
  ∧ ∀ (present : Vector Bool 4) (regions : Vector (Option Region) 16) (table : Vector Candidate 24)
    (members : List (Fin 24)) (counts : Fin 24 → Prop) (fails : Fin 24 → DetailCode → Prop),
    (∀ j, counts j ↔ table[j].record.enabled = true ∧ table[j].owner ≠ .none) →
    (∀ i code, fails i code ↔ ∃ r : LayerRecord, r = table[i].record ∧ match code with
      | .geometry => ¬ (r.destX + r.destW ≤ 1280 ∧ r.destY + r.destH ≤ 720)
      | .crop => ∃ c, r.part = .camera c ∧ ¬ (c.cropX + c.cropW ≤ 1280 ∧ c.cropY + c.cropH ≤ 960)
      | .scale => ∃ c, r.part = .camera c ∧ ¬ (c.cropW ≤ 4 * r.destW ∧ r.destW ≤ 2 * c.cropW
          ∧ c.cropH ≤ 4 * r.destH ∧ r.destH ≤ 2 * c.cropH)
      | .segment => ∃ g, r.part = .guide g ∧ ¬ ∀ x ∈ g.segments, x.x0 < r.destW ∧ x.x1 < r.destW ∧ x.y0 < r.destH
          ∧ x.y1 < r.destH
      | .cameraAbsent => ∃ c, r.part = .camera c ∧ present[c.camera] = false
      | .regionNotValid => ∃ b, r.part = .bitmap b ∧ ∀ g crc, regions[b.region] = some g → g.content ≠ .valid crc
      | .bitmapSize => ∃ b g, r.part = .bitmap b ∧ regions[b.region] = some g ∧ g.count * 8192 < b.width * b.height
      | .zConflict => r.enabled = true ∧ ∃ j, j ≠ i ∧ counts j ∧ table[j].record.z = r.z
      | .zOrder => r.enabled = true ∧ ∃ j, counts j
          ∧ ((r.cls = .safety ∧ table[j].record.cls = .ordinary ∧ r.z ≤ table[j].record.z)
            ∨ (r.cls = .ordinary ∧ table[j].record.cls = .safety ∧ table[j].record.z ≤ r.z))
      | .safetyCount => r.enabled = true ∧ r.cls = .safety ∧ ∃ js : List (Fin 24), js.Nodup ∧ 8 < js.length
          ∧ ∀ j ∈ js, counts j ∧ table[j].record.cls = .safety) →
    (setFailure present regions table members = none ↔ ∀ i ∈ members, ∀ code, ¬ fails i code)
    ∧ (∀ i code, setFailure present regions table members = some (i, code) ↔
      ∃ before after, members = before ++ i :: after ∧ (∀ j ∈ before, ∀ c, ¬ fails j c) ∧ fails i code
        ∧ ∀ c : DetailCode, c.number < code.number → ¬ fails i c)
    ∧ ∀ (t : LayerTable) (j : Fin 24), (t.candidates members)[j].owner = t.slots[j].owner
      ∧ (j ∈ members → (t.candidates members)[j].record = t.slots[j].staged)
      ∧ (j ∉ members → (t.candidates members)[j].record = t.slots[j].active)

/-- On a FORCE of slot i that reaches the Layer Table: a value above 2 gives BAD_FIELD 01h; a slot of owner
NONE gives NOT_OWNER; otherwise the force takes the value, the rest of the slot stays, and the reply is DONE
with the force before. On a SET_PALETTE that reaches the Composer: a count other than 16 gives BAD_FIELD 0Fh;
otherwise DONE, entry i of the palette has the three bytes from 1 + 3 i of the payload as red, green and blue,
and nothing else changes. (R5, R153, R154.) -/
def Obligations.ForceAndPaletteAreWrittenByBody : Prop :=
  (∀ (s : State) (r : Request) (i : Fin 24), s.Reaches .body .force r → (r.arg 0).toNat = i.val →
    ∀ x : LayerSlot, x = s.ltb.slots[i] →
    (2 < (r.arg 1).toNat → exec (.force .body) s = .next (s.replied .body r .badField 0x01#8 []))
    ∧ (∀ f : Force, r.arg 1 = byte f.number → x.owner = .none →
        exec (.force .body) s = .next (s.replied .body r .notOwner 0#8 []))
    ∧ (∀ f : Force, r.arg 1 = byte f.number → x.owner ≠ .none →
        exec (.force .body) s = .next ((s.setSlot i ⟨x.owner, x.status, x.staged, x.active, f⟩).replied .body r
          .done 0#8 [byte x.force.number])))
  ∧ ∀ (s : State) (r : Request), s.Reaches .body .setPalette r →
    ((r.arg 0).toNat ≠ 16 → exec (.setPalette .body) s = .next (s.replied .body r .badField 0x0F#8 []))
    ∧ ((r.arg 0).toNat = 16 → ∃ palette : Vector Colour 16,
        exec (.setPalette .body) s = .next ((s.setCmp { s.cmp with palette := palette }).replied .body r .done 0#8 [])
        ∧ ∀ i : Fin 16, palette[i] = ⟨r.arg (1 + 3 * i.val), r.arg (2 + 3 * i.val), r.arg (3 + 3 * i.val)⟩)

/-- On a request that reaches the timebase: SET_PERIOD v is BAD_FIELD 01h unless v lies in 736 to 1023 and
above Lc, PH and every strobe line, and else writes P' alone; SET_COMMIT_LINE v is BAD_FIELD 02h unless v lies
in 720 to 1022 and below P and P', and else writes Lc alone; SET_STROBE of camera k is BAD_FIELD 03h for a
camera above 3, 04h for a line not below P and P', and else writes Sk alone; SET_GENLOCK is BAD_FIELD 05h for
an enable above 1, 06h for a phase not below P and P', and else writes PH, GL and the genlock state and counts
of R58. Each accepted one answers DONE with the report after it. The report holds C, F, P, P', Lc and S0 to S3
in two bytes each, GL in one, PH in two, the genlock state (0 FREE, 1 HUNTING, 2 LOCKED) and the two counts in
one each, and the last slip in two, low bytes first. (R54, R55, R56, R57, R58, R187.) -/
def Obligations.TimebaseSettingsAreChecked : Prop :=
  (∀ f : Timebase, f.report = le 2 f.line ++ le 2 f.frame.toNat ++ le 2 f.period ++ le 2 f.stagedPeriod
      ++ le 2 f.commitLine ++ le 2 f.strobes[0] ++ le 2 f.strobes[1] ++ le 2 f.strobes[2] ++ le 2 f.strobes[3]
      ++ [flag f.genlockOn] ++ le 2 f.phase
      ++ [match f.genlock with | .free => 0#8 | .hunting => 1#8 | .locked => 2#8, byte f.missed, byte f.good]
      ++ le 2 f.lastSlip)
  ∧ ∀ (p : Port) (s : State) (r : Request) (v w : Nat), v = fromLe ((r.payload.drop 0).take 2) →
    w = fromLe ((r.payload.drop 1).take 2) →
    (s.Reaches p .setPeriod r →
      ((736 ≤ v ∧ v ≤ 1023 ∧ s.ftb.commitLine < v ∧ s.ftb.phase < v ∧ ∀ k : Fin 4, s.ftb.strobes[k] < v) →
        exec (.setPeriod p) s = .next ((s.setFtb { s.ftb with stagedPeriod := v }).replied p r .done 0#8
          { s.ftb with stagedPeriod := v }.report))
      ∧ (¬ (736 ≤ v ∧ v ≤ 1023 ∧ s.ftb.commitLine < v ∧ s.ftb.phase < v
            ∧ ∀ k : Fin 4, s.ftb.strobes[k] < v) →
        exec (.setPeriod p) s = .next (s.replied p r .badField 0x01#8 [])))
    ∧ (s.Reaches p .setCommitLine r →
      ((720 ≤ v ∧ v ≤ 1022 ∧ v < s.ftb.period ∧ v < s.ftb.stagedPeriod) →
        exec (.setCommitLine p) s = .next ((s.setFtb { s.ftb with commitLine := v }).replied p r .done 0#8
          { s.ftb with commitLine := v }.report))
      ∧ (¬ (720 ≤ v ∧ v ≤ 1022 ∧ v < s.ftb.period ∧ v < s.ftb.stagedPeriod) →
        exec (.setCommitLine p) s = .next (s.replied p r .badField 0x02#8 [])))
    ∧ (s.Reaches p .setStrobe r →
      (3 < (r.arg 0).toNat → exec (.setStrobe p) s = .next (s.replied p r .badField 0x03#8 []))
      ∧ (∀ k : Fin 4, (r.arg 0).toNat = k.val →
        ((w < s.ftb.period ∧ w < s.ftb.stagedPeriod) →
          exec (.setStrobe p) s = .next ((s.setFtb { s.ftb with strobes := s.ftb.strobes.set k w }).replied p r
            .done 0#8 { s.ftb with strobes := s.ftb.strobes.set k w }.report))
        ∧ (¬ (w < s.ftb.period ∧ w < s.ftb.stagedPeriod) →
          exec (.setStrobe p) s = .next (s.replied p r .badField 0x04#8 []))))
    ∧ (s.Reaches p .setGenlock r →
      (1 < (r.arg 0).toNat → exec (.setGenlock p) s = .next (s.replied p r .badField 0x05#8 []))
      ∧ (∀ on : Bool, r.arg 0 = flag on →
        (¬ (w < s.ftb.period ∧ w < s.ftb.stagedPeriod) →
          exec (.setGenlock p) s = .next (s.replied p r .badField 0x06#8 []))
        ∧ ((w < s.ftb.period ∧ w < s.ftb.stagedPeriod) → ∀ f : Timebase,
          f = (if on = false then
                { s.ftb with genlockOn := on, phase := w, genlock := .free, missed := 0, good := 0 }
              else if s.ftb.genlockOn = false then
                { s.ftb with genlockOn := on, phase := w, genlock := .hunting, missed := 0, good := 0 }
              else { s.ftb with genlockOn := on, phase := w }) →
          exec (.setGenlock p) s = .next ((s.setFtb f).replied p r .done 0#8 f.report))))

/-- A RESYNC that reaches the timebase answers DONE with the slip and the report, and only makes a load due. A
DSYNC does nothing while the timebase is held, genlock is off, or one was taken in this line; otherwise it
makes a load due and stores the slip as the last slip, the missed-sync count 0; with a slip of at most 2 the
good-sync count rises to at most 2 and, at 2, HUNTING becomes LOCKED with GENLOCK_ACQUIRED raised to all
ports; with a greater slip the good-sync count is 0, the state stays and SYNC_SLIP is raised. With the counter
and PH below the period, n the next value and d the distance PH minus n, plus P if negative, the slip is the
smaller of d and P minus d. Each slip is that of PH as it stands when the pulse or request is taken, which is
the model's deduction where SET_GENLOCK has changed PH within the line (log 15). (R59, R60, R62, R63, R64.) -/
def Obligations.ResyncAndDsyncMakeOneLoad : Prop :=
  (∀ (p : Port) (s : State) (r : Request), s.Reaches p .resync r →
    exec (.resync p) s = .next ((s.setFtb { s.ftb with resyncDue := true }).replied p r .done 0#8
      (le 2 s.ftb.slip ++ s.ftb.report)))
  ∧ ∀ (s : State) (g : Nat), g = min 2 (s.ftb.good + 1) →
    ((s.ftb.run = .held ∨ s.ftb.genlockOn = false ∨ s.ftb.dsyncDue = true) → exec .dsync s = .next s)
    ∧ (s.ftb.run = .running → s.ftb.genlockOn = true → s.ftb.dsyncDue = false →
      (2 < s.ftb.slip → exec .dsync s = .next ((s.setFtb { s.ftb with
          missed := 0, lastSlip := s.ftb.slip, dsyncDue := true, dsyncSinceTop := true, good := 0 }).raiseAll
            .syncSlip 0 0))
      ∧ (s.ftb.slip ≤ 2 → s.ftb.genlock = .hunting → g = 2 → exec .dsync s = .next ((s.setFtb { s.ftb with
          missed := 0, lastSlip := s.ftb.slip, dsyncDue := true, dsyncSinceTop := true, good := 2
          genlock := .locked }).raiseAll .genlockAcquired 0 0))
      ∧ (s.ftb.slip ≤ 2 → (s.ftb.genlock ≠ .hunting ∨ g ≠ 2) → exec .dsync s = .next (s.setFtb { s.ftb with
          missed := 0, lastSlip := s.ftb.slip, dsyncDue := true, dsyncSinceTop := true, good := g })))
    ∧ (s.ftb.line < s.ftb.period → s.ftb.phase < s.ftb.period →
      ∀ n d : Nat, n = (if s.ftb.line + 1 = s.ftb.period then 0 else s.ftb.line + 1) →
        (d : Int) = (if (s.ftb.phase : Int) - n < 0 then (s.ftb.phase : Int) - n + s.ftb.period
          else (s.ftb.phase : Int) - n) →
        s.ftb.slip = if d ≤ s.ftb.period - d then d else s.ftb.period - d)

/-- LINE_END does nothing while the timebase is held. Running, the counter takes PH if a load is due, else the
next value (0 after P - 1), and no load is due any more; a due load takes PH as it stands at the end of the
line, which is the model's deduction (log 15). At a value other than 0 the rest of the timebase, the plan,
both output modes, the palette and the overflow state stay, and RSYNC is not pulsed. At 0, with the commit
line in the blanking lines: F rises by 1, P takes P', RSYNC is pulsed; with genlock on and no DSYNC since the
last TOP the missed-sync count rises to at most 3, the good-sync count is 0, and LOCKED with the count at 3
becomes HUNTING with GENLOCK_LOST raised; each camera takes its plan request; the Composer takes the plan of
the state so left, its overflow state is whether layers were left out, raising PLAN_OVERFLOW when it was not,
the output mode is PICTURE in RUN and BLACK in QUIET, the recorder mode SEND or HOLD by REC_HOLD in RUN and
OFF in QUIET, the stopped set empty; a frame being sent to the recorder whose metadata record was not sent has
it sent marked ended early; and then line 0 is drawn and the cameras whose strobe line is 0 are strobed. The
alerts come in the order GENLOCK_LOST, cameras 0 to 3, PLAN_OVERFLOW, which is the model's choice (log 11),
and carry the new F. Memory errors that have come about are log 8's. (R51, R52, R59, R62, R63, R64, R76, R146,
R147, R156, R157, R158.) -/
def Obligations.LineEndMovesCounter : Prop :=
  ∀ (out : Surroundings) (order : LineOrder) (s : State),
    (s.ftb.run = .held → exec (.lineEnd out order) s = .next s)
    ∧ (s.ftb.run = .running → ∀ v : Nat,
        v = (if s.ftb.dsyncDue = true ∨ s.ftb.resyncDue = true then s.ftb.phase
          else if s.ftb.line + 1 < s.ftb.period then s.ftb.line + 1 else 0) →
        (v ≠ 0 → ∃ t, exec (.lineEnd out order) s = .next t
          ∧ t.ftb = { s.ftb with line := v, dsyncDue := false, resyncDue := false }
          ∧ t.links.rsync = false ∧ t.cmp.plan = s.cmp.plan ∧ t.cmp.output = s.cmp.output
          ∧ t.cmp.recorder = s.cmp.recorder ∧ t.cmp.palette = s.cmp.palette ∧ t.cmp.overflow = s.cmp.overflow
          ∧ t.pins = s.pins)
        ∧ (v = 0 → 720 ≤ s.ftb.commitLine → ∀ (missing lost : Bool) (missed : Nat) (f : Timebase),
          missing = (s.ftb.genlockOn && !s.ftb.dsyncSinceTop) →
          missed = (if missing then min 3 (s.ftb.missed + 1) else s.ftb.missed) →
          lost = (missing && decide (s.ftb.genlock = .locked) && decide (missed = 3)) →
          f = { s.ftb with
            line := 0, dsyncDue := false, resyncDue := false, frame := s.ftb.frame + 1#16
            period := s.ftb.stagedPeriod, dsyncSinceTop := false, missed := missed
            good := if missing then 0 else s.ftb.good
            genlock := if lost then .hunting else s.ftb.genlock } →
          ∀ told : Nat → State, told 0 = (if lost then (s.setFtb f).raiseAll .genlockLost 0 0 else s.setFtb f) →
          (∀ k : Fin 4, told (k.val + 1) = match s.cams.links[k].planRequest.2 with
            | some code => (told k.val).raiseAll code k.val 0
            | none => told k.val) →
          ∃ d : State, d.ftb = f ∧ d.ltb = s.ltb ∧ d.scn = s.scn ∧ d.mkm = s.mkm ∧ d.stc = s.stc ∧ d.fst = s.fst
            ∧ d.pending = s.pending ∧ d.ovm = s.ovm.suffer out.upsets ∧ d.pins = { s.pins with recHold := out.recHold }
            ∧ d.cams.population = s.cams.population ∧ d.cams.source = s.cams.source
            ∧ (∀ k : Fin 4, d.cams.links[k] = s.cams.links[k].planRequest.1)
            ∧ d.cmp = ⟨some d.planNow, s.cmp.palette, decide (0 < d.planNow.leftOut),
                match s.stc.part with | .run => .picture | .quiet => .black | .boot | .dormant => .off,
                match s.stc.part with
                  | .run => if out.recHold then .hold else .send
                  | .quiet | .boot | .dormant => .off, [], false⟩
            ∧ d.ports = (if 0 < d.planNow.leftOut ∧ s.cmp.overflow = false then (told 4).raiseAll .planOverflow 0 0
                else told 4).ports
            ∧ d.links.display = .nothing ∧ d.links.recorder = .nothing ∧ d.links.rsync = true
            ∧ (∀ plan, s.cmp.recorder = .send → s.cmp.plan = some plan → s.cmp.metadataSent = false →
                d.links.metadata = some (plan.metadata s.cmp.stopped true))
            ∧ (s.cmp.recorder ≠ .send ∨ s.cmp.plan = none ∨ s.cmp.metadataSent = true → d.links.metadata = none)
            ∧ ∃ strobed : Vector Bool 4,
              exec (.lineEnd out order) s
                = .next ((d.drawLine 0).setLinks { (d.drawLine 0).links with strobed := strobed })
              ∧ ∀ k : Fin 4, strobed[k] = true ↔ (s.ftb.strobes[k] = 0
                ∧ s.cams.links[k].link ∈ [LinkState.starting, .locked, .lost] ∧ s.cams.links[k].powerOff = none)))

/-- At a LINE_END that takes value v, running and with the commit line in the blanking lines: the Layer Table
is the one the COMMIT event leaves if v is Lc, else it is unchanged; at 720 every marker's age rises by 1,
those that reach their ttl are gone and NEAR is recomputed, else the map is unchanged; from 720 on neither
link sends a line, no metadata record is sent and RSYNC is not pulsed, the Composer and the Fitting Store are
as they were, the timebase but for its counter and the loads due, and Overlay Memory but for the words named
as now in error (log 8); above 720 the cameras and the part state are as they were, and the ports hold the
COMMIT event's replies if v is Lc and else nothing new; and at a value other than 0 and 720 camera k is
strobed exactly if v is Sk, its link is STARTING, LOCKED or LOST and its power-off timer is stopped; at 720 by
its link before the BLANK if the strobes are taken first, else by its link as the BLANK leaves it (R53 leaves
the order open: an operand, log 10). At 1 to 719 the next state is the one that drawing line v leaves (stated
separately), memory errors that have come about included (log 8), with the strobes; after line 719 of a frame
with the recorder mode SEND whose metadata record has not been sent, it is sent, not marked ended early, with
the stopped set as drawing left it, and is not sent a second time. The metadata record has the bytes of
11.1.7: 5Ah, frame number, ended early and genlock state (log 28), the entries' slots, classes, kinds and
record fields, left out, the stopped set as bits, each camera's link state and HELD sequence or FFFFh, the
signals as bits, the marker and near counts; a bit that 11.1.7 does not assign in byte 3 or an entry's byte is
0 (the model's choice, log 29). (R36, R45, R51, R52, R73, R113, R116, R148, R155, R156, R158,
11_record_formats 11.1.7.) -/
def Obligations.LineEventsAtTheirLines : Prop :=
  (∀ (out : Surroundings) (order : LineOrder) (s : State) (v : Nat), s.ftb.run = .running →
    720 ≤ s.ftb.commitLine → v = s.ftb.arrival →
    (∃ t, exec (.lineEnd out order) s = .next t
      ∧ (v = s.ftb.commitLine → t.ltb = s.commitEvent.ltb) ∧ (v ≠ s.ftb.commitLine → t.ltb = s.ltb)
      ∧ (v = 720 → t.mkm.markers = (s.mkm.markers.filter (fun m => decide (m.age + 1 ≠ m.ttl))).map
            (fun m => { m with age := m.age + 1 })
          ∧ t.scn.near = t.mkm.markers.any Marker.near)
      ∧ (v ≠ 720 → t.mkm = s.mkm ∧ t.scn = s.scn)
      ∧ (720 ≤ v → t.links.display = .nothing ∧ t.links.recorder = .nothing ∧ t.links.metadata = none
          ∧ t.links.rsync = false ∧ t.cmp = s.cmp ∧ t.fst = s.fst ∧ t.pins = s.pins
          ∧ t.ftb = { s.ftb with line := v, dsyncDue := false, resyncDue := false }
          ∧ t.ovm.regions = s.ovm.regions ∧ t.ovm.jobs = s.ovm.jobs ∧ t.ovm.corrected = s.ovm.corrected
          ∧ t.ovm.memory = s.ovm.memory ∧ t.ovm.epoch = s.ovm.epoch
          ∧ (∀ w, (∀ u ∈ out.upsets, u.word ≠ w) → t.ovm.readCheck w = s.ovm.readCheck w)
          ∧ (∀ u ∈ out.upsets, u.word < 32768 → (∀ z ∈ out.upsets, z.word = u.word → z = u) →
            t.ovm.readCheck u.word = match u.error with | .single => .single | .double => .double))
      ∧ (720 < v → t.cams = s.cams ∧ t.stc = s.stc
          ∧ t.ports = if v = s.ftb.commitLine then s.commitEvent.ports else s.ports)
      ∧ (v ≠ 0 → v ≠ 720 → ∀ k : Fin 4, t.links.strobed[k] = true ↔
          (s.ftb.strobes[k] = v ∧ s.cams.links[k].link ∈ [LinkState.starting, .locked, .lost]
            ∧ s.cams.links[k].powerOff = none))
      ∧ (v = 720 → ∀ (k : Fin 4) (x : CameraLink),
          x = (if order.strobeFirst then s.cams.links[k] else t.cams.links[k]) →
          (t.links.strobed[k] = true ↔ (s.ftb.strobes[k] = 720 ∧ x.link ∈ [LinkState.starting, .locked, .lost]
            ∧ x.powerOff = none))))
    ∧ (1 ≤ v → v ≤ 719 → ∀ u : State,
        u = (((s.setLinks ⟨.nothing, .nothing, none, false, #v[false, false, false, false]⟩).setOvm
          (s.ovm.suffer out.upsets)).setFtb
            { s.ftb with line := v, dsyncDue := false, resyncDue := false }).drawLine v →
        ∃ strobed : Vector Bool 4,
          (∀ plan, v = 719 → u.cmp.recorder = .send → u.cmp.plan = some plan → u.cmp.metadataSent = false →
            exec (.lineEnd out order) s = .next ((u.setLinks { u.links with
              metadata := some (plan.metadata u.cmp.stopped false), strobed := strobed }).setCmp
                { u.cmp with metadataSent := true }))
          ∧ (v ≠ 719 ∨ u.cmp.recorder ≠ .send ∨ u.cmp.plan = none ∨ u.cmp.metadataSent = true →
            exec (.lineEnd out order) s = .next (u.setLinks { u.links with strobed := strobed }))))
  ∧ ∀ (plan : FramePlan) (stopped : List (Fin 24)) (early : Bool) (held : Fin 4 → List Byte),
    (∀ (k : Fin 4) i seq, plan.answers[k].held = some (i, seq) → held k = le 2 seq.toNat) →
    (∀ k : Fin 4, plan.answers[k].held = none → held k = [0xFF#8, 0xFF#8]) →
    ∃ b c : List Byte, b.length = 3 ∧ (∀ k : Fin 24, (b.getD (k.val / 8) 0#8).getLsbD (k.val % 8) = decide (k ∈ stopped))
      ∧ c.length = 3 ∧ (∀ k : Fin 18, (c.getD (k.val / 8) 0#8).getLsbD (k.val % 8) = plan.signals[k])
      ∧ plan.metadata stopped early = [0x5A#8] ++ le 2 plan.frame.toNat
        ++ [byte ((if early then 1 else 0) + 2 * plan.genlock.number), byte plan.entries.length]
        ++ plan.entries.flatMap (fun e => [byte e.slot.val, byte (e.record.cls.number + 2 * e.record.part.kind.number
            + (if e.record.record then 8 else 0))])
        ++ [byte plan.leftOut] ++ b
        ++ (List.finRange 4).flatMap (fun k => byte plan.answers[k].link.number :: held k) ++ c
        ++ [byte plan.markers.length, byte (plan.markers.filter Marker.near).length]

/-- At a LINE_END that takes 720, in RUN or QUIET: the test reads NEAR as aging leaves it where aging is taken
first, else as it was, and the table the COMMIT event leaves where the commit line is 720 and COMMIT is taken
first, else as it was. In RUN with no entry nothing changes; with an entry the part enters QUIET, with no
entry left and every STARTING, LOCKED or LOST camera IDLE, powered unless in its power-off, with its slots
FREE, exactly if STOPPED holds and no enabled, owned SAFETY layer with a term has its condition true: DONE
under the entry's tag and STATE_CHANGED (subject 2, detail 02h), in the order the command gives (log 10); else
it stays in RUN with no entry and REFUSED_CONDITION 03h or, with STOPPED, 04h. In QUIET it returns to RUN
exactly if STOPPED fails, such a condition is true or the run request is yes: the run request is no, every
IDLE camera STARTING, and STATE_CHANGED raised with subject 1 and detail 03h, 04h or 05h, the first that
applies; else nothing changes. The ports hold these and, with the commit line at 720, the COMMIT event's
replies before or after them, and nothing else new. (R53, R82, R83, R99, R113, R174, R176, R177, R180.) -/
def Obligations.QuietIsTestedAtBlank : Prop :=
  ∀ (out : Surroundings) (order : LineOrder) (s : State), s.ftb.run = .running → s.ftb.arrival = 720 →
    ∀ (aged : List Marker) (scn : Conditioner) (table : LayerTable),
    aged = (s.mkm.markers.filter (fun m => decide (m.age + 1 ≠ m.ttl))).map (fun m => { m with age := m.age + 1 }) →
    scn = (if order.agingFirst then { s.scn with near := aged.any Marker.near } else s.scn) →
    table = (if s.ftb.commitLine = 720 ∧ order.commitFirst = true then s.commitEvent.ltb else s.ltb) →
    ∀ safety : Prop, (safety ↔ ∃ i : Fin 24, table.slots[i].owner ≠ .none ∧ table.slots[i].active.enabled = true
      ∧ table.slots[i].active.cls = .safety ∧ table.slots[i].active.condition ≠ []
      ∧ ∀ x ∈ table.slots[i].active.condition, scn.signal x.signal = x.level) →
    ∃ (t : State) (told : State → State), exec (.lineEnd out order) s = .next t
      ∧ t.ports = (if s.ftb.commitLine ≠ 720 then told s
          else if order.commitFirst then told s.commitEvent else (told s).commitEvent).ports
      ∧ (s.stc.part = .run → s.stc.entry = none → t.stc = s.stc ∧ t.cams = s.cams ∧ told = id)
      ∧ (∀ e, s.stc.part = .run → s.stc.entry = some e →
          (s.scn.stopped = true ∧ ¬ safety → t.stc = ⟨.quiet, none, false⟩
              ∧ (∀ (k : Fin 4) (x : CameraLink), x = s.cams.links[k] → t.cams.links[k] =
                  if x.link ∈ [LinkState.starting, .locked, .lost] then { x with
                    link := .idle, slots := #v[.free, .free, .free], miss := 0, fresh := 0, starting := 0
                    power := x.powerOff.isNone } else x)
              ∧ told = fun u => if order.replyFirst then
                  (u.post e.port ⟨e.tag, 0x71#8, .done, 0#8, []⟩).raiseAll .stateChanged 2 2
                else (u.raiseAll .stateChanged 2 2).post e.port ⟨e.tag, 0x71#8, .done, 0#8, []⟩)
          ∧ (s.scn.stopped = false ∨ safety → t.stc = { s.stc with entry := none } ∧ t.cams = s.cams
              ∧ told = fun u => u.post e.port ⟨e.tag, 0x71#8, .refusedCondition, 0#8,
                  [if s.scn.stopped = false then 0x03#8 else 0x04#8]⟩))
      ∧ (s.stc.part = .quiet →
          (s.scn.stopped = false ∨ safety ∨ s.stc.runRequest = true → t.stc = ⟨.run, none, false⟩
              ∧ (∀ (k : Fin 4) (x : CameraLink), x = s.cams.links[k] → t.cams.links[k] =
                  if x.link = .idle then { x with
                    link := .starting, miss := 0, fresh := 0, starting := 0, power := x.powerOff.isNone } else x)
              ∧ (s.scn.stopped = false → told = fun u => u.raiseAll .stateChanged 1 3)
              ∧ (s.scn.stopped = true → safety → told = fun u => u.raiseAll .stateChanged 1 4)
              ∧ (s.scn.stopped = true → ¬ safety → told = fun u => u.raiseAll .stateChanged 1 5))
          ∧ (s.scn.stopped = true → ¬ safety → s.stc.runRequest = false →
              t.stc = s.stc ∧ t.cams = s.cams ∧ told = id))

/-- On a request that reaches Overlay Memory. ALLOC n: BAD_FIELD 01h outside 1 to 64; with a FREE entry and a
free run, the lowest-numbered FREE entry takes the lowest run of n free blocks, EMPTY, owned by the port, and
the reply is DONE with region, first block and count; with no FREE entry or no run NO_SPACE. FREE g: BAD_FIELD
01h above 15; a FREE region or another port's NOT_OWNER; a LOADING one BUSY; a referenced one IN_USE; else the
entry is FREE and the reply DONE. A region is referenced while the staged or the active copy of any slot,
whatever its owner and status, is a BITMAP that names it. ECC_CLEAR: the count becomes 0 and the reply is DONE
with the count before. (R122, R123, R124, R125, R137.) -/
def Obligations.RegionRequestsByRule : Prop :=
  ∀ (p : Port) (s : State) (r : Request) (n : Nat), n = (r.arg 0).toNat →
    ∀ free : Nat → Prop, (∀ b, free b ↔ ∀ (g : Fin 16) (x : Region), s.ovm.regions[g] = some x →
      ¬ (x.first ≤ b ∧ b < x.first + x.count)) →
    ∀ run : Nat → Prop, (∀ b, run b ↔ b + n ≤ 64 ∧ ∀ i, i < n → free (b + i)) →
    ∀ referenced : Fin 16 → Prop, (∀ g, referenced g ↔ ∃ (i : Fin 24) (b : BitmapPart),
      b.region = g ∧ (s.ltb.slots[i].staged.part = .bitmap b ∨ s.ltb.slots[i].active.part = .bitmap b)) →
    (s.Reaches p .alloc r →
      (n < 1 ∨ 64 < n → exec (.alloc p) s = .next (s.replied p r .badField 0x01#8 []))
      ∧ (1 ≤ n → n ≤ 64 → ((∀ g : Fin 16, s.ovm.regions[g] ≠ none) ∨ ∀ b, ¬ run b) →
          exec (.alloc p) s = .next (s.replied p r .noSpace 0#8 []))
      ∧ (∀ (g : Fin 16) (b : Nat), 1 ≤ n → n ≤ 64 → s.ovm.regions[g] = none →
          (∀ h : Fin 16, h < g → s.ovm.regions[h] ≠ none) → run b → (∀ c, c < b → ¬ run c) →
          exec (.alloc p) s = .next ((s.setOvm { s.ovm with
            regions := s.ovm.regions.set g (some ⟨b, n, p, .empty⟩) }).replied p r .done 0#8
              [byte g.val, byte b, byte n])))
    ∧ (s.Reaches p .free r →
      (15 < n → exec (.free p) s = .next (s.replied p r .badField 0x01#8 []))
      ∧ (∀ g : Fin 16, n = g.val →
        ((∀ x, s.ovm.regions[g] = some x → x.owner ≠ p) →
          exec (.free p) s = .next (s.replied p r .notOwner 0#8 []))
        ∧ (∀ x, s.ovm.regions[g] = some x → x.owner = p →
          (x.content = .loading → exec (.free p) s = .next (s.replied p r .busy 0#8 []))
          ∧ (x.content ≠ .loading → referenced g →
            exec (.free p) s = .next (s.replied p r .inUse 0#8 []))
          ∧ (x.content ≠ .loading → ¬ referenced g →
            exec (.free p) s = .next ((s.setOvm { s.ovm with
              regions := s.ovm.regions.set g none }).replied p r .done 0#8 [])))))
    ∧ (s.Reaches p .eccClear r →
      exec (.eccClear p) s = .next ((s.setOvm { s.ovm with corrected := 0 }).replied p r .done 0#8
        [byte s.ovm.corrected]))

/-- On an OPEN_LOAD that reaches the Load Engine: a region number above 15 gives BAD_FIELD 01h. Of region g: a
FREE region or another port's gives NOT_OWNER; a port with a job BUSY; a length outside 1 to the region's
bytes BAD_FIELD 02h; a referenced region that is not FAULTED IN_USE, referenced meaning that the staged or the
active copy of any slot, whatever its owner and status, is a BITMAP that names it. Otherwise DONE: the region
is LOADING and the port has a job of that region, length and CRC with cursor 0 and sequence 0; with no job
RECEIVING or VERIFYING it is RECEIVING with 2000 ms; with one VERIFYING, or one of higher rank RECEIVING, it
is SUSPENDED; a lower-rank RECEIVING job becomes SUSPENDED and its port has LOAD_SUSPENDED raised. (R123,
R127, R128, R129, R136, R139.) -/
def Obligations.OpenLoadByRule : Prop :=
  (∀ (p : Port) (s : State) (r : Request), s.Reaches p .openLoad r → 15 < (r.arg 0).toNat →
    exec (.openLoad p) s = .next (s.replied p r .badField 0x01#8 []))
  ∧ ∀ (p : Port) (s : State) (r : Request) (g : Fin 16) (length : Nat) (crc : Word32),
    s.Reaches p .openLoad r → (r.arg 0).toNat = g.val → length = fromLe ((r.payload.drop 1).take 4) →
    crc = BitVec.ofNat 32 (fromLe ((r.payload.drop 5).take 4)) → s.ovm.JobsGood →
    ∀ referenced : Prop, (referenced ↔ ∃ (i : Fin 24) (b : BitmapPart),
      b.region = g ∧ (s.ltb.slots[i].staged.part = .bitmap b ∨ s.ltb.slots[i].active.part = .bitmap b)) →
    ((∀ x, s.ovm.regions[g] = some x → x.owner ≠ p) →
      exec (.openLoad p) s = .next (s.replied p r .notOwner 0#8 []))
    ∧ ∀ x : Region, s.ovm.regions[g] = some x → x.owner = p →
      (s.ovm.jobs.get p ≠ none → exec (.openLoad p) s = .next (s.replied p r .busy 0#8 []))
      ∧ (s.ovm.jobs.get p = none →
        (length < 1 ∨ x.count * 4096 < length →
          exec (.openLoad p) s = .next (s.replied p r .badField 0x02#8 []))
        ∧ (1 ≤ length → length ≤ x.count * 4096 →
          (referenced → (∀ c, x.content ≠ .faulted c) →
            exec (.openLoad p) s = .next (s.replied p r .inUse 0#8 []))
          ∧ (¬ referenced ∨ (∃ c, x.content = .faulted c) →
            ∀ (o : Overlay) (job : JobState → Job),
              o = { s.ovm with regions := s.ovm.regions.set g (some ⟨x.first, x.count, p, .loading⟩) } →
              job = (fun st => ⟨g, length, crc, 0, 0#8, st, true⟩) →
              ((∀ q j, s.ovm.jobs.get q = some j → j.isSuspended = true) →
                exec (.openLoad p) s = .next ((s.setOvm { o with
                  jobs := o.jobs.set p (some (job (.receiving 2000))) }).replied p r .done 0#8 [0#8, 0#8]))
              ∧ (∀ q j, s.ovm.jobs.get q = some j → (j.isVerifying = true
                    ∨ (j.isReceiving = true ∧ Port.number q < Port.number p)) →
                exec (.openLoad p) s = .next ((s.setOvm { o with
                  jobs := o.jobs.set p (some (job .suspended)) }).replied p r .done 0#8 [1#8, 0#8]))
              ∧ (∀ q j, s.ovm.jobs.get q = some j → j.isReceiving = true → Port.number p < Port.number q →
                exec (.openLoad p) s = .next (((s.setOvm { o with
                  jobs := (o.jobs.set q (some { j with state := .suspended })).set p
                    (some (job (.receiving 2000))) }).raiseTo q .loadSuspended j.region.val 0).replied p r
                      .done 0#8 [0#8, 0#8])))))

/-- On a LOAD_DATA that reaches the Load Engine: no job WRONG_STATE; a chunk length outside 1 to 256 BAD_FIELD
05h; a VERIFYING job BUSY; a SUSPENDED one HELD; a wrong sequence number SEQUENCE with the one expected; a
chunk past the length BAD_FIELD 05h; each with nothing else changed. A chunk accepted inside Overlay Memory is
read back from the region's base plus the cursor, every other byte as before; a word it covers reads without
error, a word it does not touch reads as before, and a word it touches in part reads without error or, where
it did not before, as before (a free value, log 8); cursor and sequence number rise; below the length the
timer has 2000 ms and the reply is DONE with cursor and sequence number, at the length the job is VERIFYING
with a millisecond for each block reached and the request is open. ABORT_LOAD without a job is WRONG_STATE, of
a VERIFYING job BUSY. (R121, R127, R131, R132, R133, R165.) -/
def Obligations.LoadDataAndAbort : Prop :=
  ∀ (p : Port) (s : State) (r : Request) (chunk : List Byte), chunk = r.payload.drop 1 →
    (s.Reaches p .loadData r →
      (s.ovm.jobs.get p = none → exec (.loadData p) s = .next (s.replied p r .wrongState 0#8 []))
      ∧ ∀ j : Job, s.ovm.jobs.get p = some j →
        ((chunk.length < 1 ∨ 256 < chunk.length) →
          exec (.loadData p) s = .next (s.replied p r .badField 0x05#8 []))
        ∧ (1 ≤ chunk.length → chunk.length ≤ 256 →
          (j.isVerifying = true → exec (.loadData p) s = .next (s.replied p r .busy 0#8 []))
          ∧ (j.isSuspended = true → exec (.loadData p) s = .next (s.replied p r .held 0#8 []))
          ∧ (j.isReceiving = true → r.arg 0 ≠ j.nextSeq →
              exec (.loadData p) s = .next (s.replied p r .sequence 0#8 [j.nextSeq]))
          ∧ (j.isReceiving = true → r.arg 0 = j.nextSeq → j.length < j.cursor + chunk.length →
              exec (.loadData p) s = .next (s.replied p r .badField 0x05#8 []))
          ∧ (∀ x : Region, j.isReceiving = true → r.arg 0 = j.nextSeq → j.cursor + chunk.length ≤ j.length →
              s.ovm.regions[j.region] = some x → 4096 * x.first + j.cursor + chunk.length ≤ 262144 →
              s.MemoryGood → ∃ o : Overlay,
                o.regions = s.ovm.regions ∧ o.corrected = s.ovm.corrected
                ∧ (∀ a, o.byteAt a =
                    if 4096 * x.first + j.cursor ≤ a ∧ a < 4096 * x.first + j.cursor + chunk.length then
                      chunk.getD (a - (4096 * x.first + j.cursor)) 0#8
                    else s.ovm.byteAt a)
                ∧ (∀ w base last, base = 4096 * x.first + j.cursor → last = base + chunk.length →
                  (base ≤ 8 * w → 8 * w + 8 ≤ last → o.readCheck w = .clean)
                  ∧ (8 * w + 8 ≤ base ∨ last ≤ 8 * w → o.readCheck w = s.ovm.readCheck w)
                  ∧ (o.readCheck w = .clean ∨ o.readCheck w = s.ovm.readCheck w))
                ∧ (j.cursor + chunk.length < j.length →
                    exec (.loadData p) s = .next ((s.setOvm o).replied p r .done 0#8
                      (le 4 (j.cursor + chunk.length) ++ [j.nextSeq + 1#8]))
                    ∧ o.jobs = s.ovm.jobs.set p (some { j with
                        cursor := j.cursor + chunk.length, nextSeq := j.nextSeq + 1#8, state := .receiving 2000 }))
                ∧ (j.cursor + chunk.length = j.length →
                    exec (.loadData p) s = .next ((s.setOvm o).taken p)
                    ∧ o.jobs = s.ovm.jobs.set p (some { j with
                        cursor := j.length, nextSeq := j.nextSeq + 1#8
                        state := .verifying ((j.length + 4095) / 4096) r.tag })))))
    ∧ (s.Reaches p .abortLoad r →
      (s.ovm.jobs.get p = none → exec (.abortLoad p) s = .next (s.replied p r .wrongState 0#8 []))
      ∧ (∀ j : Job, s.ovm.jobs.get p = some j → j.isVerifying = true →
          exec (.abortLoad p) s = .next (s.replied p r .busy 0#8 [])))

/-- In a state that keeps the load engine's relations: an ABORT_LOAD of a job that is not VERIFYING answers
DONE with the cursor; RECEIVE_TIMEOUT with a RECEIVING job raises LOAD_TIMEOUT to its port; VERIFICATION_END
with a VERIFYING one answers a next state. In each the port has no job any more and the job's region is EMPTY,
or, after verification, EMPTY or VALID with the CRC expected; where the job held the place and another port's
job waits, the one of highest rank is RECEIVING with 2000 ms, its port has LOAD_RESUMED raised for its region,
and any other still waits; a SUSPENDED job that ends leaves the others. The ports hold these replies and
alerts and nothing else new. With no word newly in error, verification of a job whose words show no double
error makes the region VALID with DONE if the CRC-32 of its bytes is the one expected, else EMPTY with
LOAD_FAILED, each with that CRC; with none in double error, each of its words with a single error is
corrected: the bytes stay, every word of the job reads without error and every other word as before, and the
corrected-error count rises by one for each, up to 255; with a double error EMPTY and LOAD_FAILED with
FFFFFFFFh; with the answer cancelled no reply is posted. Where no port's job is RECEIVING, RECEIVE_TIMEOUT
changes nothing, and where none is VERIFYING, VERIFICATION_END (log 1). (R130, R132, R133, R134, R136, R137.)
-/
def Obligations.LoadJobsEnd : Prop :=
  (∀ (p : Port) (s : State) (j : Job), s.EngineGood → s.ovm.jobs.get p = some j →
    ∀ (ended : State → Prop) (told : State → State),
      (∀ t, ended t ↔ t.ovm.jobs.get p = none ∧ (∃ x, t.ovm.regions[j.region] = some x ∧ x.owner = p
          ∧ (x.content = .empty ∨ (j.isVerifying = true ∧ x.content = .valid j.expected)))
        ∧ (j.isSuspended = true → ∀ q, q ≠ p → t.ovm.jobs.get q = s.ovm.jobs.get q)
        ∧ (j.isSuspended = false → ∀ q k, q ≠ p → s.ovm.jobs.get q = some k →
            ((∀ q' k', q' ≠ p → s.ovm.jobs.get q' = some k' → Port.number q ≤ Port.number q') →
              t.ovm.jobs.get q = some { k with state := .receiving 2000 })
            ∧ ((∃ q' k', q' ≠ p ∧ s.ovm.jobs.get q' = some k' ∧ Port.number q' < Port.number q) →
              t.ovm.jobs.get q = some k))) →
      ((j.isSuspended = true ∨ ∀ q, q ≠ p → s.ovm.jobs.get q = none) → ∀ u, told u = u) →
      (∀ q k, q ≠ p → s.ovm.jobs.get q = some k → j.isSuspended = false →
        (∀ q' k', q' ≠ p → s.ovm.jobs.get q' = some k' → Port.number q ≤ Port.number q') →
        ∀ u : State, told u = u.raiseTo q .loadResumed k.region.val 0) →
    (∀ r, s.Reaches p .abortLoad r → j.isVerifying = false → ∃ t, exec (.abortLoad p) s = .next t ∧ ended t
      ∧ t.ports = ((told s).replied p r .done 0#8 (le 4 j.cursor)).ports)
    ∧ (j.isReceiving = true → ∃ t, exec .receiveTimeout s = .next t ∧ ended t
      ∧ t.ports = (told (s.raiseTo p .loadTimeout j.region.val 0)).ports)
    ∧ (∀ us left tag, j.state = .verifying left tag → ∃ t, exec (.verificationEnd us) s = .next t ∧ ended t
      ∧ (j.answerOpen = false → t.ports = (told s).ports))
    ∧ (∀ left tag x bytes, j.state = .verifying left tag → s.MemoryGood → s.ovm.regions[j.region] = some x →
        bytes = (List.range j.length).map (fun i => s.ovm.byteAt (4096 * x.first + i)) →
        ∀ result crc, (((∀ i, i < j.length → s.ovm.readCheck ((4096 * x.first + i) / 8) ≠ .double)
              ∧ result = (if crc32 bytes = j.expected then .done else .loadFailed) ∧ crc = crc32 bytes)
            ∨ ((∃ i, i < j.length ∧ s.ovm.readCheck ((4096 * x.first + i) / 8) = .double)
              ∧ result = .loadFailed ∧ crc = 0xFFFFFFFF#32)) →
        ∃ t, exec (.verificationEnd []) s = .next t
          ∧ t.ovm.regions[j.region]
              = some ⟨x.first, x.count, x.owner, if result = .done then .valid crc else .empty⟩
          ∧ ((∀ i, i < j.length → s.ovm.readCheck ((4096 * x.first + i) / 8) ≠ .double) →
              ∀ inJob : Nat → Prop, (∀ w, inJob w ↔ ∃ i, i < j.length ∧ w = (4096 * x.first + i) / 8) →
              (∀ a, t.ovm.byteAt a = s.ovm.byteAt a) ∧ (∀ w, inJob w → t.ovm.readCheck w = .clean)
              ∧ (∀ w, ¬ inJob w → t.ovm.readCheck w = s.ovm.readCheck w)
              ∧ ∀ singles : List Nat, singles.Nodup → (∀ w, w ∈ singles ↔ inJob w ∧ s.ovm.readCheck w = .single) →
                t.ovm.corrected = min 255 (s.ovm.corrected + singles.length))
          ∧ (j.answerOpen = true →
              t.ports = (told (s.post p ⟨tag, 0x33#8, result, 0#8, le 4 crc.toNat⟩)).ports)))
  ∧ ∀ s : State, ((∀ q j, s.ovm.jobs.get q = some j → j.isReceiving = false) → exec .receiveTimeout s = .next s)
    ∧ (∀ us, (∀ q j, s.ovm.jobs.get q = some j → j.isVerifying = false) → exec (.verificationEnd us) s = .next s)

/-- In every state the value of signal n, n from 0 to 7, is 1 exactly when input n's conditioned level equals
its active level, high under ACTIVE_HIGH and low under ACTIVE_LOW; so two states that agree on conditioned
level and polarity agree on it whatever the raw level and timer, a change of the conditioned level alone
changes it, and a change of polarity alone changes it with the conditioned level kept. (R89.) -/
def Obligations.InputSignalFollowsLevelAndPolarity : Prop :=
  ∀ (c d : Conditioner) (n : Fin 8),
    (c.signal ⟨n.val, by omega⟩ = true ↔
      (c.inputs[n].polarity = .activeHigh ∧ c.inputs[n].conditioned = true)
      ∨ (c.inputs[n].polarity = .activeLow ∧ c.inputs[n].conditioned = false))
    ∧ (c.inputs[n].conditioned = d.inputs[n].conditioned → c.inputs[n].polarity = d.inputs[n].polarity →
        c.signal ⟨n.val, by omega⟩ = d.signal ⟨n.val, by omega⟩)
    ∧ (c.inputs[n].conditioned ≠ d.inputs[n].conditioned → c.inputs[n].polarity = d.inputs[n].polarity →
        c.signal ⟨n.val, by omega⟩ ≠ d.signal ⟨n.val, by omega⟩)
    ∧ (∀ polarity, polarity ≠ c.inputs[n].polarity →
        (c.setInput n { c.inputs[n] with polarity := polarity }).signal ⟨n.val, by omega⟩
          ≠ c.signal ⟨n.val, by omega⟩
        ∧ (c.setInput n { c.inputs[n] with polarity := polarity }).inputs[n].conditioned
          = c.inputs[n].conditioned)

/-- For every speed state: stale gives STOPPED 0 and SLOW 0 whatever the speed; fresh at or below the stop
threshold gives 1 and 1; fresh above it and at or below the slow threshold gives 0 and 1; fresh above both
gives 0 and 0; STOPPED at 1 comes with SLOW at 1; and these are signals 14 and 15 of the view every reader is
handed. (R96.) -/
def Obligations.StoppedAndSlowFromSpeed : Prop :=
  ∀ c : Conditioner,
    (c.stale = true → c.signal 14 = false ∧ c.signal 15 = false)
    ∧ (c.stale = false → c.speed ≤ c.stopThreshold → c.signal 14 = true ∧ c.signal 15 = true)
    ∧ (c.stale = false → c.stopThreshold < c.speed → c.speed ≤ c.slowThreshold →
        c.signal 14 = false ∧ c.signal 15 = true)
    ∧ (c.stale = false → c.stopThreshold < c.speed → c.slowThreshold < c.speed →
        c.signal 14 = false ∧ c.signal 15 = false)
    ∧ (c.signal 14 = true → c.signal 15 = true)
    ∧ c.view[14] = c.signal 14 ∧ c.view[15] = c.signal 15

/-- On a request that reaches the Signal Conditioner. SPEED v: above 1500 BAD_FIELD 01h, else speed v, fresh,
500 ms on its timer, DONE. SET_SPEED_BANDS: BAD_FIELD 01h for a stop threshold above 1499, 02h for a slow
threshold outside 1 to 1500 or not above it, else both are taken and the reply carries the speed state.
SET_INPUT n: BAD_FIELD 01h to 04h by the first field out of range, else input n takes the settings, its timer
stops, and an unmasked input whose raw level differs starts its debounce, or with a debounce of 0 takes the
level; the reply carries raw level, conditioned level, polarity, debounce, mask and time left, a byte each.
SET_VIRTUAL: BAD_FIELD 0Fh for a count outside 1 to 4, else its pairs of a signal and a level are taken in
order: a signal outside 8 to 13 BAD_FIELD 01h, a level above 1 BAD_FIELD 02h, a signal from 12 on from BODY,
or one to 11 from DETECT, RANK_REFUSED 01h; the first failure is the answer and nothing is written; else every
pair is written, a later one over an earlier, and the reply carries V0 to V5, signals 8 to 13, as bits 0 to 5,
with bits 6 and 7 at 0 (the model's choice, log 29). SPEED_AGE_EXPIRY with the timer running makes the speed
stale and raises SPEED_STALE to all ports; stopped, it changes nothing (log 1). (R87, R91, R92, R94, R95, R97,
R98, R187.) -/
def Obligations.SignalRequestsByRule : Prop :=
  ∀ (s : State) (r : Request),
    (s.Reaches .body .speed r → ∀ v, v = fromLe ((r.payload.drop 0).take 2) →
      (1500 < v → exec (.speed .body) s = .next (s.replied .body r .badField 0x01#8 []))
      ∧ (v ≤ 1500 → exec (.speed .body) s = .next ((s.setScn { s.scn with
          speed := v, stale := false, age := some 500 }).replied .body r .done 0#8 [])))
    ∧ (s.Reaches .body .setSpeedBands r → ∀ a b, a = fromLe ((r.payload.drop 0).take 2) →
        b = fromLe ((r.payload.drop 2).take 2) →
      (1499 < a → exec (.setSpeedBands .body) s = .next (s.replied .body r .badField 0x01#8 []))
      ∧ (a ≤ 1499 → (b < 1 ∨ 1500 < b ∨ b ≤ a) →
          exec (.setSpeedBands .body) s = .next (s.replied .body r .badField 0x02#8 []))
      ∧ (a ≤ 1499 → b ≤ 1500 → a < b →
          exec (.setSpeedBands .body) s = .next ((s.setScn { s.scn with
            stopThreshold := a, slowThreshold := b }).replied .body r .done 0#8
              (le 2 s.scn.speed ++ [flag s.scn.stale] ++ le 2 a ++ le 2 b ++ le 2 (s.scn.age.getD 0)))))
    ∧ (s.Reaches .body .setInput r →
      (7 < (r.arg 0).toNat → exec (.setInput .body) s = .next (s.replied .body r .badField 0x01#8 []))
      ∧ ∀ n : Fin 8, (r.arg 0).toNat = n.val →
        (1 < (r.arg 1).toNat → exec (.setInput .body) s = .next (s.replied .body r .badField 0x02#8 []))
        ∧ ∀ polarity : Polarity, r.arg 1 = byte polarity.number →
          ((250 < (r.arg 2).toNat ∨ (r.arg 2).toNat % 10 ≠ 0) →
            exec (.setInput .body) s = .next (s.replied .body r .badField 0x03#8 []))
          ∧ ((r.arg 2).toNat ≤ 250 → (r.arg 2).toNat % 10 = 0 →
            (1 < (r.arg 3).toNat → exec (.setInput .body) s = .next (s.replied .body r .badField 0x04#8 []))
            ∧ ∀ mask : Bool, r.arg 3 = flag mask → ∀ x y : Input, x = s.scn.inputs[n] →
              y = (if mask = true ∨ x.raw = x.conditioned then
                    ⟨x.raw, x.conditioned, x.settled, polarity, (r.arg 2).toNat, mask, none⟩
                  else if (r.arg 2).toNat = 0 then ⟨x.raw, x.raw, true, polarity, 0, mask, none⟩
                  else ⟨x.raw, x.conditioned, x.settled, polarity, (r.arg 2).toNat, mask, some (r.arg 2).toNat⟩) →
              exec (.setInput .body) s = .next ((s.setScn { s.scn with
                inputs := s.scn.inputs.set n y }).replied .body r .done 0#8
                  [flag y.raw, flag y.conditioned, byte y.polarity.number, byte y.debounce, flag y.mask,
                    byte (y.timer.getD 0)])))
    ∧ (∀ p : Port, s.Reaches p .setVirtual r →
      (((r.arg 0).toNat < 1 ∨ 4 < (r.arg 0).toNat) →
        exec (.setVirtual p) s = .next (s.replied p r .badField 0x0F#8 []))
      ∧ (1 ≤ (r.arg 0).toNat → (r.arg 0).toNat ≤ 4 →
        (∀ result field, writeVirtuals p (virtualPairs (r.payload.drop 1)) s.scn.virtuals
            = .error (result, field) → exec (.setVirtual p) s = .next (s.replied p r result field []))
        ∧ (∀ v, writeVirtuals p (virtualPairs (r.payload.drop 1)) s.scn.virtuals = .ok v →
          ∃ levels : Byte, (∀ k : Fin 6, levels.getLsbD k.val = v[k]) ∧ (∀ k, 6 ≤ k → levels.getLsbD k = false)
            ∧ exec (.setVirtual p) s = .next ((s.setScn { s.scn with virtuals := v }).replied p r .done 0#8
              [levels]))))
    ∧ (∀ pairs : List (Byte × Byte), virtualPairs (pairs.flatMap (fun x => [x.1, x.2]))
        = pairs.map (fun x => (x.1.toNat, x.2)))
    ∧ (∀ (p : Port) (v : Vector Bool 6), writeVirtuals p [] v = .ok v
      ∧ ∀ (n : Nat) (b : Byte) (rest : List (Nat × Byte)),
        (n < 8 ∨ 13 < n → writeVirtuals p ((n, b) :: rest) v = .error (.badField, 0x01#8))
        ∧ ∀ i : Fin 6, n = 8 + i.val →
          (1 < b.toNat → writeVirtuals p ((n, b) :: rest) v = .error (.badField, 0x02#8))
          ∧ ∀ level : Bool, b = flag level →
            ((p = .body ∧ n ≤ 11) ∨ (p = .detect ∧ 12 ≤ n) →
              writeVirtuals p ((n, b) :: rest) v = writeVirtuals p rest (v.set i level))
            ∧ (¬ ((p = .body ∧ n ≤ 11) ∨ (p = .detect ∧ 12 ≤ n)) →
              writeVirtuals p ((n, b) :: rest) v = .error (.rankRefused, 0x01#8)))
    ∧ (s.scn.age = none → exec .speedAgeExpiry s = .next s)
    ∧ (s.scn.age ≠ none → exec .speedAgeExpiry s = .next ((s.setScn { s.scn with
        stale := true, age := none }).raiseAll .speedStale 17 0))

/-- INPUT_RAW_CHANGE answers a next state with the raw level on the pin and no other input changed; with the
level already there it changes nothing (log 1). DEBOUNCE_EXPIRY of a stopped timer changes nothing (log 1),
nor does any while RESET is low, which is the model's deduction (log 26); of a running timer with RESET high
it answers one with the timer stopped, the conditioned level the raw level and the input settled, no other
input changed. On a raw change of a settled, unmasked input away from its conditioned level, the timer starts
with the debounce time, or at a debounce of 0 the level is taken; back to it, the timer stops; a masked input
keeps its conditioned level and timer; an unsettled one restarts its running timer. In DORMANT a change of the
conditioned level of an unmasked input puts it last in the wake-pending set, once; nothing else enters it.
Neither event changes anything else: not the speed state, the virtual signals, NEAR or the wake record, and no
other block. (R90, R91, R93, R100.) -/
def Obligations.InputsAreDebounced : Prop :=
  ∀ (n : Fin 8) (level : Bool) (s : State) (x : Input), x = s.scn.inputs[n] →
    (∃ t, exec (.inputRawChange n level) s = .next t
      ∧ t = s.setScn { s.scn with inputs := t.scn.inputs, wakePending := t.scn.wakePending }
      ∧ t.scn.inputs[n].raw = level
      ∧ (∀ m : Fin 8, m ≠ n → t.scn.inputs[m] = s.scn.inputs[m])
      ∧ (level = x.raw → t = s)
      ∧ (level ≠ x.raw → x.settled = true → x.mask = true → t.scn.inputs[n] = { x with raw := level })
      ∧ (level ≠ x.raw → x.settled = true → x.mask = false →
          t.scn.inputs[n] =
            if level = x.conditioned then { x with raw := level, timer := none }
            else if x.debounce = 0 then { x with raw := level, conditioned := level, timer := none }
            else { x with raw := level, timer := some x.debounce })
      ∧ (level ≠ x.raw → x.settled = false → x.timer ≠ none →
          t.scn.inputs[n] = { x with raw := level, timer := some x.debounce })
      ∧ t.scn.wakePending = (if t.scn.inputs[n].conditioned ≠ x.conditioned ∧ s.stc.part = .dormant
            ∧ x.mask = false ∧ n ∉ s.scn.wakePending then s.scn.wakePending ++ [n] else s.scn.wakePending))
    ∧ ((x.timer = none ∨ s.pins.resetLow = true) → exec (.debounceExpiry n) s = .next s)
    ∧ (x.timer ≠ none → s.pins.resetLow = false → ∃ t, exec (.debounceExpiry n) s = .next t
      ∧ t = s.setScn { s.scn with inputs := t.scn.inputs, wakePending := t.scn.wakePending }
      ∧ t.scn.inputs[n] = { x with conditioned := x.raw, settled := true, timer := none }
      ∧ (∀ m : Fin 8, m ≠ n → t.scn.inputs[m] = s.scn.inputs[m])
      ∧ t.scn.wakePending = (if x.raw ≠ x.conditioned ∧ s.stc.part = .dormant ∧ x.mask = false
            ∧ n ∉ s.scn.wakePending then s.scn.wakePending ++ [n] else s.scn.wakePending))

/-- On a request that reaches the Marker Map. MARK with a count outside 1 to 4: BAD_FIELD 0Fh; otherwise its
items, 15 bytes each, are taken in order, each on the map the ones before left, NEAR follows the map,
NEAR_OBJECT is raised for each onset in item order and DONE gives the count after, the item count and each
item's track, outcome 0 to 5 and extra value: the evicted track, the field id, or FFFFh. An onset is a track
near in the map after its item and not before, in a map in track order. UNMARK: a track above 255 BAD_FIELD
01h, else the track is gone, NEAR follows, DONE says whether it was there and how many are left. CLEAR_MARKS
empties the map, NEAR is 0, DONE gives the number removed. SET_NEAR v: above 2000 BAD_FIELD 01h, else the
threshold is v, every near flag is whether the range is at most v, NEAR follows, NEAR_OBJECT is raised for
each that came near, in the map's order, ascending in track id, which is the model's choice (log 11), and DONE
gives v and the number near. NEAR_OBJECT goes to all ports with the track as subject. A camera is present if
its link is not ABSENT. (R106, R107, R110, R111, R114, R115, R116, R187, 11_record_formats 11.1.5.) -/
def Obligations.MarkerRequestsByRule : Prop :=
  (∀ (p : Port) (s : State) (r : Request),
    (s.Reaches p .mark r →
      (((r.arg 0).toNat < 1 ∨ 4 < (r.arg 0).toNat) →
        exec (.mark p) s = .next (s.replied p r .badField 0x0F#8 []))
      ∧ (1 ≤ (r.arg 0).toNat → (r.arg 0).toNat ≤ 4 → ∀ ms outs onsets,
        takeItems s.cams.presence s.mkm.threshold (readItems (r.arg 0).toNat (r.payload.drop 1)) s.mkm.markers
          = (ms, outs, onsets) →
        exec (.mark p) s = .next ((State.raiseNear ((s.setMkm { s.mkm with markers := ms }).setScn
            { s.scn with near := ms.any Marker.near }) onsets).replied p r .done 0#8
          (byte ms.length :: byte outs.length :: outs.flatMap (fun x => le 2 x.1 ++ x.2.bytes)))))
    ∧ (s.Reaches p .unmark r → ∀ track, track = fromLe ((r.payload.drop 0).take 2) →
      (255 < track → exec (.unmark p) s = .next (s.replied p r .badField 0x01#8 []))
      ∧ (track ≤ 255 → ∀ ms, ms = s.mkm.markers.filter (fun m => decide (m.track ≠ track)) →
        exec (.unmark p) s = .next (((s.setMkm { s.mkm with markers := ms }).setScn
            { s.scn with near := ms.any Marker.near }).replied p r .done 0#8
          [flag (s.mkm.markers.any (fun m => decide (m.track = track))), byte ms.length])))
    ∧ (s.Reaches p .clearMarks r →
      exec (.clearMarks p) s = .next (((s.setMkm { s.mkm with markers := [] }).setScn
        { s.scn with near := false }).replied p r .done 0#8 [byte s.mkm.markers.length]))
    ∧ (s.Reaches p .setNear r → ∀ v, v = fromLe ((r.payload.drop 0).take 2) →
      (2000 < v → exec (.setNear p) s = .next (s.replied p r .badField 0x01#8 []))
      ∧ (v ≤ 2000 → ∀ ms, ms = s.mkm.markers.map (fun m => { m with near := decide (m.range ≤ v) }) →
        exec (.setNear p) s = .next ((State.raiseNear ((s.setMkm ⟨ms, v⟩).setScn
            { s.scn with near := ms.any Marker.near })
            ((s.mkm.markers.filter (fun m => !m.near && decide (m.range ≤ v))).map Marker.track)).replied p r
          .done 0#8 (le 2 v ++ [byte (ms.filter Marker.near).length])))))
  ∧ (∀ (s : State) (k : Fin 4), s.cams.presence[k] = decide (s.cams.links[k].link ≠ .absent))
  ∧ (∀ s : State, s.raiseNear [] = s
    ∧ ∀ t ts, s.raiseNear (t :: ts) = (s.raiseAll .nearObject t 0).raiseNear ts)
  ∧ (∀ (n : Nat) (bs : List Byte), readItems n bs = (List.range n).map (fun i =>
      let at_ (k w : Nat) : Nat := fromLe ((bs.drop (15 * i + k)).take w)
      ⟨at_ 0 2, at_ 2 1, at_ 3 2, at_ 5 2, at_ 7 2, at_ 9 2, at_ 11 1, at_ 12 2, at_ 14 1⟩))
  ∧ (∀ (present : Vector Bool 4) (threshold : Nat) (ms : List Marker), takeItems present threshold [] ms = (ms, [], []))
  ∧ (∀ (present : Vector Bool 4) (threshold : Nat) (ms ms' ms'' : List Marker) (x : MarkerItem) (xs : List MarkerItem)
      (out : MarkOutcome) (outs : List (Nat × MarkOutcome)) (onsets : List Nat),
    (ms.map Marker.track).Pairwise (· < ·) → takeItem present threshold ms x = (ms', out) →
    takeItems present threshold xs ms' = (ms'', outs, onsets) →
    ∀ onset : Prop, (onset ↔ (∃ m ∈ ms', m.track = x.track ∧ m.near = true)
      ∧ ¬ ∃ m ∈ ms, m.track = x.track ∧ m.near = true) →
    (onset → takeItems present threshold (x :: xs) ms = (ms'', (x.track, out) :: outs, x.track :: onsets))
    ∧ (¬ onset → takeItems present threshold (x :: xs) ms = (ms'', (x.track, out) :: outs, onsets)))
  ∧ (MarkOutcome.updated.bytes = [0#8, 0xFF#8, 0xFF#8] ∧ MarkOutcome.inserted.bytes = [1#8, 0xFF#8, 0xFF#8]
    ∧ (∀ t, (MarkOutcome.evicted t).bytes = 2#8 :: le 2 t) ∧ MarkOutcome.full.bytes = [3#8, 0xFF#8, 0xFF#8]
    ∧ MarkOutcome.cameraAbsent.bytes = [4#8, 0xFF#8, 0xFF#8] ∧ ∀ id, (MarkOutcome.badField id).bytes = [5#8, id, 0#8])

/-- For every map of at most 16 markers with ascending track ids and every item: the first field out of range,
in the order of R107, gives BAD_FIELD with its id and the map stays; with none, an item whose camera is not
present is CAMERA_ABSENT and the map stays. Otherwise, m being the marker with the item's track, camera, box,
class, range and ttl, age 0 and near by the threshold: with its track in the map the outcome is UPDATED and m
stands in place of that track's marker; a new track with fewer than 16 markers is INSERTED and m joins; at 16
the candidate is the marker of greatest range, of those the one of greatest age, of those the one of lowest
track: farther than the item it is EVICTED, named by its track, and m stands in its place; else the outcome is
FULL and the map stays. Every other marker is kept, the map stays in ascending track order, and the count is
as these say. (R107, R108, R109.) -/
def Obligations.MarkerItemsByRule : Prop :=
  ∀ (present : Vector Bool 4) (threshold : Nat) (ms : List Marker) (x : MarkerItem) (bad : Nat → Prop),
    (ms.map Marker.track).Pairwise (· < ·) → ms.length ≤ 16 →
    (∀ id, bad id ↔ (id = 1 ∧ 255 < x.track) ∨ (id = 2 ∧ 3 < x.camera) ∨ (id = 3 ∧ 1279 < x.boxX)
      ∨ (id = 4 ∧ 959 < x.boxY) ∨ (id = 5 ∧ (x.boxW < 1 ∨ 1280 < x.boxW ∨ 1280 < x.boxX + x.boxW))
      ∨ (id = 6 ∧ (x.boxH < 1 ∨ 960 < x.boxH ∨ 960 < x.boxY + x.boxH)) ∨ (id = 7 ∧ 3 < x.cls)
      ∨ (id = 8 ∧ 2000 < x.range) ∨ (id = 9 ∧ (x.ttl < 1 ∨ 60 < x.ttl))) →
    (∀ id, bad id → (∀ j, j < id → ¬ bad j) → takeItem present threshold ms x = (ms, .badField (byte id)))
    ∧ ((∀ id, ¬ bad id) → ∀ k : Fin 4, x.camera = k.val →
      (present[k] = false → takeItem present threshold ms x = (ms, .cameraAbsent))
      ∧ (present[k] = true → ∀ (cls : MarkerClass) (m : Marker) (out : MarkOutcome) (after : List Marker),
        cls.number = x.cls →
        m = ⟨x.track, k, x.boxX, x.boxY, x.boxW, x.boxH, cls, x.range, x.ttl, 0, decide (x.range ≤ threshold)⟩ →
        takeItem present threshold ms x = (after, out) →
        (after.map Marker.track).Pairwise (· < ·)
        ∧ ((∃ y ∈ ms, y.track = x.track) → out = .updated ∧ after.length = ms.length
            ∧ ∀ z, z ∈ after ↔ z = m ∨ (z ∈ ms ∧ z.track ≠ x.track))
        ∧ ((∀ y ∈ ms, y.track ≠ x.track) → ms.length < 16 → out = .inserted ∧ after.length = ms.length + 1
            ∧ ∀ z, z ∈ after ↔ z = m ∨ z ∈ ms)
        ∧ ((∀ y ∈ ms, y.track ≠ x.track) → ms.length = 16 → ∀ y ∈ ms,
            (∀ z ∈ ms, z.range < y.range ∨ (z.range = y.range
              ∧ (z.age < y.age ∨ (z.age = y.age ∧ y.track ≤ z.track)))) →
            (x.range < y.range → out = .evicted y.track ∧ after.length = 16
              ∧ ∀ z, z ∈ after ↔ z = m ∨ (z ∈ ms ∧ z ≠ y))
            ∧ (y.range ≤ x.range → out = .full ∧ after = ms))))

/-- On a CAMERA_RESTART that reaches the links: a camera above 3 or ABSENT BAD_FIELD 01h, in QUIET
WRONG_STATE, with the timer running BUSY, else STARTING with 200 ms of power-off, counts 0, power off, slots
other than HELD FREE, and DONE. FRAME_START, CAMERA_LINE and FRAME_END change nothing on a link that is not
active or whose timer runs; else a frame start makes the slot being written, or the lowest FREE one, WRITING
with its sequence number and no lines, a line joins it (with none WRITING a line and a frame end change
nothing), and a frame end makes it READY (960 lines, each checked and of 1280 pixels) in place of an older
READY one, or FREE with the discard count one higher, up to 255. POWER_OFF_EXPIRY with the timer running stops
it and powers an active camera, or an IDLE one in QUIET; else it changes nothing (log 1). (R71, R72, R79,
R80.) -/
def Obligations.CameraRestartAndFrames : Prop :=
  ∀ (s : State) (k : Fin 4) (x : CameraLink), x = s.cams.links[k] →
    ∀ put : CameraLink → State,
      put = (fun y => s.setCams { s.cams with links := s.cams.links.set k y }) →
    (∀ (p : Port) (r : Request), s.Reaches p .cameraRestart r →
      (3 < (r.arg 0).toNat → exec (.cameraRestart p) s = .next (s.replied p r .badField 0x01#8 []))
      ∧ ((r.arg 0).toNat = k.val →
        (x.link = .absent → exec (.cameraRestart p) s = .next (s.replied p r .badField 0x01#8 []))
        ∧ (x.link ≠ .absent → s.stc.part = .quiet →
          exec (.cameraRestart p) s = .next (s.replied p r .wrongState 0#8 []))
        ∧ (x.link ≠ .absent → s.stc.part ≠ .quiet → x.powerOff ≠ none →
          exec (.cameraRestart p) s = .next (s.replied p r .busy 0#8 []))
        ∧ (x.link ≠ .absent → s.stc.part ≠ .quiet → x.powerOff = none → ∃ slots : Vector FrameSlot 3,
          exec (.cameraRestart p) s = .next ((put ⟨.starting, slots, 0, 0, 0, x.discards, some 200, false⟩).replied
            p r .done 0#8 [])
          ∧ ∀ i : Fin 3, (∀ f, x.slots[i] = .held f → slots[i] = .held f)
              ∧ ((∀ f, x.slots[i] ≠ .held f) → slots[i] = .free))))
    ∧ ((x.link = .absent ∨ x.link = .idle ∨ x.powerOff ≠ none) →
        (∀ seq, exec (.frameStart k seq) s = .next s) ∧ (∀ l, exec (.cameraLine k l) s = .next s)
        ∧ exec (.frameEnd k) s = .next s)
    ∧ (x.link ≠ .absent → x.link ≠ .idle → x.powerOff = none →
      (∀ seq, (∀ i : Fin 3, ∀ q ls, x.slots[i] ≠ .writing q ls) → ∀ i : Fin 3, x.slots[i] = .free →
          (∀ j : Fin 3, j < i → x.slots[j] ≠ .free) →
          exec (.frameStart k seq) s = .next (put { x with slots := x.slots.set i (.writing seq []) }))
      ∧ ((∀ i : Fin 3, ∀ q ls, x.slots[i] ≠ .writing q ls) →
          (∀ l, exec (.cameraLine k l) s = .next s) ∧ exec (.frameEnd k) s = .next s)
      ∧ ∀ (i : Fin 3) (q : Word16) (ls : List CameraLine), x.slots[i] = .writing q ls →
        (∀ j : Fin 3, j ≠ i → ∀ q' ls', x.slots[j] ≠ .writing q' ls') →
        (∀ seq, exec (.frameStart k seq) s = .next (put { x with
            slots := x.slots.set i (.writing seq []), discards := min 255 (x.discards + 1) }))
        ∧ (∀ l, exec (.cameraLine k l) s = .next (put { x with
            slots := x.slots.set i (.writing q (ls ++ [l])) }))
        ∧ ((ls.length = 960 ∧ ∀ l ∈ ls, l.checkOk = true ∧ l.pixels.length = 1280) →
          ∃ slots : Vector FrameSlot 3, exec (.frameEnd k) s = .next (put { x with slots := slots })
            ∧ slots[i] = .ready ⟨q, ls.map CameraLine.pixels⟩
            ∧ ∀ j : Fin 3, j ≠ i → ((∃ f, x.slots[j] = .ready f) → slots[j] = .free)
                ∧ ((∀ f, x.slots[j] ≠ .ready f) → slots[j] = x.slots[j]))
        ∧ (¬ (ls.length = 960 ∧ ∀ l ∈ ls, l.checkOk = true ∧ l.pixels.length = 1280) →
          exec (.frameEnd k) s = .next (put { x with
            slots := x.slots.set i .free, discards := min 255 (x.discards + 1) })))
    ∧ (x.powerOff = none → exec (.powerOffExpiry k) s = .next s)
    ∧ (x.powerOff ≠ none → exec (.powerOffExpiry k) s = .next (put { x with
        powerOff := none
        power := x.power || decide (x.link ∈ [LinkState.starting, .locked, .lost])
          || decide (x.link = .idle ∧ s.stc.part = .quiet) }))

/-- A plan request of an ABSENT or IDLE camera changes nothing and raises nothing. Of an active one with a
READY slot: that frame is HELD, the slot held before is FREE, a slot WRITING or FREE is as it was, no slot is
READY, the miss count is 0, the fresh count rises to at most 2. With none READY the slots stay, the miss count
rises to at most 3 and the fresh count is 0. Then STARTING becomes LOCKED at a fresh count of 2
(CAMERA_STARTED), LOST with fewer at its thirtieth counted request (CAMERA_LOST); LOCKED becomes LOST at a
miss count of 3 (CAMERA_LOST); LOST becomes LOCKED at a fresh count of 2 (CAMERA_BACK); in any other case the
state stays and no alert is raised. (R70, R74, R75, R76.) -/
def Obligations.PlanRequestMovesLink : Prop :=
  ∀ x y : CameraLink, ∀ alert : Option AlertCode, x.planRequest = (y, alert) →
    (x.link = .absent ∨ x.link = .idle → y = x ∧ alert = none)
    ∧ (x.link ≠ .absent → x.link ≠ .idle →
      (∀ (i : Fin 3) (f : CameraFrame), x.slots[i] = .ready f →
        y.slots[i] = .held f
        ∧ (∀ (j : Fin 3) g, x.slots[j] = .held g → y.slots[j] = .free)
        ∧ (∀ (j : Fin 3) seq lines, x.slots[j] = .writing seq lines → y.slots[j] = .writing seq lines)
        ∧ (∀ j : Fin 3, x.slots[j] = .free → y.slots[j] = .free)
        ∧ (∀ j g, y.slots[(j : Fin 3)] ≠ .ready g) ∧ y.miss = 0
        ∧ y.fresh = min 2 (x.fresh + 1))
      ∧ ((∀ (i : Fin 3) f, x.slots[i] ≠ .ready f) →
        y.slots = x.slots ∧ y.miss = min 3 (x.miss + 1) ∧ y.fresh = 0)
      ∧ (∀ n, n = (if x.powerOff = none then x.starting + 1 else x.starting) → x.link = .starting →
        (y.fresh = 2 → y.link = .locked ∧ y.starting = 0 ∧ alert = some .cameraStarted)
        ∧ (y.fresh ≠ 2 → 30 ≤ n → y.link = .lost ∧ y.starting = 0 ∧ alert = some .cameraLost)
        ∧ (y.fresh ≠ 2 → n < 30 → y.link = .starting ∧ y.starting = n ∧ alert = none))
      ∧ (x.link = .locked → (y.miss = 3 → y.link = .lost ∧ alert = some .cameraLost)
        ∧ (y.miss ≠ 3 → y.link = .locked ∧ alert = none))
      ∧ (x.link = .lost → (y.fresh = 2 → y.link = .locked ∧ alert = some .cameraBack)
        ∧ (y.fresh ≠ 2 → y.link = .lost ∧ alert = none))
      ∧ y.discards = x.discards ∧ y.power = x.power ∧ y.powerOff = x.powerOff)

/-- In every state whose Layer Table keeps R44: each entry of the plan taken now is the active copy, owner and
force of an enabled, owned slot that is visible by R144, with its region VALID if it is a BITMAP; the entries
are at most 12 and rise in z; every visible SAFETY candidate is among them; and entries plus left out is the
number of visible layers. With at most 12 visible none is left out, with more exactly 12 entries are kept, and
each visible layer that is no entry is ORDINARY and lower in z than every ORDINARY entry. The plan copies the
frame number, the map, the palette and the view of the signals, and in every state each camera's link state
with the one HELD slot's number and sequence number, or none, and the genlock state (log 28). Taking it
changes the Composer alone: the plan, the overflow state as whether layers were left out, the output mode
PICTURE in RUN and BLACK in QUIET, the recorder mode HOLD or SEND by REC_HOLD in RUN and OFF in QUIET, the
stopped set empty; and PLAN_OVERFLOW is raised exactly when the overflow state goes from no to yes. (R75,
R142, R143, R144, R145, R146, R147, R157, R158.) -/
def Obligations.PlanTakesVisibleLayers : Prop :=
  (∀ s : State, s.ltb.StackGood →
    ∀ shows : Fin 24 → Prop, (∀ i, shows i ↔
      s.ltb.slots[i].active.enabled = true ∧ s.ltb.slots[i].owner ≠ .none
      ∧ (∀ b, s.ltb.slots[i].active.part = .bitmap b →
          ∃ g crc, s.ovm.regions[b.region] = some g ∧ g.content = .valid crc)
      ∧ s.ltb.slots[i].force ≠ .hide
      ∧ (s.ltb.slots[i].force = .show
        ∨ ((∀ x ∈ s.ltb.slots[i].active.condition, s.scn.signal x.signal = x.level)
          ∧ (s.ltb.slots[i].active.blink = .solid
            ∨ (s.ltb.slots[i].active.blink = .slow ∧ s.ftb.frame.toNat % 32 < 16)
            ∨ (s.ltb.slots[i].active.blink = .fast ∧ s.ftb.frame.toNat % 8 < 4))))) →
    (∀ e ∈ s.planNow.entries, shows e.slot ∧ e.record = s.ltb.slots[e.slot].active
      ∧ e.owner = s.ltb.slots[e.slot].owner ∧ e.force = s.ltb.slots[e.slot].force)
    ∧ s.planNow.entries.length ≤ 12
    ∧ (s.planNow.entries.map (fun e => e.record.z)).Pairwise (· < ·)
    ∧ (∀ i, shows i → s.ltb.slots[i].active.cls = .safety → ∃ e ∈ s.planNow.entries, e.slot = i)
    ∧ (∀ visible : List (Fin 24), visible.Nodup → (∀ i, i ∈ visible ↔ shows i) →
        s.planNow.entries.length + s.planNow.leftOut = visible.length
        ∧ (visible.length ≤ 12 → s.planNow.leftOut = 0)
        ∧ (12 < visible.length → s.planNow.entries.length = 12))
    ∧ (∀ i, shows i → (∀ e ∈ s.planNow.entries, e.slot ≠ i) → s.ltb.slots[i].active.cls = .ordinary
        ∧ ∀ e ∈ s.planNow.entries, e.record.cls = .ordinary → s.ltb.slots[i].active.z < e.record.z)
    ∧ s.planNow.frame = s.ftb.frame ∧ s.planNow.markers = s.mkm.markers
    ∧ s.planNow.palette = s.cmp.palette ∧ (∀ n, s.planNow.signals[n] = s.scn.signal n))
  ∧ (∀ (s : State) (k : Fin 4), s.planNow.answers[k].link = s.cams.links[k].link
    ∧ (∀ (i : Fin 3) f, s.cams.links[k].slots[i] = .held f → (∀ (j : Fin 3) g, s.cams.links[k].slots[j] = .held g → j = i) →
        s.planNow.answers[k].held = some (i, f.seq))
    ∧ ((∀ (i : Fin 3) f, s.cams.links[k].slots[i] ≠ .held f) → s.planNow.answers[k].held = none))
  ∧ (∀ s : State, s.planNow.genlock = s.ftb.genlock)
  ∧ ∀ (s u : State) (recHold : Bool),
    u = s.setCmp ⟨some s.planNow, s.cmp.palette, decide (0 < s.planNow.leftOut),
      match s.stc.part with | .run => .picture | .quiet => .black | .boot | .dormant => .off,
      match s.stc.part with | .run => if recHold then .hold else .send | .quiet | .boot | .dormant => .off,
      [], false⟩ →
    (0 < s.planNow.leftOut → s.cmp.overflow = false → s.takePlan recHold = u.raiseAll .planOverflow 0 0)
    ∧ (s.planNow.leftOut = 0 ∨ s.cmp.overflow = true → s.takePlan recHold = u)

/-- Drawing line y sends nothing in OFF, 1280 pixels of 000000h in BLACK, and in PICTURE, after the plan's
entries have made their reads in ascending z (entry by entry, the model's choice, log 19), the line of all
entries on the display link and, in SEND, that of those with record yes on the recorder link. A line is 1280
pixels; a pixel is palette entry 0 with each entry in turn, where its dest holds the pixel and its own picture
a colour, blended over it by alpha, channel by channel, rounded down. FILL is its colour; GUIDE its colour on
the squares of its width about the centre pixels nearest to each step of its segments, a half rounded up, else
transparent; BITMAP within its size and the columns read is its pixel's palette entry, or transparent at the
key; CAMERA is palette entry 1 unless handed over LOCKED with its slot still HELD, then the last marker whose
2-pixel outline, on its mapped and clipped box, holds the pixel, a near one in the FAST phase only, in its
class's entry, else the source pixel of the crop, mirrored or not. Only BITMAP entries read: none when stopped
or off their rows; a region that is not VALID stops the entry; words without error give all columns; a word
with one bit in error is corrected, where memory keeps its form: its columns are given, the bytes stay, it
reads without error from then on, other words and the regions stay, and the corrected-error count rises by
one, up to 255; after words without a double error a word with two bits in error makes the region FAULTED with
its CRC kept, raises REGION_FAULT, stops the entry and leaves the columns before that word. A pixel past the
last block of a region made smaller within the frame is read on from the memory that follows (the model's
choice, log 32). (06_object_markers 6.6, R121, R137, R138, R148, R149, R150, R151, R152, R155, R158.) -/
def Obligations.PictureFollowsPlan : Prop :=
  (∀ (s : State) (y : Nat),
    (s.cmp.output = .off → s.drawLine y = s)
    ∧ (s.cmp.output = .black →
      s.drawLine y = s.setLinks { s.links with display := .line y (List.replicate 1280 ⟨0#8, 0#8, 0#8⟩) })
    ∧ (∀ plan, s.cmp.output = .picture → s.cmp.plan = some plan → ∀ (t : State) (es : List (PlanEntry × Nat)) (v : Scene),
        s.readEntries y plan.entries = (t, es) → v = ⟨plan, t.cams.links, t.ovm⟩ →
        s.drawLine y = t.setLinks { t.links with
          display := .line y (v.line es y)
          recorder := if s.cmp.recorder = .send then .line y (v.line (es.filter (fun e => e.1.record.record)) y)
            else .nothing }))
  ∧ (∀ (s : State) (y : Nat), s.readEntries y [] = (s, [])
    ∧ ∀ (e : PlanEntry) (es : List PlanEntry) (a b : State) (n : Nat) (rest : List (PlanEntry × Nat)),
      s.readEntry y e = (a, n) → a.readEntries y es = (b, rest) → s.readEntries y (e :: es) = (b, (e, n) :: rest))
  ∧ (∀ (v : Scene) (es : List (PlanEntry × Nat)) (e : PlanEntry × Nat) (x y : Nat) (inside : Prop),
      (inside ↔ e.1.record.destX ≤ x ∧ x < e.1.record.destX + e.1.record.destW
        ∧ e.1.record.destY ≤ y ∧ y < e.1.record.destY + e.1.record.destH) →
      v.line es y = (List.range 1280).map (fun x => v.pixel es x y)
      ∧ v.pixel [] x y = v.plan.palette[0]
      ∧ (¬ inside ∨ v.ownPixel e.1.record e.2 x y = none → v.pixel (es ++ [e]) x y = v.pixel es x y)
      ∧ (∀ l, inside → v.ownPixel e.1.record e.2 x y = some l →
          v.pixel (es ++ [e]) x y = blend e.1.record.alpha l (v.pixel es x y)))
  ∧ (∀ (a : Nat) (l b : Colour), a ≤ 15 →
      (blend a l b).red.toNat = (a * l.red.toNat + (15 - a) * b.red.toNat) / 15
      ∧ (blend a l b).green.toNat = (a * l.green.toNat + (15 - a) * b.green.toNat) / 15
      ∧ (blend a l b).blue.toNat = (a * l.blue.toNat + (15 - a) * b.blue.toNat) / 15)
  ∧ (∀ (v : Scene) (r : LayerRecord) (limit x y : Nat),
    (∀ k, r.part = .fill k → v.ownPixel r limit x y = some v.plan.palette[k])
    ∧ (∀ g, r.part = .guide g → ∀ covered : Prop, (covered ↔ ∃ sg ∈ g.segments, ∃ (d t back : Nat) (cx cy : Int),
          d = max ((sg.x1 : Int) - sg.x0).natAbs ((sg.y1 : Int) - sg.y0).natAbs ∧ t ≤ d ∧ back = (g.width - 1) / 2
          ∧ (d = 0 → cx = sg.x0 ∧ cy = sg.y0)
          ∧ (d ≠ 0 → 2 * d * cx ≤ 2 * (sg.x0 * d + t * ((sg.x1 : Int) - sg.x0)) + d
            ∧ 2 * (sg.x0 * d + t * ((sg.x1 : Int) - sg.x0)) + d < 2 * d * (cx + 1)
            ∧ 2 * d * cy ≤ 2 * (sg.y0 * d + t * ((sg.y1 : Int) - sg.y0)) + d
            ∧ 2 * (sg.y0 * d + t * ((sg.y1 : Int) - sg.y0)) + d < 2 * d * (cy + 1))
          ∧ cx - back ≤ ((x - r.destX : Nat) : Int) ∧ ((x - r.destX : Nat) : Int) < cx - back + g.width
          ∧ cy - back ≤ ((y - r.destY : Nat) : Int) ∧ ((y - r.destY : Nat) : Int) < cy - back + g.width) →
        (covered → v.ownPixel r limit x y = some v.plan.palette[g.colour])
        ∧ (¬ covered → v.ownPixel r limit x y = none))
    ∧ (∀ b, r.part = .bitmap b → ∀ col row, col = x - r.destX → row = y - r.destY →
        (limit ≤ col ∨ b.width ≤ col ∨ b.height ≤ row → v.ownPixel r limit x y = none)
        ∧ (∀ (g : Region) (n pair : Nat) (k : Fin 16), col < limit → col < b.width → row < b.height →
          v.ovm.regions[b.region] = some g → n = row * b.width + col →
          pair = (v.ovm.byteAt (4096 * g.first + n / 2)).toNat →
          k.val = (if n % 2 = 0 then pair / 16 else pair % 16) →
          v.ownPixel r limit x y = if b.key = some k then none else some v.plan.palette[k]))
    ∧ (∀ c, r.part = .camera c →
      (v.plan.answers[c.camera].link ≠ .locked → v.ownPixel r limit x y = some v.plan.palette[1])
      ∧ (v.plan.answers[c.camera].held = none → v.ownPixel r limit x y = some v.plan.palette[1])
      ∧ (∀ i seq, v.plan.answers[c.camera].held = some (i, seq) →
        ((∀ f, v.links[c.camera].slots[i] ≠ .held f) → v.ownPixel r limit x y = some v.plan.palette[1])
        ∧ ∀ f, v.plan.answers[c.camera].link = .locked → v.links[c.camera].slots[i] = .held f →
          ∀ shown : Marker → Prop, (∀ m, shown m ↔ c.markers = true ∧ m.camera = c.camera
            ∧ (m.near = true → v.plan.frame.toNat % 8 < 4) ∧ ∃ left right top bottom : Int,
              left = max (r.destX + (if c.mirror then (c.cropX : Int) + c.cropW - m.boxX - m.boxW
                else (m.boxX : Int) - c.cropX) * r.destW / c.cropW) r.destX
              ∧ right = min (r.destX + (if c.mirror then (c.cropX : Int) + c.cropW - m.boxX
                else (m.boxX : Int) + m.boxW - c.cropX) * r.destW / c.cropW) (r.destX + r.destW)
              ∧ top = max (r.destY + ((m.boxY : Int) - c.cropY) * r.destH / c.cropH) r.destY
              ∧ bottom = min (r.destY + ((m.boxY : Int) + m.boxH - c.cropY) * r.destH / c.cropH) (r.destY + r.destH)
              ∧ left ≤ x ∧ x < right ∧ top ≤ y ∧ y < bottom
              ∧ (x < left + 2 ∨ right - 2 ≤ x ∨ y < top + 2 ∨ bottom - 2 ≤ y)) →
          (∀ before m after, v.plan.markers = before ++ m :: after → shown m → (∀ z ∈ after, ¬ shown z) →
            v.ownPixel r limit x y = some (match m.cls with
              | .pedestrian => v.plan.palette[12]
              | .cyclist => v.plan.palette[13]
              | .vehicle => v.plan.palette[14]
              | .object => v.plan.palette[15]))
          ∧ ((∀ m ∈ v.plan.markers, ¬ shown m) → ∀ col row : Nat,
            col = (if c.mirror then c.cropX + c.cropW - 1 - (x - r.destX) * c.cropW / r.destW
              else c.cropX + (x - r.destX) * c.cropW / r.destW) →
            row = c.cropY + (y - r.destY) * c.cropH / r.destH →
            v.ownPixel r limit x y = some ((f.lines.getD row []).getD col ⟨0#8, 0#8, 0#8⟩)))))
  ∧ (∀ (s : State) (y : Nat) (e : PlanEntry), (∀ b, e.record.part ≠ .bitmap b) →
      s.readEntry y e = (s, e.record.destW))
  ∧ (∀ (s : State) (y : Nat) (e : PlanEntry) (b : BitmapPart), e.record.part = .bitmap b →
      (e.slot ∈ s.cmp.stopped ∨ y < e.record.destY ∨ e.record.destY + e.record.destH ≤ y
        ∨ b.height ≤ y - e.record.destY → s.readEntry y e = (s, 0))
      ∧ (e.slot ∉ s.cmp.stopped → e.record.destY ≤ y → y < e.record.destY + e.record.destH →
          y - e.record.destY < b.height →
        ((∀ g crc, s.ovm.regions[b.region] = some g → g.content ≠ .valid crc) →
          s.readEntry y e = (s.setCmp { s.cmp with stopped := s.cmp.stopped ++ [e.slot] }, 0))
        ∧ (∀ g crc first cols, s.ovm.regions[b.region] = some g → g.content = .valid crc →
            first = (y - e.record.destY) * b.width → cols = min e.record.destW b.width →
            ((∀ i, i < cols → s.ovm.readCheck (4096 * g.first / 8 + (first + i) / 16) = .clean) →
              s.readEntry y e = (s, cols))
            ∧ (∀ i w, i < cols → w = (first + i) / 16 → s.ovm.readCheck (4096 * g.first / 8 + w) = .double →
              (∀ u, first / 16 ≤ u → u < w → s.ovm.readCheck (4096 * g.first / 8 + u) = .clean) →
              s.readEntry y e = ((((s.setOvm { s.ovm with
                regions := s.ovm.regions.set b.region (some { g with content := .faulted crc }) }).raiseAll
                  .regionFault b.region.val 0).setCmp { s.cmp with stopped := s.cmp.stopped ++ [e.slot] }),
                min cols (w * 16 - first)))
            ∧ (s.MemoryGood → s.ovm.corrected ≤ 255 → ∀ (reads : Nat → Nat → Prop) (after : Nat → Overlay → Prop),
              (∀ n w, reads n w ↔ ∃ i, i < n ∧ w = 4096 * g.first / 8 + (first + i) / 16) →
              (∀ n o, after n o ↔ o.regions = s.ovm.regions ∧ o.jobs = s.ovm.jobs ∧ o.epoch = s.ovm.epoch
                ∧ o.memory.wf = true ∧ (∀ a, o.byteAt a = s.ovm.byteAt a)
                ∧ (∀ w, reads n w → s.ovm.readCheck w = .single → o.readCheck w = .clean)
                ∧ (∀ w, ¬ (reads n w ∧ s.ovm.readCheck w = .single) → o.readCheck w = s.ovm.readCheck w)
                ∧ ∀ singles : List Nat, singles.Nodup →
                  (∀ w, w ∈ singles ↔ reads n w ∧ s.ovm.readCheck w = .single) →
                  o.corrected = min 255 (s.ovm.corrected + singles.length)) →
              ((∀ w, reads cols w → s.ovm.readCheck w ≠ .double) →
                ∃ o, after cols o ∧ s.readEntry y e = (s.setOvm o, cols))
              ∧ (∀ i w, i < cols → w = (first + i) / 16 → s.ovm.readCheck (4096 * g.first / 8 + w) = .double →
                (∀ u, reads (w * 16 - first) u → s.ovm.readCheck u ≠ .double) →
                ∃ o, after (w * 16 - first) o
                  ∧ s.readEntry y e = ((((s.setOvm { o with
                    regions := o.regions.set b.region (some { g with content := .faulted crc }) }).raiseAll
                      .regionFault b.region.val 0).setCmp { s.cmp with stopped := s.cmp.stopped ++ [e.slot] }),
                    min cols (w * 16 - first)))))))

/-- On a request that reaches the State Controller. RUN: in RUN without an entry DONE alone, with one the
entry is answered REFUSED_CONDITION 05h before the DONE, in an order that is the model's choice (log 11), and
is none; in QUIET the run request is yes and DONE. QUIET: in RUN without an entry it becomes the pending entry
with no reply, with one BUSY; in QUIET the run request is no and DONE. DORMANT: in RUN WRONG_STATE; in QUIET
BUSY while any port has a pending commit or a job, a store is in flight or the run request is yes; otherwise
the part is DORMANT with the timebase held at 0, its settings (P, P', Lc, S0 to S3, PH, GL) and last slip as
they were, both sync counts 0 and the genlock state HUNTING with GL on, else FREE, the map empty, the speed
stale, the wake sets empty, no plan, both links off and sending no line, no camera powered and every power-off
timer stopped, the population and each camera's link state, slots, miss, fresh and starting counts and discard
count as they were, the Layer Table, the regions and the frame number as they were; a frame being sent to the
recorder whose metadata record has not been sent has it sent marked ended early; DONE is posted and
STATE_CHANGED raised with subject 3, detail 06h and the frame number kept, in the order the command gives (log
10), and no other record. (R66, R84, R103, R120, R156, R159, R174, R176, R177, R178, R180.) -/
def Obligations.PartStateRequests : Prop :=
  ∀ (p : Port) (s : State) (r : Request),
    (s.Reaches p .run r →
      (s.stc.part = .run → s.stc.entry = none → exec (.run p) s = .next (s.replied p r .done 0#8 []))
      ∧ (∀ e, s.stc.part = .run → s.stc.entry = some e →
          exec (.run p) s = .next ((((s.setStc { s.stc with entry := none }).post e.port
            ⟨e.tag, 0x71#8, .refusedCondition, 0#8, [0x05#8]⟩)).replied p r .done 0#8 []))
      ∧ (s.stc.part = .quiet →
          exec (.run p) s = .next ((s.setStc { s.stc with runRequest := true }).replied p r .done 0#8 [])))
    ∧ (s.Reaches p .quiet r →
      (s.stc.part = .run → s.stc.entry = none →
          exec (.quiet p) s = .next ((s.setStc { s.stc with entry := some ⟨p, r.tag⟩ }).taken p))
      ∧ (s.stc.part = .run → s.stc.entry ≠ none → exec (.quiet p) s = .next (s.replied p r .busy 0#8 []))
      ∧ (s.stc.part = .quiet →
          exec (.quiet p) s = .next ((s.setStc { s.stc with runRequest := false }).replied p r .done 0#8 [])))
    ∧ (∀ replyFirst : Bool, s.Reaches p .dormant r →
      (s.stc.part = .run → exec (.dormant p replyFirst) s = .next (s.replied p r .wrongState 0#8 []))
      ∧ (s.stc.part = .quiet →
        ((∃ q, s.ltb.sets.get q ≠ none ∨ s.ovm.jobs.get q ≠ none) ∨ s.fst.store ≠ none
            ∨ s.stc.runRequest = true →
          exec (.dormant p replyFirst) s = .next (s.replied p r .busy 0#8 []))
        ∧ ((∀ q, s.ltb.sets.get q = none ∧ s.ovm.jobs.get q = none) → s.fst.store = none →
            s.stc.runRequest = false →
          ∃ t, exec (.dormant p replyFirst) s = .next t
            ∧ t.stc = ⟨.dormant, none, false⟩ ∧ t.ftb.run = .held ∧ t.ftb.line = 0
            ∧ t.ftb.frame = s.ftb.frame ∧ t.ftb.lastSlip = s.ftb.lastSlip ∧ t.ftb.missed = 0 ∧ t.ftb.good = 0
            ∧ t.ftb.period = s.ftb.period ∧ t.ftb.stagedPeriod = s.ftb.stagedPeriod
            ∧ t.ftb.commitLine = s.ftb.commitLine ∧ t.ftb.strobes = s.ftb.strobes ∧ t.ftb.phase = s.ftb.phase
            ∧ t.ftb.genlockOn = s.ftb.genlockOn
            ∧ t.ftb.genlock = (if s.ftb.genlockOn then .hunting else .free)
            ∧ t.mkm.markers = [] ∧ t.mkm.threshold = s.mkm.threshold ∧ t.scn.near = false
            ∧ t.scn.stale = true ∧ t.scn.age = none ∧ t.scn.wakePending = [] ∧ t.scn.wakeRecord = []
            ∧ t.scn.inputs = s.scn.inputs ∧ t.scn.virtuals = s.scn.virtuals
            ∧ t.cmp.plan = none ∧ t.cmp.output = .off ∧ t.cmp.recorder = .off ∧ t.cmp.overflow = false
            ∧ t.cmp.palette = s.cmp.palette
            ∧ (∀ k : Fin 4, t.cams.links[k] = { s.cams.links[k] with power := false, powerOff := none })
            ∧ t.cams.population = s.cams.population ∧ t.cams.source = s.cams.source
            ∧ t.ltb = s.ltb ∧ t.ovm = s.ovm ∧ t.fst = s.fst
            ∧ t.links.display = .nothing ∧ t.links.recorder = .nothing ∧ t.links.rsync = false
            ∧ (∀ plan, s.cmp.recorder = .send → s.cmp.plan = some plan → s.cmp.metadataSent = false →
                t.links.metadata = some (plan.metadata s.cmp.stopped true))
            ∧ (s.cmp.recorder ≠ .send ∨ s.cmp.plan = none ∨ s.cmp.metadataSent = true → t.links.metadata = none)
            ∧ t.ports = (if replyFirst then (s.replied p r .done 0#8 []).raiseAll .stateChanged 3 6
                else (s.raiseAll .stateChanged 3 6).replied p r .done 0#8 []).ports)))

/-- On a WAKE that reaches the State Controller in RUN or QUIET: DONE and nothing else. In DORMANT, with the
commit line in the blanking lines, WAKE and a WAKE_IN edge answer a next state in RUN with no entry and no run
request, the timebase running at 0 with the frame number advanced by 1 and the period the staged one, P', Lc,
S0 to S3, GL, PH, the genlock state, the missed-sync and good-sync counts and the last slip as they were (this
TOP counts no miss), RSYNC pulsed, a plan of that frame, picture on the display link, the recorder mode SEND
or HOLD by REC_HOLD, the wake record the wake-pending set and that set empty. An ABSENT camera is as it was;
an IDLE one became STARTING with its counts 0 and CAMPWR on unless its power-off timer runs, and the first
plan request was taken of it: with no READY frame its slots are as they were, its miss count 1, its fresh
count 0 and its starting count 1, or 0 while that timer runs. Input changes and debounce expiries that come
together with the wake (operands, log 10) are taken after it, in RUN, in order, each as INPUT_RAW_CHANGE and
DEBOUNCE_EXPIRY take it: they add nothing to the wake-pending set, and the plan's view of the signals is the
one they leave. STATE_CHANGED is raised after every alert of the TOP, such as PLAN_OVERFLOW (an order among a
TOP's alerts that is the model's choice, log 11), with subject 1 and detail 07h for WAKE and 08h for WAKE_IN;
WAKE's DONE is posted before everything the wake raises, or after it, as the command says (log 10). A WAKE_IN
edge in any other state changes nothing. (R63, R66, R74, R82, R87, R101, R157, R158, R179, R180.) -/
def Obligations.WakeEntersRunWithTop : Prop :=
  ∀ (s a : State) (meets : Waking) (woken : State → Prop),
    a = ((s.setScn { s.scn with wakeRecord := s.scn.wakePending, wakePending := [] }).setStc ⟨.run, none, false⟩) →
    (∀ t, woken t ↔ t.stc = ⟨.run, none, false⟩ ∧ t.ftb.run = .running ∧ t.ftb.line = 0
      ∧ t.ftb.frame = s.ftb.frame + 1#16 ∧ t.ftb.period = s.ftb.stagedPeriod ∧ t.links.rsync = true
      ∧ t.ftb.stagedPeriod = s.ftb.stagedPeriod ∧ t.ftb.commitLine = s.ftb.commitLine
      ∧ t.ftb.strobes = s.ftb.strobes ∧ t.ftb.genlockOn = s.ftb.genlockOn ∧ t.ftb.phase = s.ftb.phase
      ∧ t.ftb.genlock = s.ftb.genlock ∧ t.ftb.missed = s.ftb.missed ∧ t.ftb.good = s.ftb.good
      ∧ t.ftb.lastSlip = s.ftb.lastSlip
      ∧ t.cmp.output = .picture ∧ t.cmp.recorder = (if meets.out.recHold then .hold else .send)
      ∧ (∃ plan, t.cmp.plan = some plan ∧ plan.frame = t.ftb.frame ∧ ∀ n, plan.signals[n] = t.scn.signal n)
      ∧ t.scn = (meets.inputs.foldl State.inputEvent a).scn
      ∧ t.scn.wakeRecord = s.scn.wakePending ∧ t.scn.wakePending = []
      ∧ ∀ (k : Fin 4) (x : CameraLink), x = s.cams.links[k] → t.cams.links[k].link ≠ .idle
        ∧ (x.link = .absent → t.cams.links[k] = x)
        ∧ (x.link = .idle →
          t.cams.links[k] = (CameraLink.planRequest { x with
            link := .starting, miss := 0, fresh := 0, starting := 0, power := decide (x.powerOff = none) }).1
          ∧ ((∀ (i : Fin 3) f, x.slots[i] ≠ .ready f) → t.cams.links[k] = { x with
            link := .starting, miss := 1, fresh := 0, starting := if x.powerOff = none then 1 else 0,
            power := decide (x.powerOff = none) }))) →
    (∀ (p : Port) (r : Request), s.Reaches p .wake r →
      (s.stc.part ≠ .dormant → ∀ replyFirst,
        exec (.wake p meets replyFirst) s = .next (s.replied p r .done 0#8 []))
      ∧ (s.stc.part = .dormant → 720 ≤ s.ftb.commitLine →
        (∃ t, exec (.wake p meets true) s = .next (t.raiseAll .stateChanged 1 7) ∧ woken t
          ∧ (t.ports.get p).requests = (s.ports.get p).requests.tail
          ∧ (t.ports.get p).replies = (s.ports.get p).replies
            ++ [⟨(s.ports.get p).nextStamp, ⟨r.tag, r.kind, .done, 0#8, []⟩⟩])
        ∧ (∃ t, exec (.wake p meets false) s
            = .next ((t.raiseAll .stateChanged 1 7).post p ⟨r.tag, r.kind, .done, 0#8, []⟩) ∧ woken t
          ∧ (t.ports.get p).requests = (s.ports.get p).requests.tail
          ∧ (t.ports.get p).replies = (s.ports.get p).replies)))
    ∧ (s.stc.part ≠ .dormant → exec (.wakeIn meets) s = .next s)
    ∧ (s.stc.part = .dormant → 720 ≤ s.ftb.commitLine →
      ∃ t, exec (.wakeIn meets) s = .next (t.raiseAll .stateChanged 1 8) ∧ woken t)
    ∧ (∀ n level, exec (.inputRawChange n level) a = .next (a.inputEvent (.rawChange n level))
      ∧ exec (.debounceExpiry n) a = .next (a.inputEvent (.debounceExpiry n)))

/-- On a STORE_FITTING that reaches the Fitting Store: in RUN WRONG_STATE; with a store in flight BUSY;
otherwise no reply: the stored check is bad, and a store of the snapshot, which gives the layers in ascending
slot order (the model's choice, log 31), is in flight with 400 ms and the request open. It takes the layer of
each slot whose owner is FITTED or BODY and whose active record is not of kind BITMAP, enabled or not, and
counts them. STORE_END with an equal read-back keeps the snapshot as the record and answers DONE with the
number of layers; with a differing one, or at STORE_TIMER_EXPIRY, the check is bad and the answer is
STORE_FAILED; a store whose answer was dropped posts no reply. With no store in flight the two events change
nothing (log 1). (R165, R183, R184.) -/
def Obligations.StoreFittingRunsToItsEnd : Prop :=
  ∀ s : State,
    (∀ r, s.Reaches .body .storeFitting r →
      (s.stc.part = .run → exec (.storeFitting .body) s = .next (s.replied .body r .wrongState 0#8 []))
      ∧ (s.stc.part = .quiet → s.fst.store ≠ none →
        exec (.storeFitting .body) s = .next (s.replied .body r .busy 0#8 []))
      ∧ (s.stc.part = .quiet → s.fst.store = none →
        exec (.storeFitting .body) s = .next ((s.setFst ⟨.spoiled, s.fst.status, some ⟨.body, r.tag, true,
          s.fittingSnapshot, ((List.finRange 24).filter (fun i => decide ((s.ltb.slots[i].owner = .fitted
            ∨ s.ltb.slots[i].owner = .port .body) ∧ s.ltb.slots[i].active.part.kind ≠ .bitmap))).length, 400⟩⟩).taken
            .body)))
    ∧ (s.fst.store = none → (∀ ok, exec (.storeEnd ok) s = .next s) ∧ exec .storeTimerExpiry s = .next s)
    ∧ (∀ x, s.fst.store = some x →
      (x.answerOpen = true →
        exec (.storeEnd true) s = .next ((s.setFst ⟨.present x.snapshot, s.fst.status, none⟩).post x.port
          ⟨x.tag, 0x74#8, .done, 0#8, [byte x.layers]⟩)
        ∧ exec (.storeEnd false) s = .next ((s.setFst ⟨.spoiled, s.fst.status, none⟩).post x.port
          ⟨x.tag, 0x74#8, .storeFailed, 0#8, []⟩)
        ∧ exec .storeTimerExpiry s = .next ((s.setFst ⟨.spoiled, s.fst.status, none⟩).post x.port
          ⟨x.tag, 0x74#8, .storeFailed, 0#8, []⟩))
      ∧ (x.answerOpen = false →
        exec (.storeEnd true) s = .next (s.setFst ⟨.present x.snapshot, s.fst.status, none⟩)
        ∧ exec (.storeEnd false) s = .next (s.setFst ⟨.spoiled, s.fst.status, none⟩)
        ∧ exec .storeTimerExpiry s = .next (s.setFst ⟨.spoiled, s.fst.status, none⟩)))

end
end

