-- ==== Sys2Proof/Laws/State.lean ====
section
/-! SUPPORT. One lemma for each block's update and each block: the block written reads as written, every other
as before. With them no proof unfolds a record update. -/

namespace Sys2Proof.Machine

variable (s : State)

@[simp] theorem State.setPorts_ports (x : PerPort PortState) : (s.setPorts x).ports = x := rfl
@[simp] theorem State.setPorts_ltb (x : PerPort PortState) : (s.setPorts x).ltb = s.ltb := rfl
@[simp] theorem State.setPorts_ftb (x : PerPort PortState) : (s.setPorts x).ftb = s.ftb := rfl
@[simp] theorem State.setPorts_cams (x : PerPort PortState) : (s.setPorts x).cams = s.cams := rfl
@[simp] theorem State.setPorts_scn (x : PerPort PortState) : (s.setPorts x).scn = s.scn := rfl
@[simp] theorem State.setPorts_mkm (x : PerPort PortState) : (s.setPorts x).mkm = s.mkm := rfl
@[simp] theorem State.setPorts_ovm (x : PerPort PortState) : (s.setPorts x).ovm = s.ovm := rfl
@[simp] theorem State.setPorts_cmp (x : PerPort PortState) : (s.setPorts x).cmp = s.cmp := rfl
@[simp] theorem State.setPorts_stc (x : PerPort PortState) : (s.setPorts x).stc = s.stc := rfl
@[simp] theorem State.setPorts_fst (x : PerPort PortState) : (s.setPorts x).fst = s.fst := rfl
@[simp] theorem State.setPorts_links (x : PerPort PortState) : (s.setPorts x).links = s.links := rfl
@[simp] theorem State.setPorts_pins (x : PerPort PortState) : (s.setPorts x).pins = s.pins := rfl
@[simp] theorem State.setPorts_pending (x : PerPort PortState) : (s.setPorts x).pending = s.pending := rfl
@[simp] theorem State.setPorts_self : s.setPorts s.ports = s := rfl
@[simp] theorem State.setPorts_setPorts (x y : PerPort PortState) : (s.setPorts x).setPorts y = s.setPorts y := rfl

@[simp] theorem State.setLtb_ports (x : LayerTable) : (s.setLtb x).ports = s.ports := rfl
@[simp] theorem State.setLtb_ltb (x : LayerTable) : (s.setLtb x).ltb = x := rfl
@[simp] theorem State.setLtb_ftb (x : LayerTable) : (s.setLtb x).ftb = s.ftb := rfl
@[simp] theorem State.setLtb_cams (x : LayerTable) : (s.setLtb x).cams = s.cams := rfl
@[simp] theorem State.setLtb_scn (x : LayerTable) : (s.setLtb x).scn = s.scn := rfl
@[simp] theorem State.setLtb_mkm (x : LayerTable) : (s.setLtb x).mkm = s.mkm := rfl
@[simp] theorem State.setLtb_ovm (x : LayerTable) : (s.setLtb x).ovm = s.ovm := rfl
@[simp] theorem State.setLtb_cmp (x : LayerTable) : (s.setLtb x).cmp = s.cmp := rfl
@[simp] theorem State.setLtb_stc (x : LayerTable) : (s.setLtb x).stc = s.stc := rfl
@[simp] theorem State.setLtb_fst (x : LayerTable) : (s.setLtb x).fst = s.fst := rfl
@[simp] theorem State.setLtb_links (x : LayerTable) : (s.setLtb x).links = s.links := rfl
@[simp] theorem State.setLtb_pins (x : LayerTable) : (s.setLtb x).pins = s.pins := rfl
@[simp] theorem State.setLtb_pending (x : LayerTable) : (s.setLtb x).pending = s.pending := rfl
@[simp] theorem State.setLtb_self : s.setLtb s.ltb = s := rfl
@[simp] theorem State.setLtb_setLtb (x y : LayerTable) : (s.setLtb x).setLtb y = s.setLtb y := rfl

@[simp] theorem State.setFtb_ports (x : Timebase) : (s.setFtb x).ports = s.ports := rfl
@[simp] theorem State.setFtb_ltb (x : Timebase) : (s.setFtb x).ltb = s.ltb := rfl
@[simp] theorem State.setFtb_ftb (x : Timebase) : (s.setFtb x).ftb = x := rfl
@[simp] theorem State.setFtb_cams (x : Timebase) : (s.setFtb x).cams = s.cams := rfl
@[simp] theorem State.setFtb_scn (x : Timebase) : (s.setFtb x).scn = s.scn := rfl
@[simp] theorem State.setFtb_mkm (x : Timebase) : (s.setFtb x).mkm = s.mkm := rfl
@[simp] theorem State.setFtb_ovm (x : Timebase) : (s.setFtb x).ovm = s.ovm := rfl
@[simp] theorem State.setFtb_cmp (x : Timebase) : (s.setFtb x).cmp = s.cmp := rfl
@[simp] theorem State.setFtb_stc (x : Timebase) : (s.setFtb x).stc = s.stc := rfl
@[simp] theorem State.setFtb_fst (x : Timebase) : (s.setFtb x).fst = s.fst := rfl
@[simp] theorem State.setFtb_links (x : Timebase) : (s.setFtb x).links = s.links := rfl
@[simp] theorem State.setFtb_pins (x : Timebase) : (s.setFtb x).pins = s.pins := rfl
@[simp] theorem State.setFtb_pending (x : Timebase) : (s.setFtb x).pending = s.pending := rfl
@[simp] theorem State.setFtb_self : s.setFtb s.ftb = s := rfl
@[simp] theorem State.setFtb_setFtb (x y : Timebase) : (s.setFtb x).setFtb y = s.setFtb y := rfl

@[simp] theorem State.setCams_ports (x : Cameras) : (s.setCams x).ports = s.ports := rfl
@[simp] theorem State.setCams_ltb (x : Cameras) : (s.setCams x).ltb = s.ltb := rfl
@[simp] theorem State.setCams_ftb (x : Cameras) : (s.setCams x).ftb = s.ftb := rfl
@[simp] theorem State.setCams_cams (x : Cameras) : (s.setCams x).cams = x := rfl
@[simp] theorem State.setCams_scn (x : Cameras) : (s.setCams x).scn = s.scn := rfl
@[simp] theorem State.setCams_mkm (x : Cameras) : (s.setCams x).mkm = s.mkm := rfl
@[simp] theorem State.setCams_ovm (x : Cameras) : (s.setCams x).ovm = s.ovm := rfl
@[simp] theorem State.setCams_cmp (x : Cameras) : (s.setCams x).cmp = s.cmp := rfl
@[simp] theorem State.setCams_stc (x : Cameras) : (s.setCams x).stc = s.stc := rfl
@[simp] theorem State.setCams_fst (x : Cameras) : (s.setCams x).fst = s.fst := rfl
@[simp] theorem State.setCams_links (x : Cameras) : (s.setCams x).links = s.links := rfl
@[simp] theorem State.setCams_pins (x : Cameras) : (s.setCams x).pins = s.pins := rfl
@[simp] theorem State.setCams_pending (x : Cameras) : (s.setCams x).pending = s.pending := rfl
@[simp] theorem State.setCams_self : s.setCams s.cams = s := rfl
@[simp] theorem State.setCams_setCams (x y : Cameras) : (s.setCams x).setCams y = s.setCams y := rfl

@[simp] theorem State.setScn_ports (x : Conditioner) : (s.setScn x).ports = s.ports := rfl
@[simp] theorem State.setScn_ltb (x : Conditioner) : (s.setScn x).ltb = s.ltb := rfl
@[simp] theorem State.setScn_ftb (x : Conditioner) : (s.setScn x).ftb = s.ftb := rfl
@[simp] theorem State.setScn_cams (x : Conditioner) : (s.setScn x).cams = s.cams := rfl
@[simp] theorem State.setScn_scn (x : Conditioner) : (s.setScn x).scn = x := rfl
@[simp] theorem State.setScn_mkm (x : Conditioner) : (s.setScn x).mkm = s.mkm := rfl
@[simp] theorem State.setScn_ovm (x : Conditioner) : (s.setScn x).ovm = s.ovm := rfl
@[simp] theorem State.setScn_cmp (x : Conditioner) : (s.setScn x).cmp = s.cmp := rfl
@[simp] theorem State.setScn_stc (x : Conditioner) : (s.setScn x).stc = s.stc := rfl
@[simp] theorem State.setScn_fst (x : Conditioner) : (s.setScn x).fst = s.fst := rfl
@[simp] theorem State.setScn_links (x : Conditioner) : (s.setScn x).links = s.links := rfl
@[simp] theorem State.setScn_pins (x : Conditioner) : (s.setScn x).pins = s.pins := rfl
@[simp] theorem State.setScn_pending (x : Conditioner) : (s.setScn x).pending = s.pending := rfl
@[simp] theorem State.setScn_self : s.setScn s.scn = s := rfl
@[simp] theorem State.setScn_setScn (x y : Conditioner) : (s.setScn x).setScn y = s.setScn y := rfl

@[simp] theorem State.setMkm_ports (x : MarkerMap) : (s.setMkm x).ports = s.ports := rfl
@[simp] theorem State.setMkm_ltb (x : MarkerMap) : (s.setMkm x).ltb = s.ltb := rfl
@[simp] theorem State.setMkm_ftb (x : MarkerMap) : (s.setMkm x).ftb = s.ftb := rfl
@[simp] theorem State.setMkm_cams (x : MarkerMap) : (s.setMkm x).cams = s.cams := rfl
@[simp] theorem State.setMkm_scn (x : MarkerMap) : (s.setMkm x).scn = s.scn := rfl
@[simp] theorem State.setMkm_mkm (x : MarkerMap) : (s.setMkm x).mkm = x := rfl
@[simp] theorem State.setMkm_ovm (x : MarkerMap) : (s.setMkm x).ovm = s.ovm := rfl
@[simp] theorem State.setMkm_cmp (x : MarkerMap) : (s.setMkm x).cmp = s.cmp := rfl
@[simp] theorem State.setMkm_stc (x : MarkerMap) : (s.setMkm x).stc = s.stc := rfl
@[simp] theorem State.setMkm_fst (x : MarkerMap) : (s.setMkm x).fst = s.fst := rfl
@[simp] theorem State.setMkm_links (x : MarkerMap) : (s.setMkm x).links = s.links := rfl
@[simp] theorem State.setMkm_pins (x : MarkerMap) : (s.setMkm x).pins = s.pins := rfl
@[simp] theorem State.setMkm_pending (x : MarkerMap) : (s.setMkm x).pending = s.pending := rfl
@[simp] theorem State.setMkm_self : s.setMkm s.mkm = s := rfl
@[simp] theorem State.setMkm_setMkm (x y : MarkerMap) : (s.setMkm x).setMkm y = s.setMkm y := rfl

@[simp] theorem State.setOvm_ports (x : Overlay) : (s.setOvm x).ports = s.ports := rfl
@[simp] theorem State.setOvm_ltb (x : Overlay) : (s.setOvm x).ltb = s.ltb := rfl
@[simp] theorem State.setOvm_ftb (x : Overlay) : (s.setOvm x).ftb = s.ftb := rfl
@[simp] theorem State.setOvm_cams (x : Overlay) : (s.setOvm x).cams = s.cams := rfl
@[simp] theorem State.setOvm_scn (x : Overlay) : (s.setOvm x).scn = s.scn := rfl
@[simp] theorem State.setOvm_mkm (x : Overlay) : (s.setOvm x).mkm = s.mkm := rfl
@[simp] theorem State.setOvm_ovm (x : Overlay) : (s.setOvm x).ovm = x := rfl
@[simp] theorem State.setOvm_cmp (x : Overlay) : (s.setOvm x).cmp = s.cmp := rfl
@[simp] theorem State.setOvm_stc (x : Overlay) : (s.setOvm x).stc = s.stc := rfl
@[simp] theorem State.setOvm_fst (x : Overlay) : (s.setOvm x).fst = s.fst := rfl
@[simp] theorem State.setOvm_links (x : Overlay) : (s.setOvm x).links = s.links := rfl
@[simp] theorem State.setOvm_pins (x : Overlay) : (s.setOvm x).pins = s.pins := rfl
@[simp] theorem State.setOvm_pending (x : Overlay) : (s.setOvm x).pending = s.pending := rfl
@[simp] theorem State.setOvm_self : s.setOvm s.ovm = s := rfl
@[simp] theorem State.setOvm_setOvm (x y : Overlay) : (s.setOvm x).setOvm y = s.setOvm y := rfl

@[simp] theorem State.setCmp_ports (x : Composer) : (s.setCmp x).ports = s.ports := rfl
@[simp] theorem State.setCmp_ltb (x : Composer) : (s.setCmp x).ltb = s.ltb := rfl
@[simp] theorem State.setCmp_ftb (x : Composer) : (s.setCmp x).ftb = s.ftb := rfl
@[simp] theorem State.setCmp_cams (x : Composer) : (s.setCmp x).cams = s.cams := rfl
@[simp] theorem State.setCmp_scn (x : Composer) : (s.setCmp x).scn = s.scn := rfl
@[simp] theorem State.setCmp_mkm (x : Composer) : (s.setCmp x).mkm = s.mkm := rfl
@[simp] theorem State.setCmp_ovm (x : Composer) : (s.setCmp x).ovm = s.ovm := rfl
@[simp] theorem State.setCmp_cmp (x : Composer) : (s.setCmp x).cmp = x := rfl
@[simp] theorem State.setCmp_stc (x : Composer) : (s.setCmp x).stc = s.stc := rfl
@[simp] theorem State.setCmp_fst (x : Composer) : (s.setCmp x).fst = s.fst := rfl
@[simp] theorem State.setCmp_links (x : Composer) : (s.setCmp x).links = s.links := rfl
@[simp] theorem State.setCmp_pins (x : Composer) : (s.setCmp x).pins = s.pins := rfl
@[simp] theorem State.setCmp_pending (x : Composer) : (s.setCmp x).pending = s.pending := rfl
@[simp] theorem State.setCmp_self : s.setCmp s.cmp = s := rfl
@[simp] theorem State.setCmp_setCmp (x y : Composer) : (s.setCmp x).setCmp y = s.setCmp y := rfl

@[simp] theorem State.setStc_ports (x : Controller) : (s.setStc x).ports = s.ports := rfl
@[simp] theorem State.setStc_ltb (x : Controller) : (s.setStc x).ltb = s.ltb := rfl
@[simp] theorem State.setStc_ftb (x : Controller) : (s.setStc x).ftb = s.ftb := rfl
@[simp] theorem State.setStc_cams (x : Controller) : (s.setStc x).cams = s.cams := rfl
@[simp] theorem State.setStc_scn (x : Controller) : (s.setStc x).scn = s.scn := rfl
@[simp] theorem State.setStc_mkm (x : Controller) : (s.setStc x).mkm = s.mkm := rfl
@[simp] theorem State.setStc_ovm (x : Controller) : (s.setStc x).ovm = s.ovm := rfl
@[simp] theorem State.setStc_cmp (x : Controller) : (s.setStc x).cmp = s.cmp := rfl
@[simp] theorem State.setStc_stc (x : Controller) : (s.setStc x).stc = x := rfl
@[simp] theorem State.setStc_fst (x : Controller) : (s.setStc x).fst = s.fst := rfl
@[simp] theorem State.setStc_links (x : Controller) : (s.setStc x).links = s.links := rfl
@[simp] theorem State.setStc_pins (x : Controller) : (s.setStc x).pins = s.pins := rfl
@[simp] theorem State.setStc_pending (x : Controller) : (s.setStc x).pending = s.pending := rfl
@[simp] theorem State.setStc_self : s.setStc s.stc = s := rfl
@[simp] theorem State.setStc_setStc (x y : Controller) : (s.setStc x).setStc y = s.setStc y := rfl

@[simp] theorem State.setFst_ports (x : Fitting) : (s.setFst x).ports = s.ports := rfl
@[simp] theorem State.setFst_ltb (x : Fitting) : (s.setFst x).ltb = s.ltb := rfl
@[simp] theorem State.setFst_ftb (x : Fitting) : (s.setFst x).ftb = s.ftb := rfl
@[simp] theorem State.setFst_cams (x : Fitting) : (s.setFst x).cams = s.cams := rfl
@[simp] theorem State.setFst_scn (x : Fitting) : (s.setFst x).scn = s.scn := rfl
@[simp] theorem State.setFst_mkm (x : Fitting) : (s.setFst x).mkm = s.mkm := rfl
@[simp] theorem State.setFst_ovm (x : Fitting) : (s.setFst x).ovm = s.ovm := rfl
@[simp] theorem State.setFst_cmp (x : Fitting) : (s.setFst x).cmp = s.cmp := rfl
@[simp] theorem State.setFst_stc (x : Fitting) : (s.setFst x).stc = s.stc := rfl
@[simp] theorem State.setFst_fst (x : Fitting) : (s.setFst x).fst = x := rfl
@[simp] theorem State.setFst_links (x : Fitting) : (s.setFst x).links = s.links := rfl
@[simp] theorem State.setFst_pins (x : Fitting) : (s.setFst x).pins = s.pins := rfl
@[simp] theorem State.setFst_pending (x : Fitting) : (s.setFst x).pending = s.pending := rfl
@[simp] theorem State.setFst_self : s.setFst s.fst = s := rfl
@[simp] theorem State.setFst_setFst (x y : Fitting) : (s.setFst x).setFst y = s.setFst y := rfl

@[simp] theorem State.setLinks_ports (x : LinkOutputs) : (s.setLinks x).ports = s.ports := rfl
@[simp] theorem State.setLinks_ltb (x : LinkOutputs) : (s.setLinks x).ltb = s.ltb := rfl
@[simp] theorem State.setLinks_ftb (x : LinkOutputs) : (s.setLinks x).ftb = s.ftb := rfl
@[simp] theorem State.setLinks_cams (x : LinkOutputs) : (s.setLinks x).cams = s.cams := rfl
@[simp] theorem State.setLinks_scn (x : LinkOutputs) : (s.setLinks x).scn = s.scn := rfl
@[simp] theorem State.setLinks_mkm (x : LinkOutputs) : (s.setLinks x).mkm = s.mkm := rfl
@[simp] theorem State.setLinks_ovm (x : LinkOutputs) : (s.setLinks x).ovm = s.ovm := rfl
@[simp] theorem State.setLinks_cmp (x : LinkOutputs) : (s.setLinks x).cmp = s.cmp := rfl
@[simp] theorem State.setLinks_stc (x : LinkOutputs) : (s.setLinks x).stc = s.stc := rfl
@[simp] theorem State.setLinks_fst (x : LinkOutputs) : (s.setLinks x).fst = s.fst := rfl
@[simp] theorem State.setLinks_links (x : LinkOutputs) : (s.setLinks x).links = x := rfl
@[simp] theorem State.setLinks_pins (x : LinkOutputs) : (s.setLinks x).pins = s.pins := rfl
@[simp] theorem State.setLinks_pending (x : LinkOutputs) : (s.setLinks x).pending = s.pending := rfl
@[simp] theorem State.setLinks_self : s.setLinks s.links = s := rfl
@[simp] theorem State.setLinks_setLinks (x y : LinkOutputs) : (s.setLinks x).setLinks y = s.setLinks y := rfl

@[simp] theorem State.setPins_ports (x : Pins) : (s.setPins x).ports = s.ports := rfl
@[simp] theorem State.setPins_ltb (x : Pins) : (s.setPins x).ltb = s.ltb := rfl
@[simp] theorem State.setPins_ftb (x : Pins) : (s.setPins x).ftb = s.ftb := rfl
@[simp] theorem State.setPins_cams (x : Pins) : (s.setPins x).cams = s.cams := rfl
@[simp] theorem State.setPins_scn (x : Pins) : (s.setPins x).scn = s.scn := rfl
@[simp] theorem State.setPins_mkm (x : Pins) : (s.setPins x).mkm = s.mkm := rfl
@[simp] theorem State.setPins_ovm (x : Pins) : (s.setPins x).ovm = s.ovm := rfl
@[simp] theorem State.setPins_cmp (x : Pins) : (s.setPins x).cmp = s.cmp := rfl
@[simp] theorem State.setPins_stc (x : Pins) : (s.setPins x).stc = s.stc := rfl
@[simp] theorem State.setPins_fst (x : Pins) : (s.setPins x).fst = s.fst := rfl
@[simp] theorem State.setPins_links (x : Pins) : (s.setPins x).links = s.links := rfl
@[simp] theorem State.setPins_pins (x : Pins) : (s.setPins x).pins = x := rfl
@[simp] theorem State.setPins_pending (x : Pins) : (s.setPins x).pending = s.pending := rfl
@[simp] theorem State.setPins_self : s.setPins s.pins = s := rfl
@[simp] theorem State.setPins_setPins (x y : Pins) : (s.setPins x).setPins y = s.setPins y := rfl

@[simp] theorem State.setPending_ports (x : List Instr) : (s.setPending x).ports = s.ports := rfl
@[simp] theorem State.setPending_ltb (x : List Instr) : (s.setPending x).ltb = s.ltb := rfl
@[simp] theorem State.setPending_ftb (x : List Instr) : (s.setPending x).ftb = s.ftb := rfl
@[simp] theorem State.setPending_cams (x : List Instr) : (s.setPending x).cams = s.cams := rfl
@[simp] theorem State.setPending_scn (x : List Instr) : (s.setPending x).scn = s.scn := rfl
@[simp] theorem State.setPending_mkm (x : List Instr) : (s.setPending x).mkm = s.mkm := rfl
@[simp] theorem State.setPending_ovm (x : List Instr) : (s.setPending x).ovm = s.ovm := rfl
@[simp] theorem State.setPending_cmp (x : List Instr) : (s.setPending x).cmp = s.cmp := rfl
@[simp] theorem State.setPending_stc (x : List Instr) : (s.setPending x).stc = s.stc := rfl
@[simp] theorem State.setPending_fst (x : List Instr) : (s.setPending x).fst = s.fst := rfl
@[simp] theorem State.setPending_links (x : List Instr) : (s.setPending x).links = s.links := rfl
@[simp] theorem State.setPending_pins (x : List Instr) : (s.setPending x).pins = s.pins := rfl
@[simp] theorem State.setPending_pending (x : List Instr) : (s.setPending x).pending = x := rfl
@[simp] theorem State.setPending_self : s.setPending s.pending = s := rfl
@[simp] theorem State.setPending_setPending (x y : List Instr) : (s.setPending x).setPending y = s.setPending y := rfl

/-! ## One item for each port -/

variable {α : Type} (x : PerPort α) (p q : Port) (a : α)

@[simp] theorem PerPort.get_set_self : (x.set p a).get p = a := by cases p <;> rfl

theorem PerPort.get_set_of_ne (h : q ≠ p) : (x.set p a).get q = x.get q := by
  cases p <;> cases q <;> first | rfl | exact absurd rfl h

theorem PerPort.get_set : (x.set p a).get q = if q = p then a else x.get q := by
  cases p <;> cases q <;> rfl

@[simp] theorem PerPort.set_get_self : x.set p (x.get p) = x := by cases p <;> rfl

@[simp] theorem PerPort.get_all : (PerPort.all a).get p = a := by cases p <;> rfl

@[simp] theorem PerPort.get_body : x.get .body = x.body := rfl
@[simp] theorem PerPort.get_detect : x.get .detect = x.detect := rfl
@[simp] theorem PerPort.get_cab : x.get .cab = x.cab := rfl

end Sys2Proof.Machine
end

