-- ==== Sys2Proof/Laws/Ports.lean ====
section
/-! SUPPORT. Everything the shared operations on the ports can do: which blocks they leave, how they commute,
and what `serve` answers. Later proofs cite these and do not unfold the operations. -/

namespace Sys2Proof.Machine

variable (s : State) (p q : Port)

/-! ## Only the ports change -/

@[simp] theorem State.modPort_ltb (f : PortState → PortState) : (s.modPort p f).ltb = s.ltb := rfl
@[simp] theorem State.modPort_ftb (f : PortState → PortState) : (s.modPort p f).ftb = s.ftb := rfl
@[simp] theorem State.modPort_cams (f : PortState → PortState) : (s.modPort p f).cams = s.cams := rfl
@[simp] theorem State.modPort_scn (f : PortState → PortState) : (s.modPort p f).scn = s.scn := rfl
@[simp] theorem State.modPort_mkm (f : PortState → PortState) : (s.modPort p f).mkm = s.mkm := rfl
@[simp] theorem State.modPort_ovm (f : PortState → PortState) : (s.modPort p f).ovm = s.ovm := rfl
@[simp] theorem State.modPort_cmp (f : PortState → PortState) : (s.modPort p f).cmp = s.cmp := rfl
@[simp] theorem State.modPort_stc (f : PortState → PortState) : (s.modPort p f).stc = s.stc := rfl
@[simp] theorem State.modPort_fst (f : PortState → PortState) : (s.modPort p f).fst = s.fst := rfl
@[simp] theorem State.modPort_links (f : PortState → PortState) : (s.modPort p f).links = s.links := rfl
@[simp] theorem State.modPort_pins (f : PortState → PortState) : (s.modPort p f).pins = s.pins := rfl
@[simp] theorem State.modPort_pending (f : PortState → PortState) : (s.modPort p f).pending = s.pending := rfl

@[simp] theorem State.post_ltb (r : Reply) : (s.post p r).ltb = s.ltb := rfl
@[simp] theorem State.post_ftb (r : Reply) : (s.post p r).ftb = s.ftb := rfl
@[simp] theorem State.post_cams (r : Reply) : (s.post p r).cams = s.cams := rfl
@[simp] theorem State.post_scn (r : Reply) : (s.post p r).scn = s.scn := rfl
@[simp] theorem State.post_mkm (r : Reply) : (s.post p r).mkm = s.mkm := rfl
@[simp] theorem State.post_ovm (r : Reply) : (s.post p r).ovm = s.ovm := rfl
@[simp] theorem State.post_cmp (r : Reply) : (s.post p r).cmp = s.cmp := rfl
@[simp] theorem State.post_stc (r : Reply) : (s.post p r).stc = s.stc := rfl
@[simp] theorem State.post_fst (r : Reply) : (s.post p r).fst = s.fst := rfl
@[simp] theorem State.post_links (r : Reply) : (s.post p r).links = s.links := rfl
@[simp] theorem State.post_pins (r : Reply) : (s.post p r).pins = s.pins := rfl
@[simp] theorem State.post_pending (r : Reply) : (s.post p r).pending = s.pending := rfl

@[simp] theorem State.answer_ltb (r : Request) (c : ResultCode) (i : Byte) (v : List Byte) : (s.answer p r c i v).ltb = s.ltb := rfl
@[simp] theorem State.answer_ftb (r : Request) (c : ResultCode) (i : Byte) (v : List Byte) : (s.answer p r c i v).ftb = s.ftb := rfl
@[simp] theorem State.answer_cams (r : Request) (c : ResultCode) (i : Byte) (v : List Byte) : (s.answer p r c i v).cams = s.cams := rfl
@[simp] theorem State.answer_scn (r : Request) (c : ResultCode) (i : Byte) (v : List Byte) : (s.answer p r c i v).scn = s.scn := rfl
@[simp] theorem State.answer_mkm (r : Request) (c : ResultCode) (i : Byte) (v : List Byte) : (s.answer p r c i v).mkm = s.mkm := rfl
@[simp] theorem State.answer_ovm (r : Request) (c : ResultCode) (i : Byte) (v : List Byte) : (s.answer p r c i v).ovm = s.ovm := rfl
@[simp] theorem State.answer_cmp (r : Request) (c : ResultCode) (i : Byte) (v : List Byte) : (s.answer p r c i v).cmp = s.cmp := rfl
@[simp] theorem State.answer_stc (r : Request) (c : ResultCode) (i : Byte) (v : List Byte) : (s.answer p r c i v).stc = s.stc := rfl
@[simp] theorem State.answer_fst (r : Request) (c : ResultCode) (i : Byte) (v : List Byte) : (s.answer p r c i v).fst = s.fst := rfl
@[simp] theorem State.answer_links (r : Request) (c : ResultCode) (i : Byte) (v : List Byte) : (s.answer p r c i v).links = s.links := rfl
@[simp] theorem State.answer_pins (r : Request) (c : ResultCode) (i : Byte) (v : List Byte) : (s.answer p r c i v).pins = s.pins := rfl
@[simp] theorem State.answer_pending (r : Request) (c : ResultCode) (i : Byte) (v : List Byte) : (s.answer p r c i v).pending = s.pending := rfl

@[simp] theorem State.raiseTo_ltb (c : AlertCode) (a b : Nat) : (s.raiseTo p c a b).ltb = s.ltb := rfl
@[simp] theorem State.raiseTo_ftb (c : AlertCode) (a b : Nat) : (s.raiseTo p c a b).ftb = s.ftb := rfl
@[simp] theorem State.raiseTo_cams (c : AlertCode) (a b : Nat) : (s.raiseTo p c a b).cams = s.cams := rfl
@[simp] theorem State.raiseTo_scn (c : AlertCode) (a b : Nat) : (s.raiseTo p c a b).scn = s.scn := rfl
@[simp] theorem State.raiseTo_mkm (c : AlertCode) (a b : Nat) : (s.raiseTo p c a b).mkm = s.mkm := rfl
@[simp] theorem State.raiseTo_ovm (c : AlertCode) (a b : Nat) : (s.raiseTo p c a b).ovm = s.ovm := rfl
@[simp] theorem State.raiseTo_cmp (c : AlertCode) (a b : Nat) : (s.raiseTo p c a b).cmp = s.cmp := rfl
@[simp] theorem State.raiseTo_stc (c : AlertCode) (a b : Nat) : (s.raiseTo p c a b).stc = s.stc := rfl
@[simp] theorem State.raiseTo_fst (c : AlertCode) (a b : Nat) : (s.raiseTo p c a b).fst = s.fst := rfl
@[simp] theorem State.raiseTo_links (c : AlertCode) (a b : Nat) : (s.raiseTo p c a b).links = s.links := rfl
@[simp] theorem State.raiseTo_pins (c : AlertCode) (a b : Nat) : (s.raiseTo p c a b).pins = s.pins := rfl
@[simp] theorem State.raiseTo_pending (c : AlertCode) (a b : Nat) : (s.raiseTo p c a b).pending = s.pending := rfl

@[simp] theorem State.taken_ltb : (s.taken p).ltb = s.ltb := rfl
@[simp] theorem State.taken_ftb : (s.taken p).ftb = s.ftb := rfl
@[simp] theorem State.taken_cams : (s.taken p).cams = s.cams := rfl
@[simp] theorem State.taken_scn : (s.taken p).scn = s.scn := rfl
@[simp] theorem State.taken_mkm : (s.taken p).mkm = s.mkm := rfl
@[simp] theorem State.taken_ovm : (s.taken p).ovm = s.ovm := rfl
@[simp] theorem State.taken_cmp : (s.taken p).cmp = s.cmp := rfl
@[simp] theorem State.taken_stc : (s.taken p).stc = s.stc := rfl
@[simp] theorem State.taken_fst : (s.taken p).fst = s.fst := rfl
@[simp] theorem State.taken_links : (s.taken p).links = s.links := rfl
@[simp] theorem State.taken_pins : (s.taken p).pins = s.pins := rfl
@[simp] theorem State.taken_pending : (s.taken p).pending = s.pending := rfl

@[simp] theorem State.replied_ltb (r : Request) (c : ResultCode) (i : Byte) (v : List Byte) : (s.replied p r c i v).ltb = s.ltb := rfl
@[simp] theorem State.replied_ftb (r : Request) (c : ResultCode) (i : Byte) (v : List Byte) : (s.replied p r c i v).ftb = s.ftb := rfl
@[simp] theorem State.replied_cams (r : Request) (c : ResultCode) (i : Byte) (v : List Byte) : (s.replied p r c i v).cams = s.cams := rfl
@[simp] theorem State.replied_scn (r : Request) (c : ResultCode) (i : Byte) (v : List Byte) : (s.replied p r c i v).scn = s.scn := rfl
@[simp] theorem State.replied_mkm (r : Request) (c : ResultCode) (i : Byte) (v : List Byte) : (s.replied p r c i v).mkm = s.mkm := rfl
@[simp] theorem State.replied_ovm (r : Request) (c : ResultCode) (i : Byte) (v : List Byte) : (s.replied p r c i v).ovm = s.ovm := rfl
@[simp] theorem State.replied_cmp (r : Request) (c : ResultCode) (i : Byte) (v : List Byte) : (s.replied p r c i v).cmp = s.cmp := rfl
@[simp] theorem State.replied_stc (r : Request) (c : ResultCode) (i : Byte) (v : List Byte) : (s.replied p r c i v).stc = s.stc := rfl
@[simp] theorem State.replied_fst (r : Request) (c : ResultCode) (i : Byte) (v : List Byte) : (s.replied p r c i v).fst = s.fst := rfl
@[simp] theorem State.replied_links (r : Request) (c : ResultCode) (i : Byte) (v : List Byte) : (s.replied p r c i v).links = s.links := rfl
@[simp] theorem State.replied_pins (r : Request) (c : ResultCode) (i : Byte) (v : List Byte) : (s.replied p r c i v).pins = s.pins := rfl
@[simp] theorem State.replied_pending (r : Request) (c : ResultCode) (i : Byte) (v : List Byte) : (s.replied p r c i v).pending = s.pending := rfl

@[simp] theorem State.raiseAll_ltb (c : AlertCode) (a b : Nat) : (s.raiseAll c a b).ltb = s.ltb := rfl
@[simp] theorem State.raiseAll_ftb (c : AlertCode) (a b : Nat) : (s.raiseAll c a b).ftb = s.ftb := rfl
@[simp] theorem State.raiseAll_cams (c : AlertCode) (a b : Nat) : (s.raiseAll c a b).cams = s.cams := rfl
@[simp] theorem State.raiseAll_scn (c : AlertCode) (a b : Nat) : (s.raiseAll c a b).scn = s.scn := rfl
@[simp] theorem State.raiseAll_mkm (c : AlertCode) (a b : Nat) : (s.raiseAll c a b).mkm = s.mkm := rfl
@[simp] theorem State.raiseAll_ovm (c : AlertCode) (a b : Nat) : (s.raiseAll c a b).ovm = s.ovm := rfl
@[simp] theorem State.raiseAll_cmp (c : AlertCode) (a b : Nat) : (s.raiseAll c a b).cmp = s.cmp := rfl
@[simp] theorem State.raiseAll_stc (c : AlertCode) (a b : Nat) : (s.raiseAll c a b).stc = s.stc := rfl
@[simp] theorem State.raiseAll_fst (c : AlertCode) (a b : Nat) : (s.raiseAll c a b).fst = s.fst := rfl
@[simp] theorem State.raiseAll_links (c : AlertCode) (a b : Nat) : (s.raiseAll c a b).links = s.links := rfl
@[simp] theorem State.raiseAll_pins (c : AlertCode) (a b : Nat) : (s.raiseAll c a b).pins = s.pins := rfl
@[simp] theorem State.raiseAll_pending (c : AlertCode) (a b : Nat) : (s.raiseAll c a b).pending = s.pending := rfl

/-! ## One port changed -/

@[simp] theorem State.modPort_get (f : PortState → PortState) :
    (s.modPort p f).ports.get p = f (s.ports.get p) := by simp [State.modPort]

theorem State.modPort_get_of_ne (f : PortState → PortState) (h : q ≠ p) :
    (s.modPort p f).ports.get q = s.ports.get q := by
  simp [State.modPort, PerPort.get_set_of_ne _ _ _ _ h]

@[simp] theorem State.modPort_modPort (f g : PortState → PortState) :
    (s.modPort p f).modPort p g = s.modPort p (fun x => g (f x)) := by
  cases p <;> rfl

theorem State.modPort_comm (f g : PortState → PortState) (h : ∀ x, f (g x) = g (f x)) :
    (s.modPort p f).modPort q g = (s.modPort q g).modPort p f := by
  cases p <;> cases q <;> simp [State.modPort, PerPort.set, PerPort.get, h]

/-! ## Alerts and replies leave the request queue; placing an alert does not read it -/

/-- Replace a port's request queue. -/
theorem PortState.place_requests (x : PortState) (a : Alert) (rs : List Request) :
    ({ x with requests := rs } : PortState).place a = { x.place a with requests := rs } := by
  unfold PortState.place
  have h : ({ x with requests := rs } : PortState).offers = x.offers := rfl
  rw [h]
  cases bumpFirst (fun b => decide (b.item.code = a.code) && decide (b.item.subject = a.subject)
      && !x.offers b.stamp) x.alerts with
  | some as => rfl
  | none => dsimp only; split <;> [rfl; (split <;> rfl)]

theorem PortState.raise_requests (x : PortState) (a : Alert) (rs : List Request) :
    ({ x with requests := rs } : PortState).raise a = { x.raise a with requests := rs } := by
  unfold PortState.raise
  split
  · exact PortState.place_requests x a rs
  · rfl

@[simp] theorem PortState.place_keeps (x : PortState) (a : Alert) :
    (x.place a).requests = x.requests ∧ (x.place a).replies = x.replies
    ∧ (x.place a).overrun = x.overrun ∧ (x.place a).short = x.short
    ∧ (x.place a).subscription = x.subscription ∧ (x.place a).transaction = x.transaction := by
  unfold PortState.place
  cases bumpFirst (fun b => decide (b.item.code = a.code) && decide (b.item.subject = a.subject)
      && !x.offers b.stamp) x.alerts with
  | some as => exact ⟨rfl, rfl, rfl, rfl, rfl, rfl⟩
  | none => dsimp only; split <;> [simp; (split <;> simp)]

/-- What raising an alert at a port leaves (R166, R167). -/
theorem PortState.raise_keeps (x : PortState) (a : Alert) :
    (x.raise a).requests = x.requests ∧ (x.raise a).replies = x.replies
    ∧ (x.raise a).overrun = x.overrun ∧ (x.raise a).short = x.short
    ∧ (x.raise a).subscription = x.subscription ∧ (x.raise a).transaction = x.transaction := by
  unfold PortState.raise
  split
  · exact PortState.place_keeps x a
  · exact ⟨rfl, rfl, rfl, rfl, rfl, rfl⟩

theorem State.raiseTo_replies (c : AlertCode) (a b : Nat) :
    ((s.raiseTo q c a b).ports.get p).replies = (s.ports.get p).replies := by
  by_cases h : p = q
  · subst h; simp [State.raiseTo, (PortState.raise_keeps _ _).2.1]
  · rw [State.raiseTo, State.modPort_get_of_ne _ _ _ _ h]

theorem State.raiseTo_requests (c : AlertCode) (a b : Nat) :
    ((s.raiseTo q c a b).ports.get p).requests = (s.ports.get p).requests := by
  by_cases h : p = q
  · subst h; simp [State.raiseTo, (PortState.raise_keeps _ _).1]
  · rw [State.raiseTo, State.modPort_get_of_ne _ _ _ _ h]

@[simp] theorem State.raiseAll_replies (c : AlertCode) (a b : Nat) :
    ((s.raiseAll c a b).ports.get p).replies = (s.ports.get p).replies := by
  simp [State.raiseAll, State.raiseTo_replies]

@[simp] theorem State.raiseAll_requests (c : AlertCode) (a b : Nat) :
    ((s.raiseAll c a b).ports.get p).requests = (s.ports.get p).requests := by
  simp [State.raiseAll, State.raiseTo_requests]

/-! ## Steps that raise alerts and do nothing else to the ports -/

theorem bumpFirst_length (m : Stamped Alert → Bool) : ∀ {as bs : List (Stamped Alert)},
    bumpFirst m as = some bs → bs.length = as.length
  | a :: as, bs, h => by
    unfold bumpFirst at h
    split at h
    · simp only [Option.some.injEq] at h; subst h; rfl
    · split at h
      · rename_i cs hcs
        simp only [Option.some.injEq] at h; subst h
        simp [bumpFirst_length m hcs]
      · cases h

theorem PortState.place_alerts (x : PortState) (a : Alert) (h : x.alerts.length ≤ 8) :
    (x.place a).alerts.length ≤ 8 := by
  unfold PortState.place
  split
  · rename_i as has; simp only [bumpFirst_length _ has]; exact h
  · split
    · exact h
    · have hl : (x.alerts.takeWhile isSafety).length + (x.alerts.dropWhile isSafety).length = x.alerts.length := by
        rw [← List.length_append, List.takeWhile_append_dropWhile]
      split
      · simp only [List.length_append, List.length_cons]; omega
      · simp only [List.length_append, List.length_cons, List.length_nil]; omega

/-- One port after alerts have been raised and nothing else: its alert queue still holds at most 8. -/
def PortState.Raised (x y : PortState) : Prop :=
  y.requests = x.requests ∧ y.replies = x.replies ∧ y.overrun = x.overrun ∧ y.short = x.short
  ∧ y.subscription = x.subscription ∧ y.transaction = x.transaction
  ∧ (x.alerts.length ≤ 8 → y.alerts.length ≤ 8)

theorem PortState.Raised.refl (x : PortState) : x.Raised x := ⟨rfl, rfl, rfl, rfl, rfl, rfl, id⟩

theorem PortState.Raised.trans {x y z : PortState} (h : x.Raised y) (k : y.Raised z) : x.Raised z := by
  obtain ⟨h1, h2, h3, h4, h5, h6, h7⟩ := h
  obtain ⟨k1, k2, k3, k4, k5, k6, k7⟩ := k
  exact ⟨k1.trans h1, k2.trans h2, k3.trans h3, k4.trans h4, k5.trans h5, k6.trans h6, fun h => k7 (h7 h)⟩

theorem PortState.raised_raise (x : PortState) (a : Alert) : x.Raised (x.raise a) := by
  obtain ⟨h1, h2, h3, h4, h5, h6⟩ := x.raise_keeps a
  refine ⟨h1, h2, h3, h4, h5, h6, fun h => ?_⟩
  unfold PortState.raise
  split
  · exact x.place_alerts a h
  · exact h

/-- Every port after alerts have been raised and nothing else. -/
def State.Raised (s t : State) : Prop := ∀ p : Port, (s.ports.get p).Raised (t.ports.get p)

theorem State.Raised.of_ports {s t : State} (h : t.ports = s.ports) : s.Raised t :=
  fun p => by rw [h]; exact PortState.Raised.refl _

theorem State.Raised.refl (s : State) : s.Raised s := State.Raised.of_ports rfl

theorem State.Raised.trans {s t u : State} (h : s.Raised t) (k : t.Raised u) : s.Raised u :=
  fun p => (h p).trans (k p)

theorem State.raised_raiseTo (c : AlertCode) (a b : Nat) : s.Raised (s.raiseTo q c a b) := by
  intro p
  by_cases h : p = q
  · subst h; rw [State.raiseTo, State.modPort_get]; exact PortState.raised_raise _ _
  · rw [State.raiseTo, State.modPort_get_of_ne _ _ _ _ h]; exact PortState.Raised.refl _

theorem State.raised_raiseAll (c : AlertCode) (a b : Nat) : s.Raised (s.raiseAll c a b) :=
  ((s.raised_raiseTo .body c a b).trans (State.raised_raiseTo _ .detect c a b)).trans
    (State.raised_raiseTo _ .cab c a b)

theorem State.Raised.raiseAll {s t : State} (h : t.ports = s.ports) (c : AlertCode) (a b : Nat) :
    s.Raised (t.raiseAll c a b) := (State.Raised.of_ports h).trans (t.raised_raiseAll c a b)

/-! ## The request taken, and the reply -/

theorem State.dropRequest_eq : s.dropRequest p = s.taken p := rfl

@[simp] theorem State.taken_get :
    (s.taken p).ports.get p = { s.ports.get p with requests := (s.ports.get p).requests.tail } := by
  simp [State.taken]

/-- A reply after the request has been taken. -/
@[simp] theorem State.taken_answer (r : Request) (c : ResultCode) (i : Byte) (v : List Byte) :
    (s.taken p).answer p r c i v = s.replied p r c i v := by
  cases p <;> rfl

@[simp] theorem State.taken_done (r : Request) (v : List Byte) :
    (s.taken p).done p r v = s.replied p r .done 0#8 v := by
  cases p <;> rfl

@[simp] theorem State.taken_refuse (r : Request) (c : ResultCode) :
    (s.taken p).refuse p r c = s.replied p r c 0#8 [] := by
  cases p <;> rfl

@[simp] theorem State.taken_badField (r : Request) (i : Byte) :
    (s.taken p).badField p r i = s.replied p r .badField i [] := by
  cases p <;> rfl

/-! Updates of the blocks do not see that the request has been taken. -/

@[simp] theorem State.taken_setLtb (x : LayerTable) : (s.taken p).setLtb x = (s.setLtb x).taken p := rfl
@[simp] theorem State.taken_setFtb (x : Timebase) : (s.taken p).setFtb x = (s.setFtb x).taken p := rfl
@[simp] theorem State.taken_setCams (x : Cameras) : (s.taken p).setCams x = (s.setCams x).taken p := rfl
@[simp] theorem State.taken_setScn (x : Conditioner) : (s.taken p).setScn x = (s.setScn x).taken p := rfl
@[simp] theorem State.taken_setMkm (x : MarkerMap) : (s.taken p).setMkm x = (s.setMkm x).taken p := rfl
@[simp] theorem State.taken_setOvm (x : Overlay) : (s.taken p).setOvm x = (s.setOvm x).taken p := rfl
@[simp] theorem State.taken_setCmp (x : Composer) : (s.taken p).setCmp x = (s.setCmp x).taken p := rfl
@[simp] theorem State.taken_setStc (x : Controller) : (s.taken p).setStc x = (s.setStc x).taken p := rfl
@[simp] theorem State.taken_setFst (x : Fitting) : (s.taken p).setFst x = (s.setFst x).taken p := rfl
@[simp] theorem State.taken_setLinks (x : LinkOutputs) : (s.taken p).setLinks x = (s.setLinks x).taken p := rfl
@[simp] theorem State.taken_setPins (x : Pins) : (s.taken p).setPins x = (s.setPins x).taken p := rfl
@[simp] theorem State.taken_setSlot (i : Fin 24) (x : LayerSlot) :
    (s.taken p).setSlot i x = (s.setSlot i x).taken p := rfl
@[simp] theorem State.taken_setLink (k : Fin 4) (x : CameraLink) :
    (s.taken p).setLink k x = (s.setLink k x).taken p := rfl
@[simp] theorem State.taken_setMarkers (ms : List Marker) :
    (s.taken p).setMarkers ms = (s.setMarkers ms).taken p := rfl

@[simp] theorem State.taken_raiseTo (c : AlertCode) (a b : Nat) :
    (s.taken p).raiseTo q c a b = (s.raiseTo q c a b).taken p := by
  refine State.modPort_comm s p q (fun x => { x with requests := x.requests.tail })
    (·.raise (s.alertNow c a b)) (fun x => ?_)
  simp only [PortState.raise_requests, (PortState.raise_keeps x _).1]

@[simp] theorem State.taken_raiseAll (c : AlertCode) (a b : Nat) :
    (s.taken p).raiseAll c a b = (s.raiseAll c a b).taken p := by
  simp [State.raiseAll]

@[simp] theorem State.taken_post (r : Reply) : (s.taken p).post q r = (s.post q r).taken p :=
  State.modPort_comm s p q (fun x => { x with requests := x.requests.tail }) (·.post r) (fun _ => rfl)

/-! ## The executor -/

/-- A request that reaches its block is handed to it, out of its queue (R164). -/
theorem serve_of_reaches {kind : RequestKind} {r : Request} (h : s.Reaches p kind r)
    (block : Request → State → Outcome) : serve kind p s block = block r (s.taken p) := by
  obtain ⟨⟨hh, hr, hp⟩, hk, h1, h2, h3⟩ := h
  have hhead : s.headIs p kind = some r := by
    unfold State.headIs State.head
    cases hq : (s.ports.get p).requests with
    | nil => rw [hq] at hh; cases hh
    | cons a as =>
      rw [hq] at hh
      obtain rfl : a = r := by simpa using hh
      simp [State.executorFree, hr, hp, hk]
  simp [serve, hhead, h1, h2, h3, State.dropRequest_eq]

/-- Every way an executor's command can go: it is disabled, it is answered by the executor, or its block takes
the request (R164). -/
theorem serve_cases {kind : RequestKind} {block : Request → State → Outcome} {o : Outcome}
    (h : serve kind p s block = o) :
    (s.headIs p kind = none ∧ o = .next s)
    ∨ ∃ r, s.headIs p kind = some r
      ∧ ((∃ c i, o = .next (s.replied p r c i []))
        ∨ (kind.permitted p = true ∧ kind.admitted s.stc.part = true ∧ kind.payloadFits r.payload = true
          ∧ o = block r (s.taken p))) := by
  unfold serve at h
  cases hd : s.headIs p kind with
  | none => left; rw [hd] at h; exact ⟨rfl, h.symm⟩
  | some r =>
    right
    refine ⟨r, rfl, ?_⟩
    rw [hd] at h
    simp only [State.dropRequest_eq, State.taken_answer, State.taken_refuse, State.taken_badField] at h
    split at h
    · exact .inl ⟨_, _, h.symm⟩
    · split at h
      · exact .inl ⟨_, _, h.symm⟩
      · split at h
        · exact .inl ⟨_, _, h.symm⟩
        · rename_i h1 h2 h3
          exact .inr ⟨by simpa using h1, by simpa using h2, by simpa using h3, h.symm⟩

/-- Every request row is one executor's command with a block of its own (R164). -/
theorem exec_of_requestOf {c : Instr} {kind : RequestKind} {p : Port} (h : requestOf c = some (kind, p)) :
    ∃ block : Request → State → Outcome, ∀ s, exec c s = serve kind p s block := by
  cases c <;> simp only [requestOf, Option.some.injEq, Prod.mk.injEq, reduceCtorEq] at h <;>
    obtain ⟨rfl, rfl⟩ := h <;>
    simp only [exec, execIdentify, execResetPort, execSubscribe, execReadLayer, execReadSignals, execReadMarkers,
    execReadRegions, execCameraStatus, execClaim, execRelease, execEdit, execDiscard, execCommit,
    execSeize, execForce, execAlloc, execFree, execOpenLoad, execLoadData, execAbortLoad,
    execEccClear, execSetPeriod, execSetCommitLine, execSetStrobe, execSetGenlock, execResync,
    execCameraRestart, execSetInput, execSpeed, execSetSpeedBands, execSetVirtual, execMark,
    execUnmark, execClearMarks, execSetNear, execSetPalette, execRun, execQuiet, execDormant,
    execWake, execStoreFitting] <;>
    exact ⟨_, fun _ => rfl⟩

/-- A request that the executor can take is the head its command meets (R164). -/
theorem State.headIs_of_takes {kind : RequestKind} {r : Request} (h : s.Takes p r) (hk : r.kind = kind.code) :
    s.headIs p kind = some r := by
  obtain ⟨hh, hr, hp⟩ := h
  unfold State.headIs State.head
  cases hq : (s.ports.get p).requests with
  | nil => rw [hq] at hh; cases hh
  | cons a as =>
    rw [hq] at hh
    obtain rfl : a = r := by simpa using hh
    simp [State.executorFree, hr, hp, hk]

/-- The request an executor's command takes is the head of its queue, of its kind, with a place free unless it
is a RESET_PORT (R164, R171). -/
theorem State.headIs_some {kind : RequestKind} {r : Request} (h : s.headIs p kind = some r) :
    (∃ rs, (s.ports.get p).requests = r :: rs) ∧ r.kind = kind.code ∧ s.executorFree p r = true := by
  unfold State.headIs State.head at h
  cases hq : (s.ports.get p).requests with
  | nil => simp [hq] at h
  | cons a as =>
    by_cases hf : s.executorFree p a = true
    · by_cases hk : a.kind = kind.code
      · simp [hq, hf, hk] at h
        subst h
        exact ⟨⟨as, rfl⟩, hk, hf⟩
      · simp [hq, hf, hk] at h
    · simp [hq, hf] at h

/-! ## What the part clocks out (R160) -/

/-- Byte by byte, the part clocks out its return frame and then fill. -/
theorem Transaction.clockOut_eq (x : Transaction) (n : Nat) :
    x.clockOut n = (List.range n).map (fun i => (x.header.bytes ++ x.record).getD i 0#8) := by
  unfold Transaction.clockOut Transaction.returnFrame
  apply List.ext_getElem
  · simp; omega
  · intro i h1 h2
    simp only [List.getElem_map, List.getElem_range]
    rw [List.getElem_append]
    split
    · rename_i h
      rw [List.getElem_take, List.getD_eq_getElem?_getD, List.getElem?_eq_getElem (by simp at h ⊢; omega)]; rfl
    · rename_i h
      simp at h2
      rw [List.getElem_replicate, List.getD_eq_getElem?_getD, List.getElem?_eq_none (by simp at h ⊢; omega)]; rfl

@[simp] theorem Transaction.clockOut_length (x : Transaction) (n : Nat) : (x.clockOut n).length = n := by
  rw [Transaction.clockOut_eq]; simp

end Sys2Proof.Machine
end

