-- ==== Sys2Proof/Laws/Layers.lean ====
section
/-! SUPPORT. The Layer Table slot by slot: what each change of the table leaves in a slot and in a pending set. -/

namespace Sys2Proof.Machine

/-! ## Vectors indexed by their own positions -/

theorem ofFn_get {α : Type} {n : Nat} (f : Fin n → α) (i : Fin n) : (Vector.ofFn f)[i] = f i := by simp

theorem vectorSet_get {α : Type} {n : Nat} (v : Vector α n) (i j : Fin n) (a : α) :
    (v.set i a)[j] = if j = i then a else v[j] := by
  simp only [Fin.getElem_fin, Vector.getElem_set, Fin.ext_iff, eq_comm]

theorem vectorSet_get_self {α : Type} {n : Nat} (v : Vector α n) (i : Fin n) (a : α) : (v.set i a)[i] = a := by
  simp

theorem replicate_get {α : Type} {n : Nat} (a : α) (i : Fin n) : (Vector.replicate n a)[i] = a := by simp

theorem vector_any {α : Type} {n : Nat} (v : Vector α n) (P : α → Bool) :
    v.toList.any P = true ↔ ∃ i : Fin n, P v[i] = true := by
  rw [List.any_eq_true]
  constructor
  · rintro ⟨x, hx, hP⟩
    rw [Vector.mem_toList_iff, Vector.mem_iff_getElem] at hx
    obtain ⟨i, hi, rfl⟩ := hx
    exact ⟨⟨i, hi⟩, hP⟩
  · rintro ⟨i, hi⟩
    exact ⟨v[i], by simp, hi⟩

theorem Conditioner.view_get (c : Conditioner) (n : Fin 18) : c.view[n] = c.signal n := ofFn_get _ n

theorem conditionHolds_iff (c : Conditioner) (ts : List Term) :
    conditionHolds c.view ts = true ↔ ∀ x ∈ ts, c.signal x.signal = x.level := by
  simp only [conditionHolds, List.all_eq_true, Conditioner.view_get, beq_iff_eq]

@[simp] theorem Owner.isOwned_iff (o : Owner) : o.isOwned = true ↔ o ≠ .none := by cases o <;> simp [Owner.isOwned]

/-- The safety condition of the part-state tests (R176). -/
theorem State.safetyCondition_iff (s : State) : s.safetyCondition = true ↔
    ∃ i : Fin 24, s.ltb.slots[i].owner ≠ .none ∧ s.ltb.slots[i].active.enabled = true
      ∧ s.ltb.slots[i].active.cls = .safety ∧ s.ltb.slots[i].active.condition ≠ []
      ∧ ∀ x ∈ s.ltb.slots[i].active.condition, s.scn.signal x.signal = x.level := by
  unfold State.safetyCondition
  rw [vector_any]
  simp only [Bool.and_eq_true, Owner.isOwned_iff, conditionHolds_iff, decide_eq_true_eq, Bool.not_eq_true',
    List.isEmpty_eq_false_iff, and_assoc]

/-! ## Slots -/

variable (s : State) (t : LayerTable) (p : Port) (i j : Fin 24)

theorem State.setSlot_slot (x : LayerSlot) :
    (s.setSlot i x).ltb.slots[j] = if j = i then x else s.ltb.slots[j] :=
  vectorSet_get s.ltb.slots i j x

@[simp] theorem State.setSlot_sets (x : LayerSlot) : (s.setSlot i x).ltb.sets = s.ltb.sets := rfl

theorem LayerTable.discard_slot : (t.discard p).slots[i] =
    if t.slots[i].editedBy p then { t.slots[i] with staged := t.slots[i].active, status := .clean }
    else t.slots[i] := ofFn_get _ i

theorem LayerTable.openSet_slot (tag : Tag) : (t.openSet p tag).slots[i] =
    if t.slots[i].editedBy p then { t.slots[i] with status := .pending } else t.slots[i] := ofFn_get _ i

theorem LayerTable.applySet_slot (ms : List (Fin 24)) : (t.applySet p ms).slots[i] =
    if i ∈ ms then { t.slots[i] with active := t.slots[i].staged, status := .clean } else t.slots[i] :=
  ofFn_get _ i

theorem LayerTable.refuseSet_slot (ms : List (Fin 24)) : (t.refuseSet p ms).slots[i] =
    if i ∈ ms then { t.slots[i] with status := .edited } else t.slots[i] := ofFn_get _ i

theorem LayerTable.portReset_slot : (t.portReset p).slots[i] =
    if t.slots[i].owner = .port p then LayerSlot.unowned else t.slots[i] := ofFn_get _ i

@[simp] theorem LayerTable.leaveSet_slots (o : Owner) : (t.leaveSet o i).slots = t.slots := by
  cases o <;> rfl

/-! The pending sets after each change of the table. -/

@[simp] theorem LayerTable.discard_sets : (t.discard p).sets = t.sets := by unfold LayerTable.discard; rfl
@[simp] theorem LayerTable.openSet_sets (tag : Tag) :
    (t.openSet p tag).sets = t.sets.set p (some ⟨tag, t.editedSlots p⟩) := by unfold LayerTable.openSet; rfl
@[simp] theorem LayerTable.applySet_sets (ms : List (Fin 24)) :
    (t.applySet p ms).sets = t.sets.set p none := by unfold LayerTable.applySet; rfl
@[simp] theorem LayerTable.refuseSet_sets (ms : List (Fin 24)) :
    (t.refuseSet p ms).sets = t.sets.set p none := by unfold LayerTable.refuseSet; rfl
@[simp] theorem LayerTable.portReset_sets : (t.portReset p).sets = t.sets.set p none := by
  unfold LayerTable.portReset; rfl

theorem LayerTable.candidates_get (ms : List (Fin 24)) : (t.candidates ms)[i] =
    ⟨t.slots[i].owner, if i ∈ ms then t.slots[i].staged else t.slots[i].active⟩ := ofFn_get _ i

@[simp] theorem LayerSlot.editedBy_iff (x : LayerSlot) :
    x.editedBy p = true ↔ x.owner = .port p ∧ x.status = .edited := by simp [LayerSlot.editedBy]

theorem LayerTable.mem_editedSlots :
    i ∈ t.editedSlots p ↔ t.slots[i].owner = .port p ∧ t.slots[i].status = .edited := by
  simp [LayerTable.editedSlots]

/-! ## The commit line -/

/-- A set's checks find no failing member exactly when no member fails (R39). -/
theorem setFailure_none {present : Vector Bool 4} {regions : Vector (Option Region) 16}
    {table : Vector Candidate 24} : ∀ {ms : List (Fin 24)},
    setFailure present regions table ms = none ↔ ∀ i ∈ ms, memberFailure present regions table i = none := by
  intro ms
  induction ms with
  | nil => simp [setFailure]
  | cons a as ih =>
    cases h : memberFailure present regions table a <;> simp [setFailure, h, ih]

/-- Everything resolving one port's pending set can do (R34, R36, R40, R41). -/
theorem State.resolveSet_cases :
    (s.ltb.sets.get p = none ∧ s.resolveSet p = s)
    ∨ ∃ x, s.ltb.sets.get p = some x
      ∧ ((setFailure s.cams.presence s.ovm.regions (s.ltb.candidates x.members) x.members = none
          ∧ s.resolveSet p = (s.setLtb (s.ltb.applySet p x.members)).post p
            (commitReply x.tag .committed (committedValues x.members.length s.ftb.frame)))
        ∨ ∃ i code, setFailure s.cams.presence s.ovm.regions (s.ltb.candidates x.members) x.members
              = some (i, code)
          ∧ s.resolveSet p = (s.setLtb (s.ltb.refuseSet p x.members)).post p
            (commitReply x.tag .commitRefused [byte i.val, byte code.number])) := by
  unfold State.resolveSet
  cases h : s.ltb.sets.get p with
  | none => exact .inl ⟨rfl, rfl⟩
  | some x =>
    refine .inr ⟨x, rfl, ?_⟩
    cases h2 : setFailure s.cams.presence s.ovm.regions (s.ltb.candidates x.members) x.members with
    | none => exact .inl ⟨rfl, by simp only [h2]⟩
    | some a => exact .inr ⟨a.1, a.2, rfl, by simp only [h2]⟩

/-- A region is referenced exactly if a copy of some slot is a BITMAP that names it (R123). -/
theorem LayerTable.references_iff (t : LayerTable) (g : Fin 16) :
    t.references g = true ↔ ∃ (i : Fin 24) (b : BitmapPart), b.region = g
      ∧ (t.slots[i].staged.part = .bitmap b ∨ t.slots[i].active.part = .bitmap b) := by
  have names : ∀ r : LayerRecord, r.names g = true ↔ ∃ b : BitmapPart, b.region = g ∧ r.part = .bitmap b := by
    intro r
    unfold LayerRecord.names
    cases r.part <;> simp
  simp only [LayerTable.references, List.any_eq_true, Vector.mem_toList_iff, Vector.mem_iff_getElem, Bool.or_eq_true,
    names]
  constructor
  · rintro ⟨x, ⟨i, hi, rfl⟩, ⟨b, h1, h2⟩ | ⟨b, h1, h2⟩⟩
    · exact ⟨⟨i, hi⟩, b, h1, .inl h2⟩
    · exact ⟨⟨i, hi⟩, b, h1, .inr h2⟩
  · rintro ⟨i, b, h1, h2 | h2⟩
    · exact ⟨_, ⟨i.val, i.isLt, rfl⟩, .inl ⟨b, h1, h2⟩⟩
    · exact ⟨_, ⟨i.val, i.isLt, rfl⟩, .inr ⟨b, h1, h2⟩⟩

end Sys2Proof.Machine
end

