-- ==== Sys2Proof/Laws/Frame.lean ====
section
/-! SUPPORT. What each part of a step of the timebase can change, block by block: with these no proof about
LINE_END, BOOT_END or a wake unfolds the drawing of a line or a plan. -/

namespace Sys2Proof.Machine

variable (s : State)

/-! A TOP: one camera's plan request, the timebase's part, the plan (R52, R63, R74 to R76, R142, R147). -/

@[simp] theorem State.planRequest_ltb (k : Fin 4) : (s.planRequest k).ltb = s.ltb := by unfold State.planRequest; dsimp only; split <;> rfl
@[simp] theorem State.planRequest_ftb (k : Fin 4) : (s.planRequest k).ftb = s.ftb := by unfold State.planRequest; dsimp only; split <;> rfl
@[simp] theorem State.planRequest_scn (k : Fin 4) : (s.planRequest k).scn = s.scn := by unfold State.planRequest; dsimp only; split <;> rfl
@[simp] theorem State.planRequest_mkm (k : Fin 4) : (s.planRequest k).mkm = s.mkm := by unfold State.planRequest; dsimp only; split <;> rfl
@[simp] theorem State.planRequest_ovm (k : Fin 4) : (s.planRequest k).ovm = s.ovm := by unfold State.planRequest; dsimp only; split <;> rfl
@[simp] theorem State.planRequest_cmp (k : Fin 4) : (s.planRequest k).cmp = s.cmp := by unfold State.planRequest; dsimp only; split <;> rfl
@[simp] theorem State.planRequest_stc (k : Fin 4) : (s.planRequest k).stc = s.stc := by unfold State.planRequest; dsimp only; split <;> rfl
@[simp] theorem State.planRequest_fst (k : Fin 4) : (s.planRequest k).fst = s.fst := by unfold State.planRequest; dsimp only; split <;> rfl
@[simp] theorem State.planRequest_links (k : Fin 4) : (s.planRequest k).links = s.links := by unfold State.planRequest; dsimp only; split <;> rfl
@[simp] theorem State.planRequest_pins (k : Fin 4) : (s.planRequest k).pins = s.pins := by unfold State.planRequest; dsimp only; split <;> rfl
@[simp] theorem State.planRequest_pending (k : Fin 4) : (s.planRequest k).pending = s.pending := by unfold State.planRequest; dsimp only; split <;> rfl

@[simp] theorem State.planRequests_ltb : (s.planRequests).ltb = s.ltb := by simp [State.planRequests]
@[simp] theorem State.planRequests_ftb : (s.planRequests).ftb = s.ftb := by simp [State.planRequests]
@[simp] theorem State.planRequests_scn : (s.planRequests).scn = s.scn := by simp [State.planRequests]
@[simp] theorem State.planRequests_mkm : (s.planRequests).mkm = s.mkm := by simp [State.planRequests]
@[simp] theorem State.planRequests_ovm : (s.planRequests).ovm = s.ovm := by simp [State.planRequests]
@[simp] theorem State.planRequests_cmp : (s.planRequests).cmp = s.cmp := by simp [State.planRequests]
@[simp] theorem State.planRequests_stc : (s.planRequests).stc = s.stc := by simp [State.planRequests]
@[simp] theorem State.planRequests_fst : (s.planRequests).fst = s.fst := by simp [State.planRequests]
@[simp] theorem State.planRequests_links : (s.planRequests).links = s.links := by simp [State.planRequests]
@[simp] theorem State.planRequests_pins : (s.planRequests).pins = s.pins := by simp [State.planRequests]
@[simp] theorem State.planRequests_pending : (s.planRequests).pending = s.pending := by simp [State.planRequests]

@[simp] theorem State.timebaseTop_ltb (b : Bool) : (s.timebaseTop b).ltb = s.ltb := by unfold State.timebaseTop; dsimp only; split <;> rfl
@[simp] theorem State.timebaseTop_cams (b : Bool) : (s.timebaseTop b).cams = s.cams := by unfold State.timebaseTop; dsimp only; split <;> rfl
@[simp] theorem State.timebaseTop_scn (b : Bool) : (s.timebaseTop b).scn = s.scn := by unfold State.timebaseTop; dsimp only; split <;> rfl
@[simp] theorem State.timebaseTop_mkm (b : Bool) : (s.timebaseTop b).mkm = s.mkm := by unfold State.timebaseTop; dsimp only; split <;> rfl
@[simp] theorem State.timebaseTop_ovm (b : Bool) : (s.timebaseTop b).ovm = s.ovm := by unfold State.timebaseTop; dsimp only; split <;> rfl
@[simp] theorem State.timebaseTop_cmp (b : Bool) : (s.timebaseTop b).cmp = s.cmp := by unfold State.timebaseTop; dsimp only; split <;> rfl
@[simp] theorem State.timebaseTop_stc (b : Bool) : (s.timebaseTop b).stc = s.stc := by unfold State.timebaseTop; dsimp only; split <;> rfl
@[simp] theorem State.timebaseTop_fst (b : Bool) : (s.timebaseTop b).fst = s.fst := by unfold State.timebaseTop; dsimp only; split <;> rfl
@[simp] theorem State.timebaseTop_links (b : Bool) : (s.timebaseTop b).links = s.links := by unfold State.timebaseTop; dsimp only; split <;> rfl
@[simp] theorem State.timebaseTop_pins (b : Bool) : (s.timebaseTop b).pins = s.pins := by unfold State.timebaseTop; dsimp only; split <;> rfl
@[simp] theorem State.timebaseTop_pending (b : Bool) : (s.timebaseTop b).pending = s.pending := by unfold State.timebaseTop; dsimp only; split <;> rfl

@[simp] theorem State.timebaseTop_ftb (b : Bool) : (s.timebaseTop b).ftb = s.ftb.top b := by
  unfold State.timebaseTop; dsimp only; split <;> rfl

@[simp] theorem State.takePlan_ltb (b : Bool) : (s.takePlan b).ltb = s.ltb := by unfold State.takePlan; dsimp only; split <;> rfl
@[simp] theorem State.takePlan_ftb (b : Bool) : (s.takePlan b).ftb = s.ftb := by unfold State.takePlan; dsimp only; split <;> rfl
@[simp] theorem State.takePlan_cams (b : Bool) : (s.takePlan b).cams = s.cams := by unfold State.takePlan; dsimp only; split <;> rfl
@[simp] theorem State.takePlan_scn (b : Bool) : (s.takePlan b).scn = s.scn := by unfold State.takePlan; dsimp only; split <;> rfl
@[simp] theorem State.takePlan_mkm (b : Bool) : (s.takePlan b).mkm = s.mkm := by unfold State.takePlan; dsimp only; split <;> rfl
@[simp] theorem State.takePlan_ovm (b : Bool) : (s.takePlan b).ovm = s.ovm := by unfold State.takePlan; dsimp only; split <;> rfl
@[simp] theorem State.takePlan_stc (b : Bool) : (s.takePlan b).stc = s.stc := by unfold State.takePlan; dsimp only; split <;> rfl
@[simp] theorem State.takePlan_fst (b : Bool) : (s.takePlan b).fst = s.fst := by unfold State.takePlan; dsimp only; split <;> rfl
@[simp] theorem State.takePlan_links (b : Bool) : (s.takePlan b).links = s.links := by unfold State.takePlan; dsimp only; split <;> rfl
@[simp] theorem State.takePlan_pins (b : Bool) : (s.takePlan b).pins = s.pins := by unfold State.takePlan; dsimp only; split <;> rfl
@[simp] theorem State.takePlan_pending (b : Bool) : (s.takePlan b).pending = s.pending := by unfold State.takePlan; dsimp only; split <;> rfl

theorem State.takePlan_cmp (b : Bool) : (s.takePlan b).cmp =
    { s.cmp with
      plan := some s.planNow
      overflow := decide (0 < s.planNow.leftOut)
      output := outputModeFor s.stc.part
      recorder := recorderModeFor s.stc.part b
      stopped := []
      metadataSent := false } := by
  unfold State.takePlan; dsimp only; split <;> rfl

@[simp] theorem State.sendMetadata_ports (b : Bool) : (s.sendMetadata b).ports = s.ports := by unfold State.sendMetadata; split <;> first | rfl | (split <;> rfl)
@[simp] theorem State.sendMetadata_ltb (b : Bool) : (s.sendMetadata b).ltb = s.ltb := by unfold State.sendMetadata; split <;> first | rfl | (split <;> rfl)
@[simp] theorem State.sendMetadata_ftb (b : Bool) : (s.sendMetadata b).ftb = s.ftb := by unfold State.sendMetadata; split <;> first | rfl | (split <;> rfl)
@[simp] theorem State.sendMetadata_cams (b : Bool) : (s.sendMetadata b).cams = s.cams := by unfold State.sendMetadata; split <;> first | rfl | (split <;> rfl)
@[simp] theorem State.sendMetadata_scn (b : Bool) : (s.sendMetadata b).scn = s.scn := by unfold State.sendMetadata; split <;> first | rfl | (split <;> rfl)
@[simp] theorem State.sendMetadata_mkm (b : Bool) : (s.sendMetadata b).mkm = s.mkm := by unfold State.sendMetadata; split <;> first | rfl | (split <;> rfl)
@[simp] theorem State.sendMetadata_ovm (b : Bool) : (s.sendMetadata b).ovm = s.ovm := by unfold State.sendMetadata; split <;> first | rfl | (split <;> rfl)
@[simp] theorem State.sendMetadata_stc (b : Bool) : (s.sendMetadata b).stc = s.stc := by unfold State.sendMetadata; split <;> first | rfl | (split <;> rfl)
@[simp] theorem State.sendMetadata_fst (b : Bool) : (s.sendMetadata b).fst = s.fst := by unfold State.sendMetadata; split <;> first | rfl | (split <;> rfl)
@[simp] theorem State.sendMetadata_pins (b : Bool) : (s.sendMetadata b).pins = s.pins := by unfold State.sendMetadata; split <;> first | rfl | (split <;> rfl)
@[simp] theorem State.sendMetadata_pending (b : Bool) : (s.sendMetadata b).pending = s.pending := by unfold State.sendMetadata; split <;> first | rfl | (split <;> rfl)

@[simp] theorem State.sendMetadata_cmp_plan (b : Bool) : (s.sendMetadata b).cmp.plan = s.cmp.plan := by
  unfold State.sendMetadata; split <;> first | rfl | (split <;> rfl)
@[simp] theorem State.sendMetadata_cmp_palette (b : Bool) : (s.sendMetadata b).cmp.palette = s.cmp.palette := by
  unfold State.sendMetadata; split <;> first | rfl | (split <;> rfl)
@[simp] theorem State.sendMetadata_cmp_overflow (b : Bool) : (s.sendMetadata b).cmp.overflow = s.cmp.overflow := by
  unfold State.sendMetadata; split <;> first | rfl | (split <;> rfl)
@[simp] theorem State.sendMetadata_cmp_output (b : Bool) : (s.sendMetadata b).cmp.output = s.cmp.output := by
  unfold State.sendMetadata; split <;> first | rfl | (split <;> rfl)
@[simp] theorem State.sendMetadata_cmp_recorder (b : Bool) : (s.sendMetadata b).cmp.recorder = s.cmp.recorder := by
  unfold State.sendMetadata; split <;> first | rfl | (split <;> rfl)
@[simp] theorem State.sendMetadata_cmp_stopped (b : Bool) : (s.sendMetadata b).cmp.stopped = s.cmp.stopped := by
  unfold State.sendMetadata; split <;> first | rfl | (split <;> rfl)
@[simp] theorem State.sendMetadata_links_display (b : Bool) : (s.sendMetadata b).links.display = s.links.display := by
  unfold State.sendMetadata; split <;> first | rfl | (split <;> rfl)
@[simp] theorem State.sendMetadata_links_recorder (b : Bool) : (s.sendMetadata b).links.recorder = s.links.recorder := by
  unfold State.sendMetadata; split <;> first | rfl | (split <;> rfl)
@[simp] theorem State.sendMetadata_links_rsync (b : Bool) : (s.sendMetadata b).links.rsync = s.links.rsync := by
  unfold State.sendMetadata; split <;> first | rfl | (split <;> rfl)
@[simp] theorem State.sendMetadata_links_strobed (b : Bool) : (s.sendMetadata b).links.strobed = s.links.strobed := by
  unfold State.sendMetadata; split <;> first | rfl | (split <;> rfl)
@[simp] theorem State.fireTop_ltb (a b : Bool) : (s.fireTop a b).ltb = s.ltb := by simp [State.fireTop]
@[simp] theorem State.fireTop_scn (a b : Bool) : (s.fireTop a b).scn = s.scn := by simp [State.fireTop]
@[simp] theorem State.fireTop_mkm (a b : Bool) : (s.fireTop a b).mkm = s.mkm := by simp [State.fireTop]
@[simp] theorem State.fireTop_ovm (a b : Bool) : (s.fireTop a b).ovm = s.ovm := by simp [State.fireTop]
@[simp] theorem State.fireTop_stc (a b : Bool) : (s.fireTop a b).stc = s.stc := by simp [State.fireTop]
@[simp] theorem State.fireTop_fst (a b : Bool) : (s.fireTop a b).fst = s.fst := by simp [State.fireTop]
@[simp] theorem State.fireTop_pending (a b : Bool) : (s.fireTop a b).pending = s.pending := by simp [State.fireTop]

@[simp] theorem State.fireTop_ftb (a b : Bool) : (s.fireTop a b).ftb = s.ftb.top a := by simp [State.fireTop]
@[simp] theorem State.fireTop_rsync (a b : Bool) : (s.fireTop a b).links.rsync = true := by simp [State.fireTop]
@[simp] theorem State.fireTop_strobed (a b : Bool) : (s.fireTop a b).links.strobed = s.links.strobed := by
  simp [State.fireTop]
@[simp] theorem State.fireTop_palette (a b : Bool) : (s.fireTop a b).cmp.palette = s.cmp.palette := by
  simp [State.fireTop, State.takePlan_cmp]
theorem State.fireTop_plan (a b : Bool) :
    ∃ plan, (s.fireTop a b).cmp.plan = some plan ∧ plan.frame = (s.fireTop a b).ftb.frame := by
  simp only [State.fireTop, State.takePlan_cmp, State.takePlan_ftb]
  exact ⟨_, rfl, rfl⟩
@[simp] theorem State.fireTop_output (a b : Bool) : (s.fireTop a b).cmp.output = outputModeFor s.stc.part := by
  simp [State.fireTop, State.takePlan_cmp]
@[simp] theorem State.fireTop_recorder (a b : Bool) :
    (s.fireTop a b).cmp.recorder = recorderModeFor s.stc.part b := by
  simp [State.fireTop, State.takePlan_cmp]

theorem State.planRequest_raised (k : Fin 4) : s.Raised (s.planRequest k) := by
  unfold State.planRequest
  dsimp only
  split
  · refine State.Raised.raiseAll ?_ _ _ _; simp [State.setLink]
  · refine State.Raised.of_ports ?_; simp [State.setLink]

theorem State.planRequests_raised : s.Raised s.planRequests :=
  (((s.planRequest_raised 0).trans (State.planRequest_raised _ 1)).trans
    (State.planRequest_raised _ 2)).trans (State.planRequest_raised _ 3)

theorem State.timebaseTop_raised (b : Bool) : s.Raised (s.timebaseTop b) := by
  unfold State.timebaseTop
  dsimp only
  split
  · refine State.Raised.raiseAll ?_ _ _ _; simp
  · refine State.Raised.of_ports ?_; simp

theorem State.takePlan_raised (b : Bool) : s.Raised (s.takePlan b) := by
  unfold State.takePlan
  dsimp only
  split
  · refine State.Raised.raiseAll ?_ _ _ _; simp
  · refine State.Raised.of_ports ?_; simp

theorem State.fireTop_raised (a b : Bool) : s.Raised (s.fireTop a b) := by
  unfold State.fireTop
  dsimp only
  refine State.Raised.trans ?_ (State.takePlan_raised _ _)
  refine State.Raised.trans ?_ (State.planRequests_raised _)
  refine State.Raised.trans ?_ (State.timebaseTop_raised _ _)
  refine State.Raised.of_ports ?_
  simp


/-! Drawing a line: the reads of Overlay Memory, the picture, the metadata record (R148, R152, R156). -/

/-- A state after reads of Overlay Memory: they change the memory, the stopped set and the ports' alerts (R138,
R152). -/
def State.afterReads (o : Overlay) (x : PerPort PortState) (l : List (Fin 24)) : State :=
  { s with ovm := o, ports := x, cmp := { s.cmp with stopped := l } }

theorem State.readBitmap_shape (y : Nat) (e : PlanEntry) (b : BitmapPart) :
    ∃ o x l, (s.readBitmap y e b).1 = s.afterReads o x l ∧ s.Raised (s.afterReads o x l) := by
  unfold State.readBitmap
  dsimp only
  split
  · exact ⟨s.ovm, s.ports, s.cmp.stopped, rfl, State.Raised.of_ports rfl⟩
  · split
    · exact ⟨s.ovm, s.ports, s.cmp.stopped ++ [e.slot], rfl, State.Raised.of_ports rfl⟩
    · split
      · exact ⟨s.ovm, s.ports, s.cmp.stopped ++ [e.slot], rfl, State.Raised.of_ports rfl⟩
      · split
        · rename_i o _; exact ⟨o, s.ports, s.cmp.stopped, rfl, State.Raised.of_ports rfl⟩
        · rename_i o w _
          refine ⟨_, ((s.setOvm o).faultRegion b.region).ports, _, rfl, ?_⟩
          exact State.Raised.trans (State.Raised.of_ports (t := s.setOvm _) rfl) (State.raised_raiseAll _ _ _ _)

theorem State.readEntry_shape (y : Nat) (e : PlanEntry) :
    ∃ o x l, (s.readEntry y e).1 = s.afterReads o x l ∧ s.Raised (s.afterReads o x l) := by
  unfold State.readEntry
  split
  · exact s.readBitmap_shape y e _
  all_goals exact ⟨s.ovm, s.ports, s.cmp.stopped, rfl, State.Raised.of_ports rfl⟩

theorem State.readEntries_shape (y : Nat) : ∀ (es : List PlanEntry) (s : State),
    ∃ o x l, (s.readEntries y es).1 = s.afterReads o x l ∧ s.Raised (s.afterReads o x l)
  | [], s => ⟨s.ovm, s.ports, s.cmp.stopped, rfl, State.Raised.of_ports rfl⟩
  | e :: es, s => by
    obtain ⟨o, x, l, h, k⟩ := s.readEntry_shape y e
    obtain ⟨o', x', l', h', k'⟩ := State.readEntries_shape y es (s.readEntry y e).1
    refine ⟨o', x', l', ?_, ?_⟩
    · simp only [State.readEntries]
      rw [h', h]
      rfl
    · rw [← h] at k
      exact k.trans k'

/-- Drawing a line changes no more than its reads do, and what the two links show (R148, R155). -/
theorem State.drawLine_shape (y : Nat) : ∃ o x l d r,
    s.drawLine y = (s.afterReads o x l).setLinks { s.links with display := d, recorder := r }
    ∧ s.Raised (s.afterReads o x l) := by
  unfold State.drawLine
  split
  · rename_i plan _ _
    obtain ⟨o, x, l, h, k⟩ := State.readEntries_shape y plan.entries s
    refine ⟨o, x, l, ?_⟩
    unfold State.drawPicture
    dsimp only
    rw [h]
    exact ⟨_, _, rfl, k⟩
  · exact ⟨s.ovm, s.ports, s.cmp.stopped, .line y (List.replicate 1280 black), s.links.recorder, rfl,
      State.Raised.of_ports rfl⟩
  all_goals exact ⟨s.ovm, s.ports, s.cmp.stopped, s.links.display, s.links.recorder, rfl,
      State.Raised.of_ports rfl⟩

@[simp] theorem State.drawLine_ltb (y : Nat) : (s.drawLine y).ltb = s.ltb := by 
 obtain ⟨o, x, l, d, r, h, -⟩ := s.drawLine_shape y; rw [h]; rfl
@[simp] theorem State.drawLine_ftb (y : Nat) : (s.drawLine y).ftb = s.ftb := by 
 obtain ⟨o, x, l, d, r, h, -⟩ := s.drawLine_shape y; rw [h]; rfl
@[simp] theorem State.drawLine_cams (y : Nat) : (s.drawLine y).cams = s.cams := by 
 obtain ⟨o, x, l, d, r, h, -⟩ := s.drawLine_shape y; rw [h]; rfl
@[simp] theorem State.drawLine_scn (y : Nat) : (s.drawLine y).scn = s.scn := by 
 obtain ⟨o, x, l, d, r, h, -⟩ := s.drawLine_shape y; rw [h]; rfl
@[simp] theorem State.drawLine_mkm (y : Nat) : (s.drawLine y).mkm = s.mkm := by 
 obtain ⟨o, x, l, d, r, h, -⟩ := s.drawLine_shape y; rw [h]; rfl
@[simp] theorem State.drawLine_stc (y : Nat) : (s.drawLine y).stc = s.stc := by 
 obtain ⟨o, x, l, d, r, h, -⟩ := s.drawLine_shape y; rw [h]; rfl
@[simp] theorem State.drawLine_fst (y : Nat) : (s.drawLine y).fst = s.fst := by 
 obtain ⟨o, x, l, d, r, h, -⟩ := s.drawLine_shape y; rw [h]; rfl
@[simp] theorem State.drawLine_pins (y : Nat) : (s.drawLine y).pins = s.pins := by 
 obtain ⟨o, x, l, d, r, h, -⟩ := s.drawLine_shape y; rw [h]; rfl
@[simp] theorem State.drawLine_pending (y : Nat) : (s.drawLine y).pending = s.pending := by 
 obtain ⟨o, x, l, d, r, h, -⟩ := s.drawLine_shape y; rw [h]; rfl

@[simp] theorem State.drawLine_cmp_plan (y : Nat) : (s.drawLine y).cmp.plan = s.cmp.plan := by
  obtain ⟨o, x, l, d, r, h, -⟩ := s.drawLine_shape y; rw [h]; rfl
@[simp] theorem State.drawLine_cmp_palette (y : Nat) : (s.drawLine y).cmp.palette = s.cmp.palette := by
  obtain ⟨o, x, l, d, r, h, -⟩ := s.drawLine_shape y; rw [h]; rfl
@[simp] theorem State.drawLine_cmp_overflow (y : Nat) : (s.drawLine y).cmp.overflow = s.cmp.overflow := by
  obtain ⟨o, x, l, d, r, h, -⟩ := s.drawLine_shape y; rw [h]; rfl
@[simp] theorem State.drawLine_cmp_output (y : Nat) : (s.drawLine y).cmp.output = s.cmp.output := by
  obtain ⟨o, x, l, d, r, h, -⟩ := s.drawLine_shape y; rw [h]; rfl
@[simp] theorem State.drawLine_cmp_recorder (y : Nat) : (s.drawLine y).cmp.recorder = s.cmp.recorder := by
  obtain ⟨o, x, l, d, r, h, -⟩ := s.drawLine_shape y; rw [h]; rfl
@[simp] theorem State.drawLine_cmp_metadataSent (y : Nat) : (s.drawLine y).cmp.metadataSent = s.cmp.metadataSent := by
  obtain ⟨o, x, l, d, r, h, -⟩ := s.drawLine_shape y; rw [h]; rfl
@[simp] theorem State.drawLine_links_rsync (y : Nat) : (s.drawLine y).links.rsync = s.links.rsync := by
  obtain ⟨o, x, l, d, r, h, -⟩ := s.drawLine_shape y; rw [h]; rfl
@[simp] theorem State.drawLine_links_strobed (y : Nat) : (s.drawLine y).links.strobed = s.links.strobed := by
  obtain ⟨o, x, l, d, r, h, -⟩ := s.drawLine_shape y; rw [h]; rfl
@[simp] theorem State.drawLine_links_metadata (y : Nat) : (s.drawLine y).links.metadata = s.links.metadata := by
  obtain ⟨o, x, l, d, r, h, -⟩ := s.drawLine_shape y; rw [h]; rfl
@[simp] theorem State.canvasLine_ltb : (s.canvasLine).ltb = s.ltb := by unfold State.canvasLine; dsimp only; split <;> split <;> simp
@[simp] theorem State.canvasLine_ftb : (s.canvasLine).ftb = s.ftb := by unfold State.canvasLine; dsimp only; split <;> split <;> simp
@[simp] theorem State.canvasLine_cams : (s.canvasLine).cams = s.cams := by unfold State.canvasLine; dsimp only; split <;> split <;> simp
@[simp] theorem State.canvasLine_scn : (s.canvasLine).scn = s.scn := by unfold State.canvasLine; dsimp only; split <;> split <;> simp
@[simp] theorem State.canvasLine_mkm : (s.canvasLine).mkm = s.mkm := by unfold State.canvasLine; dsimp only; split <;> split <;> simp
@[simp] theorem State.canvasLine_stc : (s.canvasLine).stc = s.stc := by unfold State.canvasLine; dsimp only; split <;> split <;> simp
@[simp] theorem State.canvasLine_fst : (s.canvasLine).fst = s.fst := by unfold State.canvasLine; dsimp only; split <;> split <;> simp
@[simp] theorem State.canvasLine_pins : (s.canvasLine).pins = s.pins := by unfold State.canvasLine; dsimp only; split <;> split <;> simp
@[simp] theorem State.canvasLine_pending : (s.canvasLine).pending = s.pending := by unfold State.canvasLine; dsimp only; split <;> split <;> simp

@[simp] theorem State.canvasLine_cmp_plan : s.canvasLine.cmp.plan = s.cmp.plan := by
  unfold State.canvasLine; dsimp only; split <;> split <;> simp
@[simp] theorem State.canvasLine_cmp_palette : s.canvasLine.cmp.palette = s.cmp.palette := by
  unfold State.canvasLine; dsimp only; split <;> split <;> simp
@[simp] theorem State.canvasLine_cmp_overflow : s.canvasLine.cmp.overflow = s.cmp.overflow := by
  unfold State.canvasLine; dsimp only; split <;> split <;> simp
@[simp] theorem State.canvasLine_cmp_output : s.canvasLine.cmp.output = s.cmp.output := by
  unfold State.canvasLine; dsimp only; split <;> split <;> simp
@[simp] theorem State.canvasLine_cmp_recorder : s.canvasLine.cmp.recorder = s.cmp.recorder := by
  unfold State.canvasLine; dsimp only; split <;> split <;> simp
@[simp] theorem State.canvasLine_links_rsync : s.canvasLine.links.rsync = s.links.rsync := by
  unfold State.canvasLine; dsimp only; split <;> split <;> simp
@[simp] theorem State.canvasLine_links_strobed : s.canvasLine.links.strobed = s.links.strobed := by
  unfold State.canvasLine; dsimp only; split <;> split <;> simp
theorem State.drawLine_raised (y : Nat) : s.Raised (s.drawLine y) := by
  obtain ⟨o, x, l, d, r, h, k⟩ := s.drawLine_shape y
  rw [h]; exact k

theorem State.canvasLine_raised : s.Raised s.canvasLine := by
  unfold State.canvasLine
  dsimp only
  have h : s.Raised (if s.ftb.line < 720 then s.drawLine s.ftb.line else s) := by
    split
    · exact s.drawLine_raised _
    · exact State.Raised.refl s
  split
  · exact h.trans (State.Raised.of_ports (State.sendMetadata_ports _ _))
  · exact h


/-! COMMIT (R36), BLANK (R113, R174) and the strobes (R73). -/

@[simp] theorem State.resolveSet_ftb (p : Port) : (s.resolveSet p).ftb = s.ftb := by 
 rcases s.resolveSet_cases p with ⟨-, h⟩ | ⟨x, -, ⟨-, h⟩ | ⟨i, c, -, h⟩⟩ <;> simp [h]
@[simp] theorem State.resolveSet_cams (p : Port) : (s.resolveSet p).cams = s.cams := by 
 rcases s.resolveSet_cases p with ⟨-, h⟩ | ⟨x, -, ⟨-, h⟩ | ⟨i, c, -, h⟩⟩ <;> simp [h]
@[simp] theorem State.resolveSet_scn (p : Port) : (s.resolveSet p).scn = s.scn := by 
 rcases s.resolveSet_cases p with ⟨-, h⟩ | ⟨x, -, ⟨-, h⟩ | ⟨i, c, -, h⟩⟩ <;> simp [h]
@[simp] theorem State.resolveSet_mkm (p : Port) : (s.resolveSet p).mkm = s.mkm := by 
 rcases s.resolveSet_cases p with ⟨-, h⟩ | ⟨x, -, ⟨-, h⟩ | ⟨i, c, -, h⟩⟩ <;> simp [h]
@[simp] theorem State.resolveSet_ovm (p : Port) : (s.resolveSet p).ovm = s.ovm := by 
 rcases s.resolveSet_cases p with ⟨-, h⟩ | ⟨x, -, ⟨-, h⟩ | ⟨i, c, -, h⟩⟩ <;> simp [h]
@[simp] theorem State.resolveSet_cmp (p : Port) : (s.resolveSet p).cmp = s.cmp := by 
 rcases s.resolveSet_cases p with ⟨-, h⟩ | ⟨x, -, ⟨-, h⟩ | ⟨i, c, -, h⟩⟩ <;> simp [h]
@[simp] theorem State.resolveSet_stc (p : Port) : (s.resolveSet p).stc = s.stc := by 
 rcases s.resolveSet_cases p with ⟨-, h⟩ | ⟨x, -, ⟨-, h⟩ | ⟨i, c, -, h⟩⟩ <;> simp [h]
@[simp] theorem State.resolveSet_fst (p : Port) : (s.resolveSet p).fst = s.fst := by 
 rcases s.resolveSet_cases p with ⟨-, h⟩ | ⟨x, -, ⟨-, h⟩ | ⟨i, c, -, h⟩⟩ <;> simp [h]
@[simp] theorem State.resolveSet_links (p : Port) : (s.resolveSet p).links = s.links := by 
 rcases s.resolveSet_cases p with ⟨-, h⟩ | ⟨x, -, ⟨-, h⟩ | ⟨i, c, -, h⟩⟩ <;> simp [h]
@[simp] theorem State.resolveSet_pins (p : Port) : (s.resolveSet p).pins = s.pins := by 
 rcases s.resolveSet_cases p with ⟨-, h⟩ | ⟨x, -, ⟨-, h⟩ | ⟨i, c, -, h⟩⟩ <;> simp [h]
@[simp] theorem State.resolveSet_pending (p : Port) : (s.resolveSet p).pending = s.pending := by 
 rcases s.resolveSet_cases p with ⟨-, h⟩ | ⟨x, -, ⟨-, h⟩ | ⟨i, c, -, h⟩⟩ <;> simp [h]

@[simp] theorem State.commitEvent_ftb : (s.commitEvent).ftb = s.ftb := by simp [State.commitEvent]
@[simp] theorem State.commitEvent_cams : (s.commitEvent).cams = s.cams := by simp [State.commitEvent]
@[simp] theorem State.commitEvent_scn : (s.commitEvent).scn = s.scn := by simp [State.commitEvent]
@[simp] theorem State.commitEvent_mkm : (s.commitEvent).mkm = s.mkm := by simp [State.commitEvent]
@[simp] theorem State.commitEvent_ovm : (s.commitEvent).ovm = s.ovm := by simp [State.commitEvent]
@[simp] theorem State.commitEvent_cmp : (s.commitEvent).cmp = s.cmp := by simp [State.commitEvent]
@[simp] theorem State.commitEvent_stc : (s.commitEvent).stc = s.stc := by simp [State.commitEvent]
@[simp] theorem State.commitEvent_fst : (s.commitEvent).fst = s.fst := by simp [State.commitEvent]
@[simp] theorem State.commitEvent_links : (s.commitEvent).links = s.links := by simp [State.commitEvent]
@[simp] theorem State.commitEvent_pins : (s.commitEvent).pins = s.pins := by simp [State.commitEvent]
@[simp] theorem State.commitEvent_pending : (s.commitEvent).pending = s.pending := by simp [State.commitEvent]

/-- The COMMIT event reads the ports, the Layer Table, which cameras are present, the regions and the frame number,
and nothing else (R36, R38, R40, R43). -/
theorem State.resolveSet_reads {s t : State} (p : Port) (hp : s.ports = t.ports) (hl : s.ltb = t.ltb)
    (hc : s.cams.presence = t.cams.presence) (hr : s.ovm.regions = t.ovm.regions) (hf : s.ftb.frame = t.ftb.frame) :
    (s.resolveSet p).ports = (t.resolveSet p).ports ∧ (s.resolveSet p).ltb = (t.resolveSet p).ltb := by
  unfold State.resolveSet
  rw [hl, hc, hr, hf]
  cases t.ltb.sets.get p with
  | none => exact ⟨hp, hl⟩
  | some x => dsimp only; split <;> simp [State.post, State.modPort, hp]

theorem State.commitEvent_reads {s t : State} (hp : s.ports = t.ports) (hl : s.ltb = t.ltb)
    (hc : s.cams.presence = t.cams.presence) (hr : s.ovm.regions = t.ovm.regions) (hf : s.ftb.frame = t.ftb.frame) :
    s.commitEvent.ports = t.commitEvent.ports ∧ s.commitEvent.ltb = t.commitEvent.ltb := by
  obtain ⟨p1, l1⟩ := State.resolveSet_reads .body hp hl hc hr hf
  obtain ⟨p2, l2⟩ := State.resolveSet_reads .detect p1 l1 (by simpa) (by simpa) (by simpa)
  exact State.resolveSet_reads .cab p2 l2 (by simpa) (by simpa) (by simpa)

@[simp] theorem State.ageStep_ports : (s.ageStep).ports = s.ports := by rfl
@[simp] theorem State.ageStep_ltb : (s.ageStep).ltb = s.ltb := by rfl
@[simp] theorem State.ageStep_ftb : (s.ageStep).ftb = s.ftb := by rfl
@[simp] theorem State.ageStep_cams : (s.ageStep).cams = s.cams := by rfl
@[simp] theorem State.ageStep_ovm : (s.ageStep).ovm = s.ovm := by rfl
@[simp] theorem State.ageStep_cmp : (s.ageStep).cmp = s.cmp := by rfl
@[simp] theorem State.ageStep_stc : (s.ageStep).stc = s.stc := by rfl
@[simp] theorem State.ageStep_fst : (s.ageStep).fst = s.fst := by rfl
@[simp] theorem State.ageStep_links : (s.ageStep).links = s.links := by rfl
@[simp] theorem State.ageStep_pins : (s.ageStep).pins = s.pins := by rfl
@[simp] theorem State.ageStep_pending : (s.ageStep).pending = s.pending := by rfl

@[simp] theorem State.ageStep_markers : s.ageStep.mkm.markers = ageMarkers s.mkm.markers := rfl
@[simp] theorem State.ageStep_near : s.ageStep.scn.near = anyNear (ageMarkers s.mkm.markers) := rfl

@[simp] theorem State.answerAndAnnounce_ltb (b : Bool) (p : Port) (r : Reply) (c : Cause) : (s.answerAndAnnounce b p r c).ltb = s.ltb := by cases b <;> rfl
@[simp] theorem State.answerAndAnnounce_ftb (b : Bool) (p : Port) (r : Reply) (c : Cause) : (s.answerAndAnnounce b p r c).ftb = s.ftb := by cases b <;> rfl
@[simp] theorem State.answerAndAnnounce_cams (b : Bool) (p : Port) (r : Reply) (c : Cause) : (s.answerAndAnnounce b p r c).cams = s.cams := by cases b <;> rfl
@[simp] theorem State.answerAndAnnounce_scn (b : Bool) (p : Port) (r : Reply) (c : Cause) : (s.answerAndAnnounce b p r c).scn = s.scn := by cases b <;> rfl
@[simp] theorem State.answerAndAnnounce_mkm (b : Bool) (p : Port) (r : Reply) (c : Cause) : (s.answerAndAnnounce b p r c).mkm = s.mkm := by cases b <;> rfl
@[simp] theorem State.answerAndAnnounce_ovm (b : Bool) (p : Port) (r : Reply) (c : Cause) : (s.answerAndAnnounce b p r c).ovm = s.ovm := by cases b <;> rfl
@[simp] theorem State.answerAndAnnounce_cmp (b : Bool) (p : Port) (r : Reply) (c : Cause) : (s.answerAndAnnounce b p r c).cmp = s.cmp := by cases b <;> rfl
@[simp] theorem State.answerAndAnnounce_stc (b : Bool) (p : Port) (r : Reply) (c : Cause) : (s.answerAndAnnounce b p r c).stc = s.stc := by cases b <;> rfl
@[simp] theorem State.answerAndAnnounce_fst (b : Bool) (p : Port) (r : Reply) (c : Cause) : (s.answerAndAnnounce b p r c).fst = s.fst := by cases b <;> rfl
@[simp] theorem State.answerAndAnnounce_links (b : Bool) (p : Port) (r : Reply) (c : Cause) : (s.answerAndAnnounce b p r c).links = s.links := by cases b <;> rfl
@[simp] theorem State.answerAndAnnounce_pins (b : Bool) (p : Port) (r : Reply) (c : Cause) : (s.answerAndAnnounce b p r c).pins = s.pins := by cases b <;> rfl
@[simp] theorem State.answerAndAnnounce_pending (b : Bool) (p : Port) (r : Reply) (c : Cause) : (s.answerAndAnnounce b p r c).pending = s.pending := by cases b <;> rfl

@[simp] theorem State.blankTest_ltb (b : Bool) : (s.blankTest b).ltb = s.ltb := by unfold State.blankTest State.entryTest State.exitTest; (repeat' split) <;> first | rfl | simp [State.enterQuiet, State.moveTo]
@[simp] theorem State.blankTest_ftb (b : Bool) : (s.blankTest b).ftb = s.ftb := by unfold State.blankTest State.entryTest State.exitTest; (repeat' split) <;> first | rfl | simp [State.enterQuiet, State.moveTo]
@[simp] theorem State.blankTest_scn (b : Bool) : (s.blankTest b).scn = s.scn := by unfold State.blankTest State.entryTest State.exitTest; (repeat' split) <;> first | rfl | simp [State.enterQuiet, State.moveTo]
@[simp] theorem State.blankTest_mkm (b : Bool) : (s.blankTest b).mkm = s.mkm := by unfold State.blankTest State.entryTest State.exitTest; (repeat' split) <;> first | rfl | simp [State.enterQuiet, State.moveTo]
@[simp] theorem State.blankTest_ovm (b : Bool) : (s.blankTest b).ovm = s.ovm := by unfold State.blankTest State.entryTest State.exitTest; (repeat' split) <;> first | rfl | simp [State.enterQuiet, State.moveTo]
@[simp] theorem State.blankTest_cmp (b : Bool) : (s.blankTest b).cmp = s.cmp := by unfold State.blankTest State.entryTest State.exitTest; (repeat' split) <;> first | rfl | simp [State.enterQuiet, State.moveTo]
@[simp] theorem State.blankTest_fst (b : Bool) : (s.blankTest b).fst = s.fst := by unfold State.blankTest State.entryTest State.exitTest; (repeat' split) <;> first | rfl | simp [State.enterQuiet, State.moveTo]
@[simp] theorem State.blankTest_links (b : Bool) : (s.blankTest b).links = s.links := by unfold State.blankTest State.entryTest State.exitTest; (repeat' split) <;> first | rfl | simp [State.enterQuiet, State.moveTo]
@[simp] theorem State.blankTest_pins (b : Bool) : (s.blankTest b).pins = s.pins := by unfold State.blankTest State.entryTest State.exitTest; (repeat' split) <;> first | rfl | simp [State.enterQuiet, State.moveTo]
@[simp] theorem State.blankTest_pending (b : Bool) : (s.blankTest b).pending = s.pending := by unfold State.blankTest State.entryTest State.exitTest; (repeat' split) <;> first | rfl | simp [State.enterQuiet, State.moveTo]

@[simp] theorem State.blank_ltb (o : LineOrder) : (s.blank o).ltb = s.ltb := by unfold State.blank; split <;> simp
@[simp] theorem State.blank_ftb (o : LineOrder) : (s.blank o).ftb = s.ftb := by unfold State.blank; split <;> simp
@[simp] theorem State.blank_ovm (o : LineOrder) : (s.blank o).ovm = s.ovm := by unfold State.blank; split <;> simp
@[simp] theorem State.blank_cmp (o : LineOrder) : (s.blank o).cmp = s.cmp := by unfold State.blank; split <;> simp
@[simp] theorem State.blank_fst (o : LineOrder) : (s.blank o).fst = s.fst := by unfold State.blank; split <;> simp
@[simp] theorem State.blank_links (o : LineOrder) : (s.blank o).links = s.links := by unfold State.blank; split <;> simp
@[simp] theorem State.blank_pins (o : LineOrder) : (s.blank o).pins = s.pins := by unfold State.blank; split <;> simp
@[simp] theorem State.blank_pending (o : LineOrder) : (s.blank o).pending = s.pending := by unfold State.blank; split <;> simp

@[simp] theorem State.blank_mkm (o : LineOrder) : (s.blank o).mkm = s.ageStep.mkm := by
  unfold State.blank; split <;> simp [State.ageStep, State.setMarkers]
@[simp] theorem State.blank_scn (o : LineOrder) : (s.blank o).scn = s.ageStep.scn := by
  unfold State.blank; split <;> simp [State.ageStep, State.setMarkers]

@[simp] theorem State.strobe_ports : (s.strobe).ports = s.ports := by rfl
@[simp] theorem State.strobe_ltb : (s.strobe).ltb = s.ltb := by rfl
@[simp] theorem State.strobe_ftb : (s.strobe).ftb = s.ftb := by rfl
@[simp] theorem State.strobe_cams : (s.strobe).cams = s.cams := by rfl
@[simp] theorem State.strobe_scn : (s.strobe).scn = s.scn := by rfl
@[simp] theorem State.strobe_mkm : (s.strobe).mkm = s.mkm := by rfl
@[simp] theorem State.strobe_ovm : (s.strobe).ovm = s.ovm := by rfl
@[simp] theorem State.strobe_cmp : (s.strobe).cmp = s.cmp := by rfl
@[simp] theorem State.strobe_stc : (s.strobe).stc = s.stc := by rfl
@[simp] theorem State.strobe_fst : (s.strobe).fst = s.fst := by rfl
@[simp] theorem State.strobe_pins : (s.strobe).pins = s.pins := by rfl
@[simp] theorem State.strobe_pending : (s.strobe).pending = s.pending := by rfl

@[simp] theorem State.strobe_links_display : s.strobe.links.display = s.links.display := rfl
@[simp] theorem State.strobe_links_recorder : s.strobe.links.recorder = s.links.recorder := rfl
@[simp] theorem State.strobe_links_metadata : s.strobe.links.metadata = s.links.metadata := rfl
@[simp] theorem State.strobe_links_rsync : s.strobe.links.rsync = s.links.rsync := rfl
@[simp] theorem State.strobe_strobed (k : Fin 4) : s.strobe.links.strobed[k] = s.strobes k := ofFn_get _ k

@[simp] theorem State.blankAndCommit_ftb (o : LineOrder) : (s.blankAndCommit o).ftb = s.ftb := by unfold State.blankAndCommit; dsimp only; (repeat' split) <;> simp
@[simp] theorem State.blankAndCommit_ovm (o : LineOrder) : (s.blankAndCommit o).ovm = s.ovm := by unfold State.blankAndCommit; dsimp only; (repeat' split) <;> simp
@[simp] theorem State.blankAndCommit_cmp (o : LineOrder) : (s.blankAndCommit o).cmp = s.cmp := by unfold State.blankAndCommit; dsimp only; (repeat' split) <;> simp
@[simp] theorem State.blankAndCommit_fst (o : LineOrder) : (s.blankAndCommit o).fst = s.fst := by unfold State.blankAndCommit; dsimp only; (repeat' split) <;> simp
@[simp] theorem State.blankAndCommit_links (o : LineOrder) : (s.blankAndCommit o).links = s.links := by unfold State.blankAndCommit; dsimp only; (repeat' split) <;> simp
@[simp] theorem State.blankAndCommit_pins (o : LineOrder) : (s.blankAndCommit o).pins = s.pins := by unfold State.blankAndCommit; dsimp only; (repeat' split) <;> simp
@[simp] theorem State.blankAndCommit_pending (o : LineOrder) : (s.blankAndCommit o).pending = s.pending := by unfold State.blankAndCommit; dsimp only; (repeat' split) <;> simp

/-- BLANK and COMMIT by the counter's value (R51, R53). -/
theorem State.blankAndCommit_eq (o : LineOrder) : s.blankAndCommit o =
    if s.ftb.line = 720 then
      if s.ftb.line = s.ftb.commitLine then
        if o.commitFirst then s.commitEvent.blank o else (s.blank o).commitEvent
      else s.blank o
    else if s.ftb.line = s.ftb.commitLine then s.commitEvent else s := by
  unfold State.blankAndCommit
  dsimp only
  split_ifs <;> simp_all


/-! The events of one counter value, and a step of the timebase (R51). -/

@[simp] theorem State.lineEvents_fst (a b : Bool) (o : LineOrder) : (s.lineEvents a b o).fst = s.fst := by unfold State.lineEvents; dsimp only; (repeat' split) <;> simp
@[simp] theorem State.lineEvents_pending (a b : Bool) (o : LineOrder) : (s.lineEvents a b o).pending = s.pending := by unfold State.lineEvents; dsimp only; (repeat' split) <;> simp

/-- At 0, with the commit line elsewhere, only the TOP fires and line 0 is drawn; the table, the markers and the
part state are left, and the ports have no more than alerts raised (R51, R52). -/
theorem State.lineEvents_top (a b : Bool) (o : LineOrder) (h : s.ftb.line = 0) (hc : s.ftb.commitLine ≠ 0) :
    s.lineEvents a b o = ((s.fireTop a b).canvasLine).strobe := by
  have h1 : (s.fireTop a b).canvasLine.ftb.line = 0 := by
    simp only [State.canvasLine_ftb, State.fireTop_ftb, Timebase.top]; split <;> exact h
  have h2 : (s.fireTop a b).canvasLine.ftb.commitLine = s.ftb.commitLine := by
    simp only [State.canvasLine_ftb, State.fireTop_ftb, Timebase.top]; split <;> rfl
  have hb : ∀ w : State, w.ftb = (s.fireTop a b).canvasLine.ftb → w.blankAndCommit o = w := by
    intro w hw
    rw [State.blankAndCommit_eq, hw, h1, h2, if_neg (by decide), if_neg (by omega)]
  unfold State.lineEvents
  simp only [h, if_true]
  split
  · exact hb _ (State.strobe_ftb _)
  · rw [hb (s.fireTop a b).canvasLine rfl]

/-- Whatever the commit line, a TOP leaves the part state and the signals' block (R51, R52). -/
theorem State.lineEvents_top_keeps (a b : Bool) (o : LineOrder) (h : s.ftb.line = 0) :
    (s.lineEvents a b o).stc = s.stc ∧ (s.lineEvents a b o).scn = s.scn ∧ (s.lineEvents a b o).mkm = s.mkm
    ∧ (s.lineEvents a b o).ftb = s.ftb.top a ∧ (s.lineEvents a b o).links.rsync = true
    ∧ (s.lineEvents a b o).cmp.output = outputModeFor s.stc.part
    ∧ (s.lineEvents a b o).cmp.palette = s.cmp.palette
    ∧ (∃ plan, (s.lineEvents a b o).cmp.plan = some plan ∧ plan.frame = (s.lineEvents a b o).ftb.frame)
    ∧ (s.lineEvents a b o).cams = (s.fireTop a b).cams := by
  have h1 : (s.ftb.top a).line = 0 := by unfold Timebase.top; dsimp only; split <;> exact h
  obtain ⟨plan, hp, hf⟩ := s.fireTop_plan a b
  have hf' : plan.frame = (s.ftb.top a).frame := by rw [hf, State.fireTop_ftb]
  unfold State.lineEvents
  simp only [h, if_true]
  split <;> (rw [State.blankAndCommit_eq]; simp [h1]; split <;> simp [hp, hf'])

@[simp] theorem State.openStep_ports (us : List Upset) : (s.openStep us).ports = s.ports := by rfl
@[simp] theorem State.openStep_ltb (us : List Upset) : (s.openStep us).ltb = s.ltb := by rfl
@[simp] theorem State.openStep_ftb (us : List Upset) : (s.openStep us).ftb = s.ftb := by rfl
@[simp] theorem State.openStep_cams (us : List Upset) : (s.openStep us).cams = s.cams := by rfl
@[simp] theorem State.openStep_scn (us : List Upset) : (s.openStep us).scn = s.scn := by rfl
@[simp] theorem State.openStep_mkm (us : List Upset) : (s.openStep us).mkm = s.mkm := by rfl
@[simp] theorem State.openStep_cmp (us : List Upset) : (s.openStep us).cmp = s.cmp := by rfl
@[simp] theorem State.openStep_stc (us : List Upset) : (s.openStep us).stc = s.stc := by rfl
@[simp] theorem State.openStep_fst (us : List Upset) : (s.openStep us).fst = s.fst := by rfl
@[simp] theorem State.openStep_pins (us : List Upset) : (s.openStep us).pins = s.pins := by rfl
@[simp] theorem State.openStep_pending (us : List Upset) : (s.openStep us).pending = s.pending := by rfl

@[simp] theorem State.moveTo_ports (x : PartState) : (s.moveTo x).ports = s.ports := by rfl
@[simp] theorem State.moveTo_ltb (x : PartState) : (s.moveTo x).ltb = s.ltb := by rfl
@[simp] theorem State.moveTo_ftb (x : PartState) : (s.moveTo x).ftb = s.ftb := by rfl
@[simp] theorem State.moveTo_cams (x : PartState) : (s.moveTo x).cams = s.cams := by rfl
@[simp] theorem State.moveTo_scn (x : PartState) : (s.moveTo x).scn = s.scn := by rfl
@[simp] theorem State.moveTo_mkm (x : PartState) : (s.moveTo x).mkm = s.mkm := by rfl
@[simp] theorem State.moveTo_ovm (x : PartState) : (s.moveTo x).ovm = s.ovm := by rfl
@[simp] theorem State.moveTo_cmp (x : PartState) : (s.moveTo x).cmp = s.cmp := by rfl
@[simp] theorem State.moveTo_fst (x : PartState) : (s.moveTo x).fst = s.fst := by rfl
@[simp] theorem State.moveTo_links (x : PartState) : (s.moveTo x).links = s.links := by rfl
@[simp] theorem State.moveTo_pins (x : PartState) : (s.moveTo x).pins = s.pins := by rfl
@[simp] theorem State.moveTo_pending (x : PartState) : (s.moveTo x).pending = s.pending := by rfl

@[simp] theorem State.moveTo_stc (x : PartState) : (s.moveTo x).stc = ⟨x, none, false⟩ := rfl

@[simp] theorem State.announce_ltb (c : Cause) : (s.announce c).ltb = s.ltb := by rfl
@[simp] theorem State.announce_ftb (c : Cause) : (s.announce c).ftb = s.ftb := by rfl
@[simp] theorem State.announce_cams (c : Cause) : (s.announce c).cams = s.cams := by rfl
@[simp] theorem State.announce_scn (c : Cause) : (s.announce c).scn = s.scn := by rfl
@[simp] theorem State.announce_mkm (c : Cause) : (s.announce c).mkm = s.mkm := by rfl
@[simp] theorem State.announce_ovm (c : Cause) : (s.announce c).ovm = s.ovm := by rfl
@[simp] theorem State.announce_cmp (c : Cause) : (s.announce c).cmp = s.cmp := by rfl
@[simp] theorem State.announce_stc (c : Cause) : (s.announce c).stc = s.stc := by rfl
@[simp] theorem State.announce_fst (c : Cause) : (s.announce c).fst = s.fst := by rfl
@[simp] theorem State.announce_links (c : Cause) : (s.announce c).links = s.links := by rfl
@[simp] theorem State.announce_pins (c : Cause) : (s.announce c).pins = s.pins := by rfl
@[simp] theorem State.announce_pending (c : Cause) : (s.announce c).pending = s.pending := by rfl


/-! The start of the timebase (R65, R66, R82, R179). -/

theorem State.announce_raised (c : Cause) : s.Raised (s.announce c) := s.raised_raiseAll _ _ _

/-- The state whose line events are the first after a start: RUN, the cameras out of IDLE, the counter at 0. -/
def State.readyToRun (out : Surroundings) : State :=
  (((s.openStep out.upsets).moveTo .run).setCams (s.cams.mapLinks CameraLink.enterRun)).setFtb s.ftb.start

theorem State.startRun_eq (out : Surroundings) :
    s.startRun out = (s.readyToRun out).lineEvents true out.recHold LineOrder.start := by
  unfold State.startRun State.readyToRun
  simp

@[simp] theorem State.readyToRun_ports (out : Surroundings) : (s.readyToRun out).ports = s.ports := by
  simp [State.readyToRun]
@[simp] theorem State.readyToRun_ltb (out : Surroundings) : (s.readyToRun out).ltb = s.ltb := by
  simp [State.readyToRun]
@[simp] theorem State.readyToRun_ftb (out : Surroundings) : (s.readyToRun out).ftb = s.ftb.start := by
  simp [State.readyToRun]
@[simp] theorem State.readyToRun_cams (out : Surroundings) : (s.readyToRun out).cams = s.cams.mapLinks CameraLink.enterRun := by
  simp [State.readyToRun]
@[simp] theorem State.readyToRun_scn (out : Surroundings) : (s.readyToRun out).scn = s.scn := by
  simp [State.readyToRun]
@[simp] theorem State.readyToRun_mkm (out : Surroundings) : (s.readyToRun out).mkm = s.mkm := by
  simp [State.readyToRun]
@[simp] theorem State.readyToRun_cmp (out : Surroundings) : (s.readyToRun out).cmp = s.cmp := by
  simp [State.readyToRun]
@[simp] theorem State.readyToRun_stc (out : Surroundings) : (s.readyToRun out).stc = ⟨.run, none, false⟩ := by
  simp [State.readyToRun]
@[simp] theorem State.readyToRun_fst (out : Surroundings) : (s.readyToRun out).fst = s.fst := by
  simp [State.readyToRun]
@[simp] theorem State.readyToRun_ovm (out : Surroundings) : (s.readyToRun out).ovm = s.ovm.suffer out.upsets := by
  simp [State.readyToRun]; rfl
@[simp] theorem State.readyToRun_pending (out : Surroundings) : (s.readyToRun out).pending = s.pending := by
  simp [State.readyToRun]

theorem State.readyToRun_line (out : Surroundings) : (s.readyToRun out).ftb.line = 0 := by simp [Timebase.start]

@[simp] theorem Cameras.mapLinks_link (c : Cameras) (f : CameraLink → CameraLink) (k : Fin 4) :
    (c.mapLinks f).links[k] = f c.links[k] := ofFn_get _ k

theorem State.planRequest_link (k j : Fin 4) :
    (s.planRequest k).cams.links[j] = if j = k then s.cams.links[k].planRequest.1 else s.cams.links[j] := by
  unfold State.planRequest
  dsimp only
  split <;> simp only [State.raiseAll_cams, State.setLink, State.setCams_cams, vectorSet_get]

/-- Each camera answers its own plan request once (R74, R147). -/
theorem State.planRequests_link (k : Fin 4) : s.planRequests.cams.links[k] = s.cams.links[k].planRequest.1 := by
  unfold State.planRequests
  simp only [State.planRequest_link]
  fin_cases k <;> simp

theorem CameraLink.countRequest_link (x : CameraLink) : x.countRequest.link = x.link := by
  unfold CameraLink.countRequest; dsimp only; split <;> split <;> rfl

theorem CameraLink.planRequest_idle (x : CameraLink) : x.planRequest.1.link = .idle ↔ x.link = .idle := by
  unfold CameraLink.planRequest
  split
  · unfold CameraLink.moveAfterRequest
    rw [x.countRequest_link]
    split <;> (try split) <;> (try split) <;> simp_all [x.countRequest_link]
  · rfl

/-! A camera's first plan request in RUN (R74, R82). -/

theorem CameraLink.enterRun_idle {x : CameraLink} (h : x.link = .idle) : x.enterRun =
    { x with link := .starting, miss := 0, fresh := 0, starting := 0, power := decide (x.powerOff = none) } := by
  unfold CameraLink.enterRun
  rw [if_pos h]
  cases x.powerOff <;> rfl

theorem CameraLink.enterRun_planRequest_absent {x : CameraLink} (h : x.link = .absent) :
    x.enterRun.planRequest.1 = x := by
  simp [CameraLink.enterRun, CameraLink.planRequest, h, LinkState.isActive]

theorem CameraLink.readySlot_none {x : CameraLink} (h : ∀ (i : Fin 3) f, x.slots[i] ≠ .ready f) :
    x.readySlot = none := by
  unfold CameraLink.readySlot
  rw [List.findSome?_eq_none_iff]
  intro i _
  split
  · rename_i f e; exact absurd e (h i f)
  · rfl

/-- The request taken of a camera that has just become STARTING and has no READY frame. -/
theorem CameraLink.planRequest_first {x : CameraLink} (h : ∀ (i : Fin 3) f, x.slots[i] ≠ .ready f) (power : Bool) :
    (CameraLink.planRequest { x with link := .starting, miss := 0, fresh := 0, starting := 0, power := power }).1 =
      { x with
        link := .starting
        miss := 1
        fresh := 0
        starting := if x.powerOff = none then 1 else 0
        power := power } := by
  obtain ⟨y, hy⟩ : ∃ y : CameraLink,
    y = { x with link := .starting, miss := 0, fresh := 0, starting := 0, power := power } := ⟨_, rfl⟩
  have hn : y.readySlot = none := CameraLink.readySlot_none (by simpa [hy] using h)
  rw [← hy, CameraLink.planRequest, CameraLink.countRequest, hn]
  subst hy
  unfold CameraLink.moveAfterRequest
  cases x.powerOff <;> simp [LinkState.isActive]

@[simp] theorem State.fireTop_link (a b : Bool) (k : Fin 4) :
    (s.fireTop a b).cams.links[k] = s.cams.links[k].planRequest.1 := by
  simp only [State.fireTop, State.takePlan_cams, State.planRequests_link]
  simp only [State.timebaseTop_cams, State.setPins_cams, State.setLinks_cams, State.sendMetadata_cams]

/-- The timebase once its start has fired its TOP: that TOP counts no missed sync (R63, R65, R66). -/
theorem Timebase.start_top (f : Timebase) : f.start.top true = { f with
    line := 0, run := .running, frame := f.frame + 1#16, period := f.stagedPeriod, dsyncSinceTop := false } := by
  simp [Timebase.top, Timebase.missesSync, Timebase.start]


/-- Everything the start of the timebase leaves (R65, R66, R82, R142, R157, R158). -/
theorem State.startRun_keeps (out : Surroundings) :
    (s.startRun out).stc = ⟨.run, none, false⟩ ∧ (s.startRun out).scn = s.scn ∧ (s.startRun out).mkm = s.mkm
    ∧ (s.startRun out).fst = s.fst ∧ (s.startRun out).ftb = s.ftb.start.top true
    ∧ (s.startRun out).links.rsync = true ∧ (s.startRun out).cmp.output = .picture
    ∧ (s.startRun out).cmp.palette = s.cmp.palette
    ∧ (∃ plan, (s.startRun out).cmp.plan = some plan ∧ plan.frame = (s.startRun out).ftb.frame)
    ∧ (∀ k : Fin 4, (s.startRun out).cams.links[k] = (s.cams.links[k].enterRun).planRequest.1)
    ∧ (s.ftb.commitLine ≠ 0 → (s.startRun out).ltb = s.ltb ∧ s.Raised (s.startRun out)) := by
  rw [s.startRun_eq out]
  obtain ⟨k1, k2, k3, k4, k5, k6, k7, k8, k9⟩ :=
    (s.readyToRun out).lineEvents_top_keeps true out.recHold LineOrder.start (s.readyToRun_line out)
  refine ⟨by simpa using k1, by simpa using k2, by simpa using k3, by simp, by simpa using k4, k5,
    by simpa [outputModeFor] using k6, by simpa using k7, k8, fun k => ?_, fun hc => ?_⟩
  · simp only [k9, State.fireTop_link, State.readyToRun_cams, Cameras.mapLinks_link]
  · rw [(s.readyToRun out).lineEvents_top true out.recHold LineOrder.start (s.readyToRun_line out)
      (by simpa [Timebase.start] using hc)]
    refine ⟨by simp, ?_⟩
    refine State.Raised.trans ?_ (State.Raised.of_ports (State.strobe_ports _))
    refine State.Raised.trans ?_ (State.canvasLine_raised _)
    exact State.Raised.trans (State.Raised.of_ports (s.readyToRun_ports out)) (State.fireTop_raised _ _ _)

/-- The population stays through a step of the timebase (R68). -/
theorem State.planRequest_population (k : Fin 4) : (s.planRequest k).cams.population = s.cams.population
    ∧ (s.planRequest k).cams.source = s.cams.source := by
  unfold State.planRequest; dsimp only; split <;> simp [State.setLink]

theorem State.startRun_population (out : Surroundings) : (s.startRun out).cams.population = s.cams.population
    ∧ (s.startRun out).cams.source = s.cams.source := by
  rw [s.startRun_eq out, ((s.readyToRun out).lineEvents_top_keeps true out.recHold LineOrder.start
    (s.readyToRun_line out)).2.2.2.2.2.2.2.2]
  simp [State.fireTop, State.planRequests, State.planRequest_population, Cameras.mapLinks]

/-- What settling the record can do to the Camera Links (R68, R182). -/
theorem State.settleFitting_cams :
    s.settleFitting.cams = s.cams ∨ ∃ f : FittedRecord, s.settleFitting.cams = s.cams.fit f := by
  unfold State.settleFitting
  split
  · exact .inl rfl
  · exact .inl rfl
  · split
    · exact .inl rfl
    · split
      · exact .inl rfl
      · split
        · exact .inl rfl
        · exact .inr ⟨_, rfl⟩

/-! Input events: each changes the Signal Conditioner alone, never the wake record, and in RUN never the
wake-pending set (R90, R100, R101). -/

/-- A changed input changes the inputs and the wake-pending set, and nothing else (R90, R100). -/
theorem State.changeInput_changes (s : State) (n : Fin 8) (y : Input) : ∃ inputs pending,
    s.changeInput n y = s.setScn { s.scn with inputs := inputs, wakePending := pending } := by
  unfold State.changeInput Conditioner.noteWake
  dsimp only
  split
  · exact ⟨_, s.scn.wakePending, rfl⟩
  · split
    · exact ⟨_, _, rfl⟩
    · exact ⟨_, s.scn.wakePending, rfl⟩

/-- What an input's change can do to the state. -/
theorem State.changeInput_only (n : Fin 8) (y : Input) : ∃ c, s.changeInput n y = s.setScn c
    ∧ (s.stc.part ≠ .dormant → c.wakePending = s.scn.wakePending) ∧ c.wakeRecord = s.scn.wakeRecord := by
  unfold State.changeInput
  dsimp only
  split
  · exact ⟨_, rfl, fun _ => rfl, rfl⟩
  · refine ⟨_, rfl, fun h => ?_, ?_⟩
    · simp [Conditioner.noteWake, h, Conditioner.setInput]
    · unfold Conditioner.noteWake; split <;> rfl

/-- What one input event can do to the state. -/
theorem State.inputEvent_only (e : InputEvent) : ∃ c, s.inputEvent e = s.setScn c
    ∧ (s.stc.part ≠ .dormant → c.wakePending = s.scn.wakePending) ∧ c.wakeRecord = s.scn.wakeRecord := by
  cases e with
  | rawChange n l => exact s.changeInput_only _ _
  | debounceExpiry n =>
    unfold State.inputEvent State.debounceExpiry
    dsimp only
    split
    · exact ⟨s.scn, by simp, fun _ => rfl, rfl⟩
    · exact s.changeInput_only _ _

/-- What the input events of a wake can do to the state. -/
theorem State.inputEvents_only (l : List InputEvent) : ∀ s : State, ∃ c, l.foldl State.inputEvent s = s.setScn c
    ∧ (s.stc.part ≠ .dormant → c.wakePending = s.scn.wakePending) ∧ c.wakeRecord = s.scn.wakeRecord := by
  induction l with
  | nil => exact fun s => ⟨s.scn, by simp, fun _ => rfl, rfl⟩
  | cons e l ih =>
    intro s
    obtain ⟨c, h1, h2, h3⟩ := s.inputEvent_only e
    obtain ⟨d, h4, h5, h6⟩ := ih (s.inputEvent e)
    rw [h1] at h4 h5 h6
    exact ⟨d, by rw [List.foldl_cons, h1, h4]; simp, fun h => by rw [h5 (by simpa using h)]; simpa using h2 h,
      by rw [h6]; simpa using h3⟩

end Sys2Proof.Machine
end

