-- ==== Sys2Proof/Laws/Memory.lean ====
section
/-! SUPPORT. Overlay Memory: reading one byte after a write, and the canonical form, which every operation
keeps. -/

namespace Sys2Proof.Machine

/-- What the canonical form says. -/
theorem Memory.wf_iff (m : Memory) :
    m.wf = true ↔ m.Pairwise (fun x y => x.1 < y.1) ∧ ∀ c ∈ m, c.1 < overlayBytes := by
  simp [Memory.wf]

/-- An address below the first entry's is not listed. -/
theorem Memory.lookup_none_of_lt (m : Memory) (x : Nat) (h : ∀ c ∈ m, x < c.1) : m.lookup x = none := by
  induction m with
  | nil => rfl
  | cons c m ih =>
    obtain ⟨a, b⟩ := c
    have ha : x < a := h (a, b) (by simp)
    have hne : ¬ a = x := by omega
    simp only [Memory.lookup, if_neg hne]
    exact ih (fun c hc => h c (by simp [hc]))

/-- The byte written reads as written, every other as before. -/
theorem Memory.lookup_write (m : Memory) (hm : m.Pairwise (fun x y => x.1 < y.1)) (x y : Nat) (v : Byte) :
    (m.write x v).lookup y = if y = x then some v else m.lookup y := by
  induction m with
  | nil => simp [Memory.write, Memory.lookup, eq_comm]
  | cons c m ih =>
    obtain ⟨a, b⟩ := c
    have htail := (List.pairwise_cons.mp hm).2
    have hhead := (List.pairwise_cons.mp hm).1
    simp only [Memory.write]
    split
    · rename_i hlt
      by_cases hy : y = x
      · simp [Memory.lookup, hy]
      · simp [Memory.lookup, hy, Ne.symm hy]
    · split
      · rename_i _ heq
        by_cases hy : y = x
        · simp [Memory.lookup, hy]
        · have : ¬ x = y := fun h => hy h.symm
          simp [Memory.lookup, ← heq, hy, this]
      · rename_i h1 h2
        by_cases hay : a = y
        · have : ¬ y = x := by omega
          simp [Memory.lookup, hay, this]
        · simp only [Memory.lookup, if_neg hay]
          exact ih htail

/-- What a write lists was listed, or is the byte written. -/
theorem Memory.mem_write (m : Memory) (x : Nat) (v : Byte) (c : Host.Cell) (h : c ∈ m.write x v) :
    c = (x, v) ∨ c ∈ m := by
  induction m with
  | nil => simp [Memory.write] at h; exact Or.inl h
  | cons d m ih =>
    obtain ⟨a, b⟩ := d
    simp only [Memory.write] at h
    split at h
    · rcases List.mem_cons.mp h with h | h
      · exact Or.inl h
      · exact Or.inr h
    · split at h
      · rcases List.mem_cons.mp h with h | h
        · exact Or.inl h
        · exact Or.inr (by simp [h])
      · rcases List.mem_cons.mp h with h | h
        · exact Or.inr (by simp [h])
        · rcases ih h with h | h
          · exact Or.inl h
          · exact Or.inr (by simp [h])

/-- A write keeps the addresses strictly rising. -/
theorem Memory.write_pairwise (m : Memory) (hm : m.Pairwise (fun x y => x.1 < y.1)) (x : Nat) (v : Byte) :
    (m.write x v).Pairwise (fun x y => x.1 < y.1) := by
  induction m with
  | nil => simp [Memory.write]
  | cons c m ih =>
    obtain ⟨a, b⟩ := c
    have htail := (List.pairwise_cons.mp hm).2
    have hhead := (List.pairwise_cons.mp hm).1
    simp only [Memory.write]
    split
    · rename_i hlt
      refine List.pairwise_cons.mpr ⟨?_, hm⟩
      intro d hd
      rcases List.mem_cons.mp hd with hd | hd
      · subst hd; exact hlt
      · exact lt_trans hlt (hhead d hd)
    · split
      · rename_i _ heq
        subst heq
        exact List.pairwise_cons.mpr ⟨hhead, htail⟩
      · rename_i h1 h2
        refine List.pairwise_cons.mpr ⟨?_, ih htail⟩
        intro d hd
        rcases Memory.mem_write m x v d hd with hd | hd
        · subst hd; change a < x; omega
        · exact hhead d hd

/-- A write inside Overlay Memory keeps the canonical form. -/
theorem Memory.write_wf (m : Memory) (h : m.wf = true) (x : Nat) (v : Byte) (hx : x < overlayBytes) :
    (m.write x v).wf = true := by
  rw [Memory.wf_iff] at h ⊢
  refine ⟨Memory.write_pairwise m h.1 x v, ?_⟩
  intro c hc
  rcases Memory.mem_write m x v c hc with hc | hc
  · subst hc; exact hx
  · exact h.2 c hc

/-- Writing bytes inside Overlay Memory keeps the canonical form. -/
theorem Memory.writeAll_wf (vs : List Byte) : ∀ (m : Memory) (x : Nat), m.wf = true →
    x + vs.length ≤ overlayBytes → (m.writeAll x vs).wf = true := by
  induction vs with
  | nil => intro m x h _; exact h
  | cons v vs ih =>
    intro m x h hx
    simp only [List.length_cons] at hx
    exact ih _ _ (Memory.write_wf m h x v (by omega)) (by omega)

/-- Reading one byte after bytes were written from `x` on. -/
theorem Memory.lookup_writeAll (vs : List Byte) : ∀ (m : Memory) (x y : Nat),
    m.Pairwise (fun x y => x.1 < y.1) →
    (m.writeAll x vs).lookup y =
      if x ≤ y ∧ y < x + vs.length then vs[y - x]? else m.lookup y := by
  induction vs with
  | nil =>
    intro m x y _
    have : ¬ (x ≤ y ∧ y < x + ([] : List Byte).length) := by simp
    rw [if_neg this]; rfl
  | cons v vs ih =>
    intro m x y hm
    rw [Memory.writeAll, ih _ _ _ (Memory.write_pairwise m hm x v), Memory.lookup_write m hm]
    simp only [List.length_cons]
    by_cases h1 : x + 1 ≤ y ∧ y < x + 1 + vs.length
    · have h2 : x ≤ y ∧ y < x + (vs.length + 1) := by omega
      have h3 : y - x = (y - (x + 1)) + 1 := by omega
      rw [if_pos h1, if_pos h2, h3, List.getElem?_cons_succ]
    · by_cases h4 : y = x
      · subst h4
        simp
      · have h5 : ¬ (x ≤ y ∧ y < x + (vs.length + 1)) := by omega
        rw [if_neg h1, if_neg h4, if_neg h5]

/-- The memory after reset is in the canonical form. -/
theorem Memory.reset_wf : (State.reset.ovm.memory).wf = true := by decide

@[simp] theorem Overlay.clearError_memory (o : Overlay) (w : Nat) : (o.clearError w).memory = o.memory := rfl
@[simp] theorem Overlay.setRegion_memory (o : Overlay) (g : Fin 16) (x : Option Region) :
    (o.setRegion g x).memory = o.memory := rfl
@[simp] theorem Overlay.setContent_memory (o : Overlay) (g : Fin 16) (c : RegionContent) :
    (o.setContent g c).memory = o.memory := rfl
@[simp] theorem Overlay.setJob_memory (o : Overlay) (p : Port) (j : Option Job) :
    (o.setJob p j).memory = o.memory := rfl

/-- Errors that come about change no byte. -/
@[simp] theorem Overlay.suffer_memory (us : List Upset) : ∀ o : Overlay, (o.suffer us).memory = o.memory := by
  induction us with
  | nil => intro o; rfl
  | cons u us ih => intro o; exact ih _

/-- Correcting a word of Overlay Memory keeps the canonical form. -/
theorem Overlay.correct_wf (o : Overlay) (h : o.memory.wf = true) (w : Nat) (hw : w < overlayWords) :
    (o.correct w).memory.wf = true := by
  refine Memory.writeAll_wf _ _ _ h ?_
  simp only [List.length_map, wordAddresses, List.length_range, overlayBytes]
  simp only [overlayWords] at hw
  omega

/-- Writing a chunk inside Overlay Memory keeps the canonical form. -/
theorem Overlay.writeChunk_wf (o : Overlay) (h : o.memory.wf = true) (x : Nat) (bs : List Byte)
    (hx : x + bs.length ≤ overlayBytes) : (o.writeChunk x bs).memory.wf = true :=
  Memory.writeAll_wf bs o.memory x h hx

/-- The byte at an address after a chunk is written: the chunk's byte inside it, the byte before outside. -/
theorem Overlay.byteAt_writeChunk (o : Overlay) (h : o.memory.wf = true) (x y : Nat) (bs : List Byte) :
    (o.writeChunk x bs).byteAt y =
      if x ≤ y ∧ y < x + bs.length then bs.getD (y - x) 0#8 else o.byteAt y := by
  have hm := ((Memory.wf_iff _).mp h).1
  simp only [Overlay.byteAt, Overlay.writeChunk, Memory.lookup_writeAll bs _ _ _ hm]
  by_cases hy : x ≤ y ∧ y < x + bs.length
  · have hlt : y - x < bs.length := by omega
    simp [hy, hlt]
  · simp [hy]

/-- Correcting a word changes no byte: it writes back what was read (R137). -/
theorem Overlay.byteAt_correct (o : Overlay) (hm : o.memory.wf = true) (w a : Nat) : (o.correct w).byteAt a = o.byteAt a := by
  have hm' := ((Memory.wf_iff _).1 hm).1
  have key : (o.correct w).memory.lookup a =
      if 8 * w ≤ a ∧ a < 8 * w + 8 then some (o.byteAt a) else o.memory.lookup a := by
    refine (Memory.lookup_writeAll _ _ _ _ hm').trans ?_
    simp only [wordAddresses, List.length_map, List.length_range]
    split
    · rename_i h
      rw [List.map_map, List.getElem?_map, List.getElem?_range (by omega)]
      simp only [Option.map_some, Function.comp_apply]
      rw [show 8 * w + (a - 8 * w) = a by omega]
    · rfl
  show (match (o.correct w).memory.lookup a with | some b => b | none => Config.undefinedByte o.epoch a) = _
  rw [key]
  split
  · rename_i h
    split at h
    · cases h; rfl
    · unfold Overlay.byteAt; rw [h]
  · rename_i h
    split at h
    · cases h
    · unfold Overlay.byteAt; rw [h]

/-- A word read with an error exists. -/
theorem Overlay.readCheck_lt {o : Overlay} {w : Nat} (h : o.readCheck w ≠ .clean) : w < overlayWords := by
  unfold Overlay.readCheck at h; split at h
  · assumption
  · exact absurd rfl h

/-- Correcting a word changes what a read of no other word finds. -/
theorem Overlay.readCheck_correct (o : Overlay) (hm : o.memory.wf = true) (w v : Nat) (hvw : v ≠ w) : (o.correct w).readCheck v = o.readCheck v := by
  have hm' := ((Memory.wf_iff _).1 hm).1
  unfold Overlay.readCheck
  split
  · unfold Overlay.check
    have e : (o.correct w).errors.find? (fun u => decide (u.word = v)) = o.errors.find? (fun u => decide (u.word = v)) := by
      show (o.errors.filter (fun u => decide (u.word ≠ w))).find? _ = _
      rw [List.find?_filter]
      congr 1; funext u
      by_cases h : u.word = v <;> simp [h, hvw]
    have e2 : (o.correct w).wordWritten v = o.wordWritten v := by
      unfold Overlay.wordWritten
      simp only [wordAddresses, List.any_map]
      rw [Bool.eq_iff_iff]; simp only [List.any_eq_true, List.mem_range, Function.comp_apply]
      have : ∀ x, x < 8 → (o.correct w).memory.lookup (8 * v + x) = o.memory.lookup (8 * v + x) := by
        intro x hx
        refine (Memory.lookup_writeAll _ _ _ _ hm').trans ?_
        simp only [wordAddresses, List.length_map, List.length_range]
        rw [if_neg (by omega)]
      constructor
      · rintro ⟨x, hx, h⟩; exact ⟨x, hx, by rwa [← this x hx]⟩
      · rintro ⟨x, hx, h⟩; exact ⟨x, hx, by rwa [this x hx]⟩
    rw [e, e2]; rfl
  · rfl

theorem mem_wordsTouched (x n w : Nat) (hn : 0 < n) : w ∈ wordsTouched x n ↔ x < 8 * w + 8 ∧ 8 * w < x + n := by
  unfold wordsTouched
  rw [if_neg (by omega), List.mem_map]
  constructor
  · rintro ⟨i, hi, rfl⟩
    rw [List.mem_range] at hi
    omega
  · rintro ⟨h1, h2⟩
    exact ⟨w - x / 8, by rw [List.mem_range]; omega, by omega⟩

theorem Overlay.wordWritten_iff (o : Overlay) (w : Nat) :
    o.wordWritten w = true ↔ ∃ i, i < 8 ∧ (o.memory.lookup (8 * w + i)).isSome = true := by
  simp [Overlay.wordWritten, wordAddresses, List.any_map]

/-- Of the upsets kept by their words, the first of a word. -/
theorem find?_filter_word (keep : Nat → Bool) (w : Nat) : ∀ us : List Upset,
    (us.filter (fun u => keep u.word)).find? (fun u => decide (u.word = w))
      = if keep w then us.find? (fun u => decide (u.word = w)) else none
  | [] => by cases keep w <;> rfl
  | u :: us => by
    have ih := find?_filter_word keep w us
    by_cases h : u.word = w
    · cases hk : keep w
      · simpa [List.filter_cons, h, hk] using ih
      · simp [h, hk]
    · cases hk : keep u.word <;> simpa [List.filter_cons, h, hk] using ih

/-- What a read of a word finds after a chunk is written (R121, R131): a word the chunk covers reads without error,
a word it does not touch reads as before, and a word it touches in part reads one way or the other (log 8). -/
theorem Overlay.readCheck_writeChunk (o : Overlay) (hm : o.memory.wf = true) (x : Nat) (bs : List Byte)
    (hn : 0 < bs.length) (w : Nat) :
    (x ≤ 8 * w → 8 * w + 8 ≤ x + bs.length → (o.writeChunk x bs).readCheck w = .clean)
    ∧ (8 * w + 8 ≤ x ∨ x + bs.length ≤ 8 * w → (o.writeChunk x bs).readCheck w = o.readCheck w)
    ∧ ((o.writeChunk x bs).readCheck w = .clean ∨ (o.writeChunk x bs).readCheck w = o.readCheck w) := by
  have lookup : ∀ a, (o.writeChunk x bs).memory.lookup a =
      if x ≤ a ∧ a < x + bs.length then bs[a - x]? else o.memory.lookup a :=
    fun a => Memory.lookup_writeAll bs o.memory x a ((Memory.wf_iff _).1 hm).1
  have found : (o.writeChunk x bs).errors.find? (fun u => decide (u.word = w)) =
      if (!(wordsTouched x bs.length).contains w
        || (!coversWord x bs.length w && Config.partialWriteKeepsError o.epoch w))
      then o.errors.find? (fun u => decide (u.word = w)) else none :=
    find?_filter_word (fun v => !(wordsTouched x bs.length).contains v
      || (!coversWord x bs.length v && Config.partialWriteKeepsError o.epoch v)) w o.errors
  have touched : (wordsTouched x bs.length).contains w = true ↔ x < 8 * w + 8 ∧ 8 * w < x + bs.length := by
    rw [List.contains_iff_mem, mem_wordsTouched x bs.length w hn]
  have epoch : (o.writeChunk x bs).epoch = o.epoch := rfl
  have apart : 8 * w + 8 ≤ x ∨ x + bs.length ≤ 8 * w →
      (o.writeChunk x bs).readCheck w = o.readCheck w := by
    intro h
    have hf : (wordsTouched x bs.length).contains w = false := by
      rw [Bool.eq_false_iff, ne_eq, touched]; omega
    have hw : (o.writeChunk x bs).wordWritten w = o.wordWritten w := by
      rw [Bool.eq_iff_iff, Overlay.wordWritten_iff, Overlay.wordWritten_iff]
      refine exists_congr fun i => and_congr_right fun hi => ?_
      rw [lookup, if_neg (by omega)]
    unfold Overlay.readCheck Overlay.check
    rw [found, hf, hw, epoch]
    rfl
  have written : x < 8 * w + 8 → 8 * w < x + bs.length → (o.writeChunk x bs).wordWritten w = true := by
    intro h1 h2
    refine (Overlay.wordWritten_iff _ _).2 ⟨max x (8 * w) - 8 * w, by omega, ?_⟩
    rw [lookup, if_pos (by omega), List.getElem?_eq_getElem (by omega)]
    rfl
  refine ⟨fun h1 h2 => ?_, apart, ?_⟩
  · have ht := touched.2 ⟨by omega, by omega⟩
    have hc : coversWord x bs.length w = true := by simp [coversWord, h1, h2]
    unfold Overlay.readCheck Overlay.check
    rw [found, ht, hc, written (by omega) (by omega)]
    simp
  · by_cases h : 8 * w + 8 ≤ x ∨ x + bs.length ≤ 8 * w
    · exact .inr (apart h)
    · have ht := touched.2 ⟨by omega, by omega⟩
      unfold Overlay.readCheck Overlay.check
      rw [found, ht, written (by omega) (by omega)]
      split
      · split
        · rename_i u hu
          split at hu
          · rw [hu]; exact .inr rfl
          · cases hu
        · exact .inl rfl
      · exact .inl rfl

/-- What a read finds of a word after errors have come about (log 8): of a word not named what it found before, of
a word named with one error that error. -/
theorem Overlay.readCheck_suffer : ∀ (us : List Upset) (o : Overlay) (w : Nat),
    ((∀ u ∈ us, u.word ≠ w) → (o.suffer us).readCheck w = o.readCheck w)
    ∧ (∀ u ∈ us, u.word = w → w < overlayWords → (∀ z ∈ us, z.word = w → z = u) →
      (o.suffer us).readCheck w = match u.error with | .single => .single | .double => .double)
  | [], o, w => ⟨fun _ => rfl, fun u hu => by cases hu⟩
  | v :: us, o, w => by
    obtain ⟨h1, h2⟩ := Overlay.readCheck_suffer us
      { o.clearError v.word with errors := v :: (o.clearError v.word).errors } w
    refine ⟨fun h => ?_, fun u hu hw hlt hone => ?_⟩
    · refine (h1 fun u hu => h u (List.mem_cons_of_mem _ hu)).trans ?_
      have hv : v.word ≠ w := h v List.mem_cons_self
      have e : (v :: (o.clearError v.word).errors).find? (fun u => decide (u.word = w))
          = o.errors.find? (fun u => decide (u.word = w)) := by
        rw [List.find?_cons, decide_eq_false hv]
        refine (find?_filter_word (fun x => decide (x ≠ v.word)) w o.errors).trans ?_
        rw [if_pos (by simpa using hv.symm)]
      unfold Overlay.readCheck Overlay.check
      dsimp only
      rw [e]
      rfl
    · by_cases hin : ∃ z ∈ us, z.word = w
      · obtain ⟨z, hz, hzw⟩ := hin
        have : z = u := hone z (List.mem_cons_of_mem _ hz) hzw
        subst this
        exact h2 z hz hzw hlt fun y hy => hone y (List.mem_cons_of_mem _ hy)
      · have hv : u = v := by
          rcases List.mem_cons.1 hu with h | h
          · exact h
          · exact absurd ⟨u, h, hw⟩ hin
        subst hv
        refine (h1 fun z hz h => hin ⟨z, hz, h⟩).trans ?_
        unfold Overlay.readCheck Overlay.check
        rw [if_pos hlt]
        have e : (u :: (o.clearError u.word).errors).find? (fun u => decide (u.word = w)) = some u := by
          rw [List.find?_cons, decide_eq_true hw]
        simp only [e] <;> cases u.error <;> rfl

/-- Errors that come about are all that changes (log 8). -/
theorem Overlay.suffer_keeps (us : List Upset) : ∀ o : Overlay, (o.suffer us).regions = o.regions
    ∧ (o.suffer us).jobs = o.jobs ∧ (o.suffer us).corrected = o.corrected ∧ (o.suffer us).epoch = o.epoch := by
  induction us with
  | nil => exact fun o => ⟨rfl, rfl, rfl, rfl⟩
  | cons u us ih => exact fun o => ih _

end Sys2Proof.Machine
end

