-- ==== Sys2Proof/Laws/Load.lean ====
section
/-! SUPPORT. The Load Engine: the jobs and regions after each shared operation, and what ending a job or taking
the arbiter's turn can do. -/

namespace Sys2Proof.Machine

variable (s : State) (o : Overlay) (p q : Port) (g h : Fin 16)

/-! ## Jobs and regions -/

theorem Overlay.setJob_get (j : Option Job) : (o.setJob p j).jobs.get q = if q = p then j else o.jobs.get q :=
  PerPort.get_set _ _ _ _

@[simp] theorem Overlay.setJob_get_self (j : Option Job) : (o.setJob p j).jobs.get p = j := by
  simp [Overlay.setJob_get]

@[simp] theorem Overlay.setJob_regions (j : Option Job) : (o.setJob p j).regions = o.regions := rfl
@[simp] theorem Overlay.setJob_errors (j : Option Job) : (o.setJob p j).errors = o.errors := rfl
@[simp] theorem Overlay.setJob_epoch (j : Option Job) : (o.setJob p j).epoch = o.epoch := rfl
@[simp] theorem Overlay.setJob_corrected (j : Option Job) : (o.setJob p j).corrected = o.corrected := rfl

@[simp] theorem Overlay.setRegion_jobs (x : Option Region) : (o.setRegion g x).jobs = o.jobs := rfl
@[simp] theorem Overlay.setRegion_corrected (x : Option Region) : (o.setRegion g x).corrected = o.corrected := rfl
@[simp] theorem Overlay.setContent_jobs (c : RegionContent) : (o.setContent g c).jobs = o.jobs := rfl
@[simp] theorem Overlay.setContent_corrected (c : RegionContent) : (o.setContent g c).corrected = o.corrected := rfl

theorem Overlay.setRegion_get (x : Option Region) :
    (o.setRegion g x).regions[h] = if h = g then x else o.regions[h] := vectorSet_get _ _ _ _

theorem Overlay.setContent_get (c : RegionContent) : (o.setContent g c).regions[h] =
    if h = g then o.regions[g].map (fun r => { r with content := c }) else o.regions[h] :=
  vectorSet_get _ _ _ _

@[simp] theorem Overlay.suffer_jobs (us : List Upset) : ∀ o : Overlay, (o.suffer us).jobs = o.jobs := by
  induction us with
  | nil => intro o; rfl
  | cons a as ih => intro o; exact ih _

@[simp] theorem Overlay.suffer_regions (us : List Upset) : ∀ o : Overlay, (o.suffer us).regions = o.regions := by
  induction us with
  | nil => intro o; rfl
  | cons a as ih => intro o; exact ih _

@[simp] theorem Overlay.suffer_corrected (us : List Upset) : ∀ o : Overlay, (o.suffer us).corrected = o.corrected := by
  induction us with
  | nil => intro o; rfl
  | cons a as ih => intro o; exact ih _

@[simp] theorem Overlay.suffer_epoch (us : List Upset) : ∀ o : Overlay, (o.suffer us).epoch = o.epoch := by
  induction us with
  | nil => intro o; rfl
  | cons a as ih => intro o; exact ih _

@[simp] theorem Overlay.correct_jobs (w : Nat) : (o.correct w).jobs = o.jobs := rfl
@[simp] theorem Overlay.correct_regions (w : Nat) : (o.correct w).regions = o.regions := rfl
@[simp] theorem Overlay.correct_epoch (w : Nat) : (o.correct w).epoch = o.epoch := rfl

/-! ## The arbiter -/

theorem PerPort.firstJob_some {jobs : PerPort (Option Job)} {test : Job → Bool} {q : Port} {j : Job}
    (h : jobs.firstJob test = some (q, j)) : jobs.get q = some j ∧ test j = true := by
  unfold PerPort.firstJob at h
  split at h
  · rename_i j' hj
    simp only [Option.some.injEq, Prod.mk.injEq] at h
    obtain ⟨rfl, rfl⟩ := h
    exact Option.filter_eq_some_iff.1 hj
  · split at h
    · rename_i j' hj
      simp only [Option.some.injEq, Prod.mk.injEq] at h
      obtain ⟨rfl, rfl⟩ := h
      exact Option.filter_eq_some_iff.1 hj
    · simp only [Option.map_eq_some_iff, Prod.mk.injEq] at h
      obtain ⟨j', hj, rfl, rfl⟩ := h
      exact Option.filter_eq_some_iff.1 hj

/-- Of the ports whose job passes, `firstJob` gives the one of highest rank. -/
theorem PerPort.firstJob_least {jobs : PerPort (Option Job)} {test : Job → Bool} {q r : Port} {j k : Job}
    (h : jobs.firstJob test = some (q, j)) (hk : jobs.get r = some k) (ht : test k = true) :
    Port.number q ≤ Port.number r := by
  unfold PerPort.firstJob at h
  cases r with
  | body =>
    have : jobs.body.filter test = some k := Option.filter_eq_some_iff.2 ⟨hk, ht⟩
    simp only [this, Option.some.injEq, Prod.mk.injEq] at h
    obtain ⟨rfl, -⟩ := h; exact Nat.le_refl _
  | detect =>
    have h2 : jobs.detect.filter test = some k := Option.filter_eq_some_iff.2 ⟨hk, ht⟩
    cases h1 : jobs.body.filter test with
    | some x =>
      simp only [h1, Option.some.injEq, Prod.mk.injEq] at h
      obtain ⟨rfl, -⟩ := h; exact Nat.zero_le _
    | none =>
      simp only [h1, h2, Option.some.injEq, Prod.mk.injEq] at h
      obtain ⟨rfl, -⟩ := h; exact Nat.le_refl _
  | cab => cases q <;> decide

theorem PerPort.firstJob_none {jobs : PerPort (Option Job)} {test : Job → Bool} :
    jobs.firstJob test = none ↔ ∀ q j, jobs.get q = some j → test j = false := by
  constructor
  · intro h q j hj
    by_contra ht
    have ht : test j = true := by simpa using ht
    unfold PerPort.firstJob at h
    cases q with
    | body =>
      have : jobs.body.filter test = some j := Option.filter_eq_some_iff.2 ⟨hj, ht⟩
      simp [this] at h
    | detect =>
      have : jobs.detect.filter test = some j := Option.filter_eq_some_iff.2 ⟨hj, ht⟩
      cases h1 : jobs.body.filter test <;> simp [h1, this] at h
    | cab =>
      have : jobs.cab.filter test = some j := Option.filter_eq_some_iff.2 ⟨hj, ht⟩
      cases h1 : jobs.body.filter test <;> cases h2 : jobs.detect.filter test <;> simp [h1, h2, this] at h
  · intro h
    cases hf : jobs.firstJob test with
    | none => rfl
    | some a =>
      obtain ⟨h1, h2⟩ := PerPort.firstJob_some hf
      rw [h a.1 a.2 h1] at h2; cases h2

/-- Everything the arbiter does when the place falls free (R130, R136). -/
theorem State.resumeNext_cases :
    (s.ovm.jobs.firstJob Job.isSuspended = none ∧ s.resumeNext = s)
    ∨ ∃ q j, s.ovm.jobs.get q = some j ∧ j.isSuspended = true
      ∧ s.ovm.jobs.firstJob Job.isSuspended = some (q, j)
      ∧ s.resumeNext = (s.setOvm (s.ovm.setJob q (some { j with state := .receiving receiveTime }))).raiseTo q
          .loadResumed j.region.val 0 := by
  unfold State.resumeNext
  cases h : s.ovm.jobs.firstJob Job.isSuspended with
  | none => exact .inl ⟨rfl, rfl⟩
  | some a =>
    obtain ⟨h1, h2⟩ := PerPort.firstJob_some h
    exact .inr ⟨a.1, a.2, h1, h2, rfl, rfl⟩

theorem State.resumeNext_raised : s.Raised s.resumeNext := by
  rcases s.resumeNext_cases with ⟨-, h⟩ | ⟨q, j, -, -, -, h⟩ <;> rw [h]
  · exact State.Raised.refl s
  · exact State.Raised.trans (t := s.setOvm _) (State.Raised.of_ports (State.setOvm_ports _ _))
      (State.raised_raiseTo _ _ _ _ _)

/-- The end of a job changes Overlay Memory's block and raises at most LOAD_RESUMED (R130). -/
theorem State.endJob_shape (j : Job) (c : RegionContent) : ∃ o x, s.endJob p j c = (s.setOvm o).setPorts x
    ∧ s.Raised (s.endJob p j c) ∧ o.memory = s.ovm.memory ∧ o.errors = s.ovm.errors ∧ o.epoch = s.ovm.epoch
    ∧ o.corrected = s.ovm.corrected ∧ o.regions = (s.ovm.setContent j.region c).regions
    ∧ o.jobs.get p = none ∧ x.get p = s.ports.get p := by
  unfold State.endJob
  dsimp only
  split
  · exact ⟨_, s.ports, (State.setPorts_self _).symm, State.Raised.of_ports rfl, rfl, rfl, rfl, rfl, rfl,
      Overlay.setJob_get_self _ _ _, rfl⟩
  · rcases (s.setOvm ((s.ovm.setContent j.region c).setJob p none)).resumeNext_cases with
      ⟨-, h⟩ | ⟨q, k, hq, -, -, h⟩
    · rw [h]
      exact ⟨_, s.ports, (State.setPorts_self _).symm, State.Raised.of_ports rfl, rfl, rfl, rfl, rfl, rfl,
        Overlay.setJob_get_self _ _ _, rfl⟩
    · have hqp : p ≠ q := by rintro rfl; simp at hq
      rw [h]
      refine ⟨_, _, rfl, ?_, rfl, rfl, rfl, rfl, rfl, ?_, ?_⟩
      · exact State.Raised.trans (t := s.setOvm _) (State.Raised.of_ports (State.setOvm_ports _ _))
          (State.raised_raiseTo _ _ _ _ _)
      · rw [Overlay.setJob_get, if_neg hqp]; simp
      · exact State.modPort_get_of_ne _ _ _ _ hqp

/-! ## The three job states exclude each other -/

theorem Job.receiving_place {j : Job} (h : j.isReceiving = true) : j.isSuspended = false ∧ j.isVerifying = false := by
  obtain ⟨_, _, _, _, _, st, _⟩ := j
  cases st <;> simp_all [Job.isReceiving, Job.isSuspended, Job.isVerifying]

theorem Job.verifying_place {j : Job} (h : j.isVerifying = true) : j.isSuspended = false ∧ j.isReceiving = false := by
  obtain ⟨_, _, _, _, _, st, _⟩ := j
  cases st <;> simp_all [Job.isReceiving, Job.isSuspended, Job.isVerifying]

theorem Job.suspended_place {j : Job} (h : j.isSuspended = true) : j.isReceiving = false ∧ j.isVerifying = false := by
  obtain ⟨_, _, _, _, _, st, _⟩ := j
  cases st <;> simp_all [Job.isReceiving, Job.isSuspended, Job.isVerifying]

/-! ## Verification -/

/-- Verification's reads leave the regions and the jobs. -/
theorem Overlay.verifyWords_keeps : ∀ (ws : List Nat) (o : Overlay), (o.verifyWords ws).1.regions = o.regions ∧ (o.verifyWords ws).1.jobs = o.jobs
  | [], o => ⟨rfl, rfl⟩
  | w :: ws, o => by
    unfold Overlay.verifyWords
    split
    · exact Overlay.verifyWords_keeps ws o
    · obtain ⟨a, b⟩ := Overlay.verifyWords_keeps ws (o.correct w); exact ⟨a, b⟩
    · exact Overlay.verifyWords_keeps ws o

/-- Everything verification's reads do to the bytes, and what they report (R132, R137). -/
theorem Overlay.verifyWords_spec : ∀ (ws : List Nat) (o : Overlay), o.memory.wf = true → ws.Nodup →
    (o.verifyWords ws).1.memory.wf = true ∧ (∀ a, (o.verifyWords ws).1.byteAt a = o.byteAt a)
    ∧ ((o.verifyWords ws).2 = true ↔ ∃ w ∈ ws, o.readCheck w = .double)
  | [], o, h, _ => ⟨h, fun _ => rfl, by simp [Overlay.verifyWords]⟩
  | w :: ws, o, h, hn => by
    rw [List.nodup_cons] at hn
    unfold Overlay.verifyWords
    split
    · rename_i hc
      obtain ⟨a, b, c⟩ := Overlay.verifyWords_spec ws o h hn.2
      exact ⟨a, b, by rw [c]; simp [hc]⟩
    · rename_i hc
      have hw := Overlay.readCheck_lt (o := o) (w := w) (by rw [hc]; simp)
      obtain ⟨a, b, c⟩ := Overlay.verifyWords_spec ws (o.correct w) (o.correct_wf h w hw) hn.2
      refine ⟨a, fun x => by rw [b, Overlay.byteAt_correct o h], ?_⟩
      rw [c]; simp only [List.mem_cons, exists_eq_or_imp, hc]
      have : ∀ v ∈ ws, (o.correct w).readCheck v = o.readCheck v := fun v hv => Overlay.readCheck_correct o h w v (by rintro rfl; exact hn.1 hv)
      constructor
      · rintro ⟨v, hv, h2⟩; exact .inr ⟨v, hv, by rwa [← this v hv]⟩
      · rintro (h2 | ⟨v, hv, h2⟩)
        · cases h2
        · exact ⟨v, hv, by rwa [this v hv]⟩
    · rename_i hc
      obtain ⟨a, b, c⟩ := Overlay.verifyWords_spec ws o h hn.2
      exact ⟨a, b, by simp [hc]⟩

theorem jobWords_nodup (b l : Nat) : (jobWords b l).Nodup := by
  unfold jobWords
  refine List.Nodup.map ?_ List.nodup_range
  intro x y h; simpa using h

theorem jobWords_mem (f l w : Nat) : w ∈ jobWords (4096 * f) l ↔ ∃ i, i < l ∧ w = (4096 * f + i) / 8 := by
  unfold jobWords; simp only [List.mem_map, List.mem_range]
  constructor
  · rintro ⟨a, h, rfl⟩; exact ⟨8 * a, by omega, by omega⟩
  · rintro ⟨i, h, rfl⟩; exact ⟨i / 8, by omega, by omega⟩

/-! ## Reads that correct (R132, R137, R152) -/

theorem Overlay.readCheck_correct_self (hm : o.memory.wf = true) {w : Nat} (hw : w < overlayWords) :
    (o.correct w).readCheck w = .clean := by
  have hm' := ((Memory.wf_iff _).1 hm).1
  have e : (o.correct w).errors.find? (fun u => decide (u.word = w)) = none := by
    show (o.errors.filter (fun u => decide (u.word ≠ w))).find? _ = none
    rw [List.find?_eq_none]
    intro u hu; simpa using (List.mem_filter.1 hu).2
  have hk : ((o.correct w).memory.lookup (8 * w)).isSome = true := by
    have hl : (o.correct w).memory.lookup (8 * w) = _ := Memory.lookup_writeAll _ _ _ _ hm'
    rw [hl, if_pos (by simp [wordAddresses])]
    simp [wordAddresses]
  have e2 : (o.correct w).wordWritten w = true := by
    unfold Overlay.wordWritten
    rw [List.any_eq_true]
    exact ⟨8 * w, by simp [wordAddresses], hk⟩
  unfold Overlay.readCheck Overlay.check
  rw [if_pos hw, e, e2]; rfl

/-- `u` is `o` with every single error among some words corrected: the words written back with good check bits and
counted, all else as it was. -/
def Overlay.Corrects (o u : Overlay) (ws : List Nat) : Prop :=
  u.regions = o.regions ∧ u.jobs = o.jobs ∧ u.epoch = o.epoch ∧ u.memory.wf = true
    ∧ (∀ a, u.byteAt a = o.byteAt a)
    ∧ (∀ w, u.readCheck w = if w ∈ ws ∧ o.readCheck w = .single then .clean else o.readCheck w)
    ∧ u.corrected = min 255 (o.corrected + (ws.filter (fun w => decide (o.readCheck w = .single))).length)

theorem Overlay.Corrects.nil (hm : o.memory.wf = true) (hc : o.corrected ≤ 255) : o.Corrects o [] :=
  ⟨rfl, rfl, rfl, hm, fun _ => rfl, fun _ => by simp, by simp; omega⟩

/-- A word read without a single error adds nothing. -/
theorem Overlay.Corrects.skip {o u : Overlay} {w : Nat} {ws : List Nat} (h : o.Corrects u ws)
    (hw : o.readCheck w ≠ .single) : o.Corrects u (w :: ws) := by
  obtain ⟨h1, h2, h3, h4, h5, h6, h7⟩ := h
  refine ⟨h1, h2, h3, h4, h5, fun v => ?_, ?_⟩
  · rw [h6]; congr 1
    simp only [List.mem_cons, eq_iff_iff]
    constructor
    · rintro ⟨a, b⟩; exact ⟨.inr a, b⟩
    · rintro ⟨rfl | a, b⟩
      · exact absurd b hw
      · exact ⟨a, b⟩
  · rw [h7, List.filter_cons, if_neg (by simpa using hw)]

/-- A word with a single error, corrected before the others are. -/
theorem Overlay.Corrects.cons {o u : Overlay} {w : Nat} {ws : List Nat} (hm : o.memory.wf = true)
    (hw : o.readCheck w = .single) (hn : w ∉ ws) (h : (o.correct w).Corrects u ws) : o.Corrects u (w :: ws) := by
  have hlt : w < overlayWords := Overlay.readCheck_lt (by rw [hw]; simp)
  have hother : ∀ v, v ≠ w → (o.correct w).readCheck v = o.readCheck v := fun v hv => Overlay.readCheck_correct o hm w v hv
  obtain ⟨h1, h2, h3, h4, h5, h6, h7⟩ := h
  refine ⟨h1, h2, h3, h4, fun a => by rw [h5, Overlay.byteAt_correct o hm], fun v => ?_, ?_⟩
  · rw [h6]
    by_cases hv : v = w
    · subst hv; rw [if_neg (by rintro ⟨a, _⟩; exact hn a), o.readCheck_correct_self hm hlt, if_pos ⟨by simp, hw⟩]
    · rw [hother v hv]; congr 1; simp [hv]
  · have e : ws.filter (fun v => decide ((o.correct w).readCheck v = .single))
        = ws.filter (fun v => decide (o.readCheck v = .single)) :=
      List.filter_congr (fun v hv => by rw [hother v (fun h => hn (h ▸ hv))])
    have hc : (o.correct w).corrected = min 255 (o.corrected + 1) := rfl
    rw [h7, e, hc, List.filter_cons, if_pos (by simpa using hw), List.length_cons]; omega

theorem Overlay.correct_corrected_le (w : Nat) : (o.correct w).corrected ≤ 255 := Nat.min_le_left _ _

/-- Verification corrects every single error among the words it reads (R132; log 9). -/
theorem Overlay.verifyWords_corrects : ∀ (ws : List Nat) (o : Overlay), o.memory.wf = true → o.corrected ≤ 255 →
    ws.Nodup → o.Corrects (o.verifyWords ws).1 ws
  | [], o, hm, hc, _ => Overlay.Corrects.nil o hm hc
  | w :: ws, o, hm, hc, hn => by
    rw [List.nodup_cons] at hn
    unfold Overlay.verifyWords
    split
    · rename_i h; exact (Overlay.verifyWords_corrects ws o hm hc hn.2).skip (by simp [h])
    · rename_i h
      exact Overlay.Corrects.cons hm h hn.1 (Overlay.verifyWords_corrects ws _
        (o.correct_wf hm w (Overlay.readCheck_lt (by rw [h]; simp))) (o.correct_corrected_le w) hn.2)
    · rename_i h; exact (Overlay.verifyWords_corrects ws o hm hc hn.2).skip (by simp [h])

/-- Reading words none of which has a double error corrects the single ones and goes on to the end (R152). -/
theorem Overlay.readWords_corrects (base : Nat) : ∀ (ws : List Nat) (o : Overlay), o.memory.wf = true →
    o.corrected ≤ 255 → ws.Nodup → (∀ w ∈ ws, o.readCheck (base / 8 + w) ≠ .double) → ∀ post : List Nat,
    ∃ u, o.Corrects u (ws.map (base / 8 + ·)) ∧ o.readWords base (ws ++ post) = u.readWords base post
  | [], o, hm, hc, _, _, _ => ⟨o, Overlay.Corrects.nil o hm hc, rfl⟩
  | w :: ws, o, hm, hc, hn, hd, post => by
    rw [List.nodup_cons] at hn
    simp only [List.cons_append, Overlay.readWords]
    split
    · rename_i h
      obtain ⟨u, h1, h2⟩ := Overlay.readWords_corrects base ws o hm hc hn.2 (fun v hv => hd v (by simp [hv])) post
      exact ⟨u, h1.skip (by simp [h]), h2⟩
    · rename_i h
      obtain ⟨u, h1, h2⟩ := Overlay.readWords_corrects base ws (o.correct (base / 8 + w))
        (o.correct_wf hm _ (Overlay.readCheck_lt (by rw [h]; simp))) (o.correct_corrected_le _) hn.2
        (fun v hv => by
          rw [Overlay.readCheck_correct o hm _ _ (by rintro e; exact hn.1 (by rwa [← Nat.add_left_cancel e]))]
          exact hd v (by simp [hv])) post
      refine ⟨u, Overlay.Corrects.cons hm h ?_ h1, h2⟩
      rw [List.mem_map]; rintro ⟨v, hv, e⟩
      exact hn.1 (by rwa [← Nat.add_left_cancel e])
    · rename_i h; exact absurd h (hd w (by simp))

end Sys2Proof.Machine
end

