-- ==== Sys2Proof/Laws/Records.lean ====
section
/-! SUPPORT. The byte forms: numbers, lists and the parts of a layer record read back from the bytes they are
written as, and what passes a field's check lies in the field's range. -/

namespace Sys2Proof.Machine

/-! ## Numbers -/

@[simp] theorem le_length : ∀ k n : Nat, (le k n).length = k
  | 0, _ => rfl
  | k + 1, n => by simp [le, le_length k]

theorem byte_toNat {n : Nat} (h : n < 256) : (byte n).toNat = n := by
  simp [byte, Nat.mod_eq_of_lt h]

theorem fromLe_le : ∀ (k n : Nat), n < 256 ^ k → fromLe (le k n) = n
  | 0, n, h => by simp at h; simp [le, fromLe, h]
  | k + 1, n, h => by
    have : n / 256 < 256 ^ k := by
      rw [Nat.div_lt_iff_lt_mul (by decide)]; rw [Nat.pow_succ] at h; exact h
    simp only [le, fromLe, fromLe_le k _ this, BitVec.toNat_ofNat]
    omega

theorem le_two (n : Nat) : le 2 n = [byte n, byte (n / 256)] := rfl

theorem value16_bytes {n : Nat} (h : n < 65536) : value16 [byte n, byte (n / 256)] = some n := by
  have := fromLe_le 2 n (by simpa using h)
  simpa [value16, le_two] using this

theorem within_some {lo hi x : Nat} {n : Option Nat} (h : within lo hi n = some x) : lo ≤ x ∧ x ≤ hi := by
  unfold within at h
  cases n with
  | none => cases h
  | some y =>
    simp only [Option.bind_some] at h
    split at h
    · cases h; assumption
    · cases h

theorem within_of {lo hi x : Nat} (h1 : lo ≤ x) (h2 : x ≤ hi) : within lo hi (some x) = some x := by
  simp [within, h1, h2]

theorem flagOf_flag (b : Bool) : flagOf (flag b) = some b := by cases b <;> decide

/-! ## Condition and segment lists -/

theorem readTerms_bytes : ∀ (ts : List Term) (rest : List Byte),
    readTerms ts.length (termBytes ts ++ rest) = some (ts, rest)
  | [], rest => rfl
  | t :: ts, rest => by
    have h : signalOf (byte t.signal.val).toNat = some t.signal := by
      rw [byte_toNat (by omega)]; simp [signalOf]
    have ih := readTerms_bytes ts rest
    simp only [termBytes] at ih ⊢
    simp only [List.flatMap_cons, List.length_cons, List.cons_append, List.nil_append, readTerms, h, flagOf_flag, ih]

theorem readTerms_length : ∀ (n : Nat) (bs : List Byte) (ts : List Term) (rest : List Byte),
    readTerms n bs = some (ts, rest) → ts.length = n
  | 0, bs, ts, rest, h => by simp only [readTerms, Option.some.injEq, Prod.mk.injEq] at h; rw [← h.1]; rfl
  | n + 1, [], ts, rest, h => by simp [readTerms] at h
  | n + 1, [_], ts, rest, h => by simp [readTerms] at h
  | n + 1, a :: b :: bs, ts, rest, h => by
    simp only [readTerms] at h
    split at h
    · rename_i g l us r h1 h2 h3
      simp only [Option.some.injEq, Prod.mk.injEq] at h
      rw [← h.1, List.length_cons, readTerms_length n bs us r h3]
    · cases h

theorem readSegments_bytes : ∀ (ss : List Segment) (rest : List Byte),
    (∀ x ∈ ss, x.x0 ≤ 1279 ∧ x.y0 ≤ 719 ∧ x.x1 ≤ 1279 ∧ x.y1 ≤ 719) →
    readSegments ss.length (segmentBytes ss ++ rest) = some (ss, rest)
  | [], rest, _ => rfl
  | g :: ss, rest, h => by
    obtain ⟨h0, h1, h2, h3⟩ := h g (List.mem_cons_self)
    have ih := readSegments_bytes ss rest (fun x hx => h x (List.mem_cons_of_mem _ hx))
    simp only [segmentBytes, le_two, List.cons_append, List.nil_append] at ih ⊢
    simp only [List.flatMap_cons, List.length_cons, List.cons_append, List.nil_append,
      readSegments, value16_bytes (show g.x0 < 65536 by omega), value16_bytes (show g.y0 < 65536 by omega),
      value16_bytes (show g.x1 < 65536 by omega), value16_bytes (show g.y1 < 65536 by omega),
      within_of (Nat.zero_le _) h0, within_of (Nat.zero_le _) h1, within_of (Nat.zero_le _) h2,
      within_of (Nat.zero_le _) h3, ih]

theorem readSegments_inRange : ∀ (n : Nat) (bs : List Byte) (ss : List Segment) (rest : List Byte),
    readSegments n bs = some (ss, rest) →
    ss.length = n ∧ ∀ x ∈ ss, x.x0 ≤ 1279 ∧ x.y0 ≤ 719 ∧ x.x1 ≤ 1279 ∧ x.y1 ≤ 719 := by
  intro n
  induction n with
  | zero =>
    intro bs ss rest h
    simp only [readSegments, Option.some.injEq, Prod.mk.injEq] at h
    rw [← h.1]; simp
  | succ n ih =>
    intro bs ss rest h
    unfold readSegments at h
    split at h
    · rename_i heq; cases heq
    · rename_i m a b c d e f g k tl heq
      cases heq
      split at h
      · rename_i x0 y0 x1 y1 us r h0 h1 h2 h3 h4
        simp only [Option.some.injEq, Prod.mk.injEq] at h
        obtain ⟨hl, hall⟩ := ih _ _ _ h4
        rw [← h.1]
        refine ⟨by rw [List.length_cons, hl], fun x hx => ?_⟩
        rcases List.mem_cons.1 hx with rfl | hx
        · exact ⟨(within_some h0).2, (within_some h1).2, (within_some h2).2, (within_some h3).2⟩
        · exact hall x hx
      · cases h
    · cases h

theorem readCondition_bytes (ts : List Term) (rest : List Byte) (h : ts.length ≤ 4) :
    readCondition (byte ts.length :: (termBytes ts ++ rest)) = some (ts, rest) := by
  simp only [readCondition, byte_toNat (show ts.length < 256 by omega), if_pos h, readTerms_bytes]

theorem readCondition_length {bs rest : List Byte} {ts : List Term} (h : readCondition bs = some (ts, rest)) :
    ts.length ≤ 4 := by
  cases bs with
  | nil => cases h
  | cons n bs =>
    simp only [readCondition] at h
    split at h
    · rw [readTerms_length _ _ _ _ h]; assumption
    · cases h

theorem readSegmentList_bytes (ss : List Segment) (rest : List Byte) (h : ss.length ≤ 6)
    (hr : ∀ x ∈ ss, x.x0 ≤ 1279 ∧ x.y0 ≤ 719 ∧ x.x1 ≤ 1279 ∧ x.y1 ≤ 719) :
    readSegmentList (byte ss.length :: (segmentBytes ss ++ rest)) = some (ss, rest) := by
  simp only [readSegmentList, byte_toNat (show ss.length < 256 by omega), if_pos h, readSegments_bytes ss rest hr]

theorem readSegmentList_inRange {bs rest : List Byte} {ss : List Segment}
    (h : readSegmentList bs = some (ss, rest)) :
    ss.length ≤ 6 ∧ ∀ x ∈ ss, x.x0 ≤ 1279 ∧ x.y0 ≤ 719 ∧ x.x1 ≤ 1279 ∧ x.y1 ≤ 719 := by
  cases bs with
  | nil => cases h
  | cons n bs =>
    simp only [readSegmentList] at h
    split at h
    · obtain ⟨h1, h2⟩ := readSegments_inRange _ _ _ _ h
      exact ⟨by rw [h1]; assumption, h2⟩
    · cases h

theorem whole_some {α : Type} {x : Option (α × List Byte)} {a : α} (h : whole x = some a) : x = some (a, []) := by
  unfold whole at h
  split at h
  · cases h; rfl
  · cases h

/-! ## Kind parts -/

theorem cameraOf_byte (k : Fin 4) : cameraOf (byte k.val).toNat = some k := by
  rw [byte_toNat (by omega)]; simp [cameraOf]

theorem regionOf_byte (g : Fin 16) : regionOf (byte g.val).toNat = some g := by
  rw [byte_toNat (by omega)]; simp [regionOf]

theorem paletteOf_byte (k : Fin 16) : paletteOf (byte k.val).toNat = some k := by
  rw [byte_toNat (by omega)]; simp [paletteOf]

theorem slotOf_byte (i : Fin 24) : slotOf (byte i.val).toNat = some i := by
  rw [byte_toNat (by omega)]; simp [slotOf]

/-! ## Bits -/

theorem bitsToNat_cons (b : Bool) (l : List Bool) :
    bitsToNat (b :: l) = 2 * bitsToNat l + (if b then 1 else 0) := by
  simp [bitsToNat]; omega

/-- Bit `k` of a number written from bits is the `k`-th of them. -/
theorem testBit_bitsToNat : ∀ (l : List Bool) (k : Nat), (bitsToNat l).testBit k = l.getD k false
  | [], k => by simp [bitsToNat]
  | b :: l, 0 => by rw [bitsToNat_cons]; cases b <;> simp [Nat.testBit_zero]
  | b :: l, k + 1 => by
    have : (2 * bitsToNat l + (if b then 1 else 0)) / 2 = bitsToNat l := by split <;> omega
    rw [bitsToNat_cons, Nat.testBit_succ, this, testBit_bitsToNat l k, List.getD_cons_succ]

/-- Bit `k` of a byte written from at most eight bits is the `k`-th of them, and 0 above them. -/
theorem getLsbD_byte_bitsToNat (l : List Bool) (h : l.length ≤ 8) (k : Nat) :
    (byte (bitsToNat l)).getLsbD k = l.getD k false := by
  rw [byte, BitVec.getLsbD_ofNat, testBit_bitsToNat]
  by_cases hk : k < 8
  · simp [hk]
  · simp [hk, List.getD_eq_getElem?_getD, List.getElem?_eq_none (show l.length ≤ k by omega)]

/-- Bit `k` of a number written over bytes, least significant first. -/
theorem getLsbD_le : ∀ (n w k : Nat), k < 8 * w → ((le w n).getD (k / 8) 0#8).getLsbD (k % 8) = n.testBit k
  | n, 0, k, h => by omega
  | n, w + 1, k, h => by
    by_cases hk : k < 8
    · rw [Nat.div_eq_of_lt hk, Nat.mod_eq_of_lt hk, le, List.getD_cons_zero, BitVec.getLsbD_ofNat]
      simp [hk]
    · obtain ⟨m, rfl⟩ : ∃ m, k = m + 8 := ⟨k - 8, by omega⟩
      rw [show (m + 8) / 8 = m / 8 + 1 by omega, show (m + 8) % 8 = m % 8 by omega, le, List.getD_cons_succ,
        getLsbD_le _ w m (by omega), show (256 : Nat) = 2 ^ 8 from rfl, Nat.testBit_div_two_pow, Nat.add_comm]

/-! ## What a reader that answers has read -/

theorem byte_of_toNat {b : Byte} {n : Nat} (h : b.toNat = n) : b = byte n := by
  subst h; simp [byte]

theorem signalOf_some {b : Byte} {g : Fin 18} (h : signalOf b.toNat = some g) : b = byte g.val := by
  unfold signalOf at h
  split at h
  · cases h; exact byte_of_toNat rfl
  · cases h

theorem slotOf_some {b : Byte} {i : Fin 24} (h : slotOf b.toNat = some i) : b = byte i.val := by
  unfold slotOf at h
  split at h
  · cases h; exact byte_of_toNat rfl
  · cases h

theorem cameraOf_some {b : Byte} {k : Fin 4} (h : cameraOf b.toNat = some k) : b = byte k.val := by
  unfold cameraOf at h
  split at h
  · cases h; exact byte_of_toNat rfl
  · cases h

theorem paletteOf_some {b : Byte} {k : Fin 16} (h : paletteOf b.toNat = some k) : b = byte k.val := by
  unfold paletteOf at h
  split at h
  · cases h; exact byte_of_toNat rfl
  · cases h

theorem flagOf_some {b : Byte} {l : Bool} (h : flagOf b = some l) : b = flag l := by
  unfold flagOf at h
  split at h
  · rename_i e; cases h; exact e
  · split at h
    · rename_i e; cases h; exact e
    · cases h

/-- A two-byte value in a range is written as it was read. -/
theorem within16_some {lo hi x : Nat} {a b : Byte} (h : within lo hi (value16 [a, b]) = some x) :
    lo ≤ x ∧ x ≤ hi ∧ [a, b] = le 2 x := by
  obtain ⟨h1, h2⟩ := within_some h
  refine ⟨h1, h2, ?_⟩
  have hx : a.toNat + 256 * b.toNat = x := by
    unfold within at h
    simp only [value16, fromLe, Option.bind_some] at h
    split at h
    · cases h; omega
    · cases h
  have ha := a.isLt
  have hb := b.isLt
  rw [le_two, ← byte_of_toNat (b := b) (n := x / 256) (by omega)]
  congr 1
  apply BitVec.eq_of_toNat_eq
  simp [byte]
  omega

/-- A one-byte value in a range is written as it was read. -/
theorem within8_some {lo hi x : Nat} {a : Byte} (h : within lo hi (some a.toNat) = some x) :
    lo ≤ x ∧ x ≤ hi ∧ a = byte x := by
  obtain ⟨h1, h2⟩ := within_some h
  refine ⟨h1, h2, byte_of_toNat ?_⟩
  unfold within at h
  simp only [Option.bind_some] at h
  split at h
  · exact Option.some.inj h
  · cases h

theorem readTerms_some : ∀ (n : Nat) (bs : List Byte) (ts : List Term) (rest : List Byte),
    readTerms n bs = some (ts, rest) → bs = termBytes ts ++ rest
  | 0, bs, ts, rest, h => by
    simp only [readTerms, Option.some.injEq, Prod.mk.injEq] at h; obtain ⟨rfl, rfl⟩ := h; rfl
  | n + 1, [], ts, rest, h => by simp [readTerms] at h
  | n + 1, [_], ts, rest, h => by simp [readTerms] at h
  | n + 1, a :: b :: bs, ts, rest, h => by
    simp only [readTerms] at h
    split at h
    · rename_i g l us r h1 h2 h3
      simp only [Option.some.injEq, Prod.mk.injEq] at h
      obtain ⟨rfl, rfl⟩ := h
      rw [signalOf_some h1, flagOf_some h2, readTerms_some n bs us r h3]
      rfl
    · cases h

theorem readCondition_some {bs rest : List Byte} {ts : List Term} (h : readCondition bs = some (ts, rest)) :
    ts.length ≤ 4 ∧ bs = byte ts.length :: (termBytes ts ++ rest) := by
  refine ⟨readCondition_length h, ?_⟩
  cases bs with
  | nil => cases h
  | cons n bs =>
    simp only [readCondition] at h
    split at h
    · rw [← readTerms_some _ _ _ _ h, readTerms_length _ _ _ _ h, byte_of_toNat (b := n) rfl]
      simp [byte]
    · cases h

theorem readSegments_some : ∀ (n : Nat) (bs : List Byte) (ss : List Segment) (rest : List Byte),
    readSegments n bs = some (ss, rest) → bs = segmentBytes ss ++ rest := by
  intro n
  induction n with
  | zero =>
    intro bs ss rest h
    simp only [readSegments, Option.some.injEq, Prod.mk.injEq] at h; obtain ⟨rfl, rfl⟩ := h; rfl
  | succ n ih =>
    intro bs ss rest h
    unfold readSegments at h
    split at h
    · rename_i heq; cases heq
    · rename_i m a b c d e f g k tl heq
      cases heq
      split at h
      · rename_i x0 y0 x1 y1 us r h0 h1 h2 h3 h4
        simp only [Option.some.injEq, Prod.mk.injEq] at h
        obtain ⟨rfl, rfl⟩ := h
        have e0 := (within16_some h0).2.2
        have e1 := (within16_some h1).2.2
        have e2 := (within16_some h2).2.2
        have e3 := (within16_some h3).2.2
        rw [ih _ _ _ h4]
        simp only [segmentBytes, List.flatMap_cons, ← e0, ← e1, ← e2, ← e3]
        rfl
      · cases h
    · cases h

theorem readSegmentList_some {bs rest : List Byte} {ss : List Segment} (h : readSegmentList bs = some (ss, rest)) :
    bs = byte ss.length :: (segmentBytes ss ++ rest) := by
  cases bs with
  | nil => cases h
  | cons n bs =>
    simp only [readSegmentList] at h
    split at h
    · rw [← readSegments_some _ _ _ _ h, (readSegments_inRange _ _ _ _ h).1]
      exact congrArg (· :: bs) (byte_of_toNat rfl)
    · cases h

theorem asKind_some {n : Nat} {k : LayerKind} (h : asKind (some n) = some k) : n = k.number := by
  unfold asKind at h
  split at h <;> cases h <;> rename_i e <;> cases e <;> rfl

theorem asBlink_some {n : Nat} {b : Blink} (h : asBlink (some n) = some b) : n = b.number := by
  unfold asBlink at h
  split at h <;> cases h <;> rename_i e <;> cases e <;> rfl

theorem asKind_number (k : LayerKind) : asKind (some k.number) = some k := by cases k <;> rfl
theorem asBlink_number (b : Blink) : asBlink (some b.number) = some b := by cases b <;> rfl

/-- A part of a fitted layer's kinds over its bytes, in its ranges (11.1.4, R188), where `e` is the flags byte of a
camera part. -/
def KindPart.spelledBy (p : KindPart) (e : Byte) (part : List Byte) : Prop :=
  match p with
  | .camera c =>
    c.cropX ≤ 1264 ∧ c.cropY ≤ 944 ∧ 16 ≤ c.cropW ∧ c.cropW ≤ 1280 ∧ 16 ≤ c.cropH ∧ c.cropH ≤ 960
    ∧ e.getLsbD 0 = c.mirror ∧ e.getLsbD 1 = c.markers
    ∧ part = byte c.camera.val :: (le 2 c.cropX ++ le 2 c.cropY ++ le 2 c.cropW ++ le 2 c.cropH ++ [e])
  | .bitmap _ => False
  | .guide g =>
    1 ≤ g.width ∧ g.width ≤ 4 ∧ g.segments.length ≤ 6
    ∧ (∀ x ∈ g.segments, x.x0 ≤ 1279 ∧ x.y0 ≤ 719 ∧ x.x1 ≤ 1279 ∧ x.y1 ≤ 719)
    ∧ part = [byte g.colour.val, byte g.width, byte g.segments.length] ++ segmentBytes g.segments
  | .fill k => part = [byte k.val]

/-- What `readPart` reads, for every kind a fitted layer may have. -/
theorem readPart_iff (k : LayerKind) (bs rest : List Byte) (p : KindPart) (hk : k ≠ .bitmap) :
    readPart k bs = some (p, rest) ↔ p.kind = k ∧ ∃ e part, p.spelledBy e part ∧ bs = part ++ rest := by
  constructor
  · intro h
    unfold readPart at h
    split at h
    · split at h
      · split at h
        · rename_i h0 h1 h2 h3 h4
          simp only [Option.some.injEq, Prod.mk.injEq] at h
          obtain ⟨rfl, rfl⟩ := h
          obtain ⟨_, a1, a2⟩ := within16_some h1
          obtain ⟨_, b1, b2⟩ := within16_some h2
          obtain ⟨c0, c1, c2⟩ := within16_some h3
          obtain ⟨d0, d1, d2⟩ := within16_some h4
          refine ⟨rfl, _, _, ⟨a1, b1, c0, c1, d0, d1, rfl, rfl, rfl⟩, ?_⟩
          rw [cameraOf_some h0]
          simp only [← a2, ← b2, ← c2, ← d2, List.cons_append, List.nil_append]
        · cases h
      · cases h
    · exact absurd rfl hk
    · split at h
      · split at h
        · rename_i h0 h1 h2
          simp only [Option.some.injEq, Prod.mk.injEq] at h
          obtain ⟨rfl, rfl⟩ := h
          obtain ⟨a0, a1, a2⟩ := within8_some h1
          obtain ⟨b0, b1⟩ := readSegmentList_inRange h2
          refine ⟨rfl, 0#8, _, ⟨a0, a1, b0, b1, rfl⟩, ?_⟩
          rw [paletteOf_some h0, a2, readSegmentList_some h2]
          rfl
        · cases h
      · cases h
    · split at h
      · split at h
        · rename_i h0
          simp only [Option.some.injEq, Prod.mk.injEq] at h
          obtain ⟨rfl, rfl⟩ := h
          refine ⟨rfl, 0#8, _, rfl, ?_⟩
          rw [paletteOf_some h0]; rfl
        · cases h
      · cases h
  · rintro ⟨rfl, e, part, h, rfl⟩
    cases p with
    | camera c =>
      obtain ⟨a1, a2, a3, a4, a5, a6, a7, a8, rfl⟩ := h
      simp only [KindPart.kind, le_two, List.cons_append, List.nil_append, readPart, cameraOf_byte,
        value16_bytes (show c.cropX < 65536 by omega), value16_bytes (show c.cropY < 65536 by omega),
        value16_bytes (show c.cropW < 65536 by omega), value16_bytes (show c.cropH < 65536 by omega),
        within_of (Nat.zero_le _) a1, within_of (Nat.zero_le _) a2, within_of a3 a4, within_of a5 a6, bit, a7, a8]
    | bitmap b => exact h.elim
    | guide g =>
      obtain ⟨a1, a2, a3, a4, rfl⟩ := h
      simp only [KindPart.kind, List.cons_append, List.nil_append, readPart, paletteOf_byte,
        byte_toNat (show g.width < 256 by omega), within_of a1 a2, readSegmentList_bytes g.segments rest a3 a4]
    | fill c =>
      cases h
      simp only [KindPart.kind, List.cons_append, List.nil_append, readPart, paletteOf_byte]

/-- A record of a fitted layer's kinds over its bytes, in its ranges (11.1.4, R188): `a` is the byte of its flags and
enumerated fields, whose bit 7 is marked 0 and so ignored (R185). -/
def LayerRecord.spelledBy (r : LayerRecord) (bytes : List Byte) : Prop :=
  ∃ (a e : Byte) (part : List Byte),
    a.getLsbD 0 = r.enabled ∧ a.getLsbD 1 = decide (r.cls = .safety) ∧ a.toNat / 4 % 4 = r.part.kind.number
    ∧ a.toNat / 16 % 4 = r.blink.number ∧ a.getLsbD 6 = r.record
    ∧ r.z ≤ 23 ∧ r.destX ≤ 1272 ∧ r.destY ≤ 712 ∧ 8 ≤ r.destW ∧ r.destW ≤ 1280 ∧ 8 ≤ r.destH ∧ r.destH ≤ 720
    ∧ r.alpha ≤ 15 ∧ r.condition.length ≤ 4 ∧ r.part.spelledBy e part
    ∧ bytes = a :: byte r.z :: (le 2 r.destX ++ le 2 r.destY ++ le 2 r.destW ++ le 2 r.destH
      ++ [byte r.alpha, byte r.condition.length] ++ termBytes r.condition ++ part)

/-- What `readRecord` reads, for every kind a fitted layer may have. -/
theorem readRecord_iff (bs rest : List Byte) (r : LayerRecord) :
    readRecord bs = some (r, rest) ∧ r.part.kind ≠ .bitmap ↔ ∃ c, r.spelledBy c ∧ bs = c ++ rest := by
  constructor
  · rintro ⟨h, hk⟩
    unfold readRecord at h
    split at h
    · split at h
      · rename_i rest0 k bl z x y w hh al ts rest1 h0 h1 h2 h3 h4 h5 h6 h7 h8
        split at h
        · rename_i part rest2 h9
          simp only [Option.some.injEq, Prod.mk.injEq] at h
          obtain ⟨rfl, rfl⟩ := h
          have hk' : k ≠ .bitmap := by
            rintro rfl
            apply hk
            unfold readPart at h9
            dsimp only at h9
            split at h9
            · split at h9
              · simp only [Option.some.injEq, Prod.mk.injEq] at h9
                obtain ⟨rfl, -⟩ := h9; rfl
              · cases h9
            · cases h9
          obtain ⟨rfl, e, pb, p1, rfl⟩ := (readPart_iff k _ _ _ hk').1 h9
          obtain ⟨_, a1, a2⟩ := within8_some h2
          obtain ⟨_, b1, b2⟩ := within16_some h3
          obtain ⟨_, c1, c2⟩ := within16_some h4
          obtain ⟨d0, d1, d2⟩ := within16_some h5
          obtain ⟨e0, e1, e2⟩ := within16_some h6
          obtain ⟨_, f1, f2⟩ := within8_some h7
          obtain ⟨g1, g2⟩ := readCondition_some h8
          refine ⟨_, ⟨_, e, pb, rfl, ?_, asKind_some h0, asBlink_some h1, rfl, a1, b1, c1, d0, d1, e0, e1, f1, g1,
            p1, rfl⟩, ?_⟩
          · exact (show ∀ b : Bool, b = decide ((if b then LayerClass.safety else LayerClass.ordinary) = .safety) by
              decide) _
          · rw [a2, f2, g2]
            simp only [← b2, ← c2, ← d2, ← e2, List.cons_append, List.nil_append, List.append_assoc]
        · cases h
      · cases h
    · cases h
  · rintro ⟨c, ⟨a, e, pb, h0, h1, h2, h3, h4, a1, b1, c1, d0, d1, e0, e1, f1, g1, p1, rfl⟩, rfl⟩
    have hk : r.part.kind ≠ .bitmap := by
      intro hk
      cases hp : r.part with
      | bitmap b => rw [hp] at p1; exact p1
      | _ => rw [hp] at hk; cases hk
    refine ⟨?_, hk⟩
    have hc := readCondition_bytes r.condition (pb ++ rest) g1
    have hp := (readPart_iff r.part.kind (pb ++ rest) rest r.part hk).2 ⟨rfl, e, pb, p1, rfl⟩
    simp only [le_two, List.cons_append, List.nil_append, List.append_assoc, readRecord, h2, h3,
      asKind_number, asBlink_number, byte_toNat (show r.z < 256 by omega), byte_toNat (show r.alpha < 256 by omega),
      value16_bytes (show r.destX < 65536 by omega), value16_bytes (show r.destY < 65536 by omega),
      value16_bytes (show r.destW < 65536 by omega), value16_bytes (show r.destH < 65536 by omega),
      within_of (Nat.zero_le _) a1, within_of (Nat.zero_le _) b1, within_of (Nat.zero_le _) c1,
      within_of d0 d1, within_of e0 e1, within_of (Nat.zero_le _) f1, hc, hp, bit, h0, h1, h4]
    cases r with
    | mk en cls z x y w h al ts bl rc part => cases cls <;> rfl


/-- A fitted layer over its bytes: the slot, then its record (11.1.6). -/
def FittedLayer.spelledBy (l : FittedLayer) (c : List Byte) : Prop :=
  ∃ t, l.record.spelledBy t ∧ c = byte l.slot.val :: t

/-- What `readLayers` reads: as many layers as are counted, one after another, and nothing more. -/
theorem readLayers_iff : ∀ (n : Nat) (bs : List Byte) (ls : List FittedLayer),
    readLayers n bs = some ls ↔ ls.length = n ∧ ∃ chunks : List (List Byte), bs = chunks.flatten
      ∧ List.Forall₂ (fun c l => l.spelledBy c) chunks ls
  | 0, bs, ls => by
    constructor
    · intro h
      cases bs with
      | nil => simp only [readLayers, Option.some.injEq] at h; subst h; exact ⟨rfl, [], rfl, .nil⟩
      | cons b bs => cases h
    · rintro ⟨h, chunks, rfl, h2⟩
      cases ls with
      | nil => cases h2; rfl
      | cons l ls => cases h
  | n + 1, bs, ls => by
    constructor
    · intro h
      cases bs with
      | nil => cases h
      | cons b bs =>
        simp only [readLayers] at h
        split at h
        · rename_i i r rest h1 h2
          split at h
          · cases h
          · rename_i hk
            simp only [Option.map_eq_some_iff] at h
            obtain ⟨us, hu, rfl⟩ := h
            obtain ⟨rfl, chunks, rfl, hf⟩ := (readLayers_iff n _ us).1 hu
            obtain ⟨c, hc, rfl⟩ := (readRecord_iff _ _ _).1 ⟨h2, hk⟩
            refine ⟨rfl, (b :: c) :: chunks, by simp, .cons ⟨c, hc, by rw [slotOf_some h1]⟩ hf⟩
        · cases h
    · rintro ⟨h, chunks, rfl, h2⟩
      cases h2 with
      | nil => cases h
      | cons h1 h2 =>
        rename_i c l cs ls
        obtain ⟨t, ht, rfl⟩ := h1
        obtain ⟨h3, h4⟩ := (readRecord_iff (t ++ cs.flatten) cs.flatten l.record).2 ⟨t, ht, rfl⟩
        have h5 := (readLayers_iff n cs.flatten ls).2 ⟨by simpa using h, cs, rfl, h2⟩
        simp only [List.flatten_cons, List.cons_append, readLayers, slotOf_byte, h3, h4, h5, if_false,
          Option.map_some]

/-! ## The pairs of an EDIT -/

/-- What `stepPairs` steps over: as many pairs as are counted, each an id, a length and that many value bytes. -/
theorem stepPairs_iff : ∀ (n : Nat) (bs rest : List Byte) (ps : List EditPair),
    stepPairs n bs = some (ps, rest) ↔ ps.length = n ∧ (∀ z ∈ ps, z.value.length ≤ 255)
      ∧ bs = ps.flatMap (fun z => [z.id, byte z.value.length] ++ z.value) ++ rest
  | 0, bs, rest, ps => by
    simp only [stepPairs, Option.some.injEq, Prod.mk.injEq, List.length_eq_zero_iff]
    constructor
    · rintro ⟨rfl, rfl⟩; simp
    · rintro ⟨rfl, -, rfl⟩; simp
  | n + 1, bs, rest, ps => by
    constructor
    · intro h
      match bs, h with
      | id :: len :: bs, h =>
        simp only [stepPairs] at h
        split at h
        · cases h
        · rename_i hlen
          split at h
          · rename_i us r hu
            simp only [Option.some.injEq, Prod.mk.injEq] at h
            obtain ⟨rfl, rfl⟩ := h
            obtain ⟨h1, h2, h3⟩ := (stepPairs_iff n _ _ us).1 hu
            simp only [List.cons_append, List.nil_append] at h3
            have ht : (bs.take len.toNat).length = len.toNat := by rw [List.length_take]; omega
            have hl := len.isLt
            refine ⟨by rw [List.length_cons, h1], fun z hz => ?_, ?_⟩
            · rcases List.mem_cons.1 hz with rfl | hz
              · dsimp only; omega
              · exact h2 z hz
            · simp only [List.flatMap_cons, List.cons_append, List.nil_append, List.append_assoc, ht, ← h3,
                List.take_append_drop, ← byte_of_toNat (b := len) rfl]
          · cases h
    · rintro ⟨h1, h2, rfl⟩
      match ps, h1 with
      | z :: ps, h1 =>
        have hz : (byte z.value.length).toNat = z.value.length :=
          byte_toNat (by have := h2 z List.mem_cons_self; omega)
        have ih := (stepPairs_iff n (ps.flatMap (fun z => [z.id, byte z.value.length] ++ z.value) ++ rest) rest ps).2
          ⟨by simpa using h1, fun y hy => h2 y (List.mem_cons_of_mem _ hy), rfl⟩
        simp only [List.cons_append, List.nil_append] at ih
        simp only [List.flatMap_cons, List.cons_append, List.nil_append, List.append_assoc, stepPairs, hz]
        rw [if_neg (by simp), List.drop_left, List.take_left, ih]

/-- What `editPairs` reads: the counted pairs, and nothing more (R185, 11.1.2). -/
theorem editPairs_iff (count : Byte) (bs : List Byte) (ps : List EditPair) :
    editPairs count bs = some ps ↔ ps.length = count.toNat ∧ (∀ z ∈ ps, z.value.length ≤ 255)
      ∧ bs = ps.flatMap (fun z => [z.id, byte z.value.length] ++ z.value) := by
  have h := stepPairs_iff count.toNat bs [] ps
  rw [List.append_nil] at h
  rw [← h]
  unfold editPairs
  split
  · rename_i qs hq; simp [hq]
  · rename_i hne
    constructor
    · intro h; cases h
    · intro h; exact absurd h (hne ps)

end Sys2Proof.Machine
end

