-- ==== Sys2Proof/Tests/Slice0.lean ====
section
/-! SUPPORT. Tests on small states: the check on commands, the check sums, the specification's worked figures,
and for every statement a state and operands that meet its hypotheses. -/

namespace Sys2Proof.Machine

set_option Elab.async false

/-! ## Helpers -/

/-- The part in RUN with RESET high, the timebase at line 100 and every camera STARTING. -/
def testRun : State :=
  { State.reset with
    pins := ⟨false, 0#2, false⟩
    stc := ⟨.run, none, false⟩
    ftb := { Timebase.atReset with run := .running, line := 100, frame := 7#16 }
    cmp := { Composer.atReset with output := .picture, recorder := .send }
    cams := { Cameras.atReset 0#2 with
      links := Vector.replicate 4 { CameraLink.atReset true with link := .starting, power := true } } }

/-- The part in QUIET. -/
def testQuiet : State :=
  { testRun with
    stc := ⟨.quiet, none, false⟩
    cams := { testRun.cams with links := Vector.replicate 4 { CameraLink.atReset true with power := true } } }

/-- The part in DORMANT. -/
def testDormant : State :=
  { testRun with
    stc := ⟨.dormant, none, false⟩
    ftb := Timebase.atReset
    cmp := Composer.atReset
    cams := Cameras.atReset 0#2 }

/-- In BOOT with RESET high. -/
def testBoot : State := { State.reset with pins := ⟨false, 0#2, false⟩ }

/-- The request of a kind with a payload, tag 5. -/
def ask (kind : RequestKind) (payload : List Byte) : Request := ⟨kind.code, 5#4, payload⟩

/-- The state with that request alone in a port's queue. -/
def asked (s : State) (p : Port) (kind : RequestKind) (payload : List Byte) : State :=
  s.modPort p (fun q => { q with requests := [ask kind payload] })

/-- The last reply a port has queued, when a command answers a next state. -/
def lastReply (o : Outcome) (p : Port) : Option Reply :=
  match o with
  | .next t => (t.ports.get p).replies.getLast?.map Stamped.item
  | _ => none

/-- A command answers a next state that passes a test. -/
def next (o : Outcome) (test : State → Bool) : Bool :=
  match o with
  | .next t => test t
  | _ => false

/-- A command answers a next state, and the port's last reply there has this result, field id and values. -/
def replies (o : Outcome) (p : Port) (result : ResultCode) (field : Byte) (values : List Byte) : Bool :=
  decide ((lastReply o p).map (fun r => (r.result, r.field, r.values)) = some (result, field, values))

/-- The alert codes queued at a port. -/
def alertCodes (s : State) (p : Port) : List AlertCode := (s.ports.get p).alerts.map (fun a => a.item.code)

/-- The state with one slot written. -/
def withSlot (s : State) (i : Fin 24) (x : LayerSlot) : State := s.setSlot i x

/-- A filled, enabled layer at a height. -/
def fillAt (z : Nat) : LayerRecord := { LayerRecord.empty with enabled := true, z := z }

/-- A slot of an owner with one record in both copies. -/
def slotOfOwner (o : Owner) (r : LayerRecord) : LayerSlot := ⟨o, .clean, r, r, .none⟩

/-- No upsets, REC_HOLD deasserted. -/
def calm : Surroundings := ⟨false, []⟩

/-- Every choice taken the first way. -/
def firstOrder : LineOrder := ⟨false, false, false, false⟩

/-! ## The check on commands (WellFormed) -/

theorem test_wellFormed_rejects_missing_word :
    Instr.wellFormed (.verificationEnd [⟨32768, .single⟩]) = false
    ∧ Instr.wellFormed (.lineEnd ⟨false, [⟨40000, .double⟩]⟩ firstOrder) = false
    ∧ Instr.wellFormed (.verificationEnd [⟨32767, .single⟩]) = true := by decide +kernel

theorem test_wellFormed_rejects_word_named_twice :
    Instr.wellFormed (.wakeIn ⟨⟨false, [⟨3, .single⟩, ⟨3, .double⟩]⟩, []⟩) = false
    ∧ Instr.wellFormed (.bootEnd ⟨false, [⟨3, .single⟩, ⟨3, .single⟩]⟩) = false
    ∧ Instr.wellFormed (.wake .body ⟨⟨false, [⟨1, .single⟩, ⟨1, .single⟩]⟩, []⟩ true) = false
    ∧ Instr.wellFormed (.wakeIn ⟨⟨false, [⟨3, .single⟩, ⟨4, .double⟩]⟩, [.rawChange 0 true]⟩) = true := by decide +kernel

/-! ## Words and step -/

theorem test_no_word_spells_a_command : decodeTableWord 8 0x20 = none ∧ State.reset.withFetchWord 8 0x20 = State.reset := by
  exact ⟨rfl, rfl⟩

theorem test_step_on_empty_queue_ticks :
    next (step testRun) (fun t => decide (t.scn.inputs[(0 : Fin 8)].timer = some 49)) = true := by decide +kernel

/-- Timers of every kind with a number of milliseconds left. -/
def timersAt (a : Nat) : State :=
  { testRun with
    scn := { testRun.scn.setInput 3 ⟨true, false, true, .activeHigh, 50, false, some a⟩ with stale := false, age := some a }
    cams := (testRun.setLink 3 { testRun.cams.links[(3 : Fin 4)] with power := false, powerOff := some a }).cams
    fst := ⟨.spoiled, .none, some ⟨.body, 4#4, true, [1#8], 2, a⟩⟩ }

theorem test_tick_expires_timers :
    next (step (timersAt 1)) (fun t => decide (t.scn.inputs[(3 : Fin 8)] = ⟨true, true, true, .activeHigh, 50, false, none⟩
      ∧ t.scn.stale = true ∧ t.scn.age = none ∧ t.cams.links[(3 : Fin 4)].powerOff = none
      ∧ t.cams.links[(3 : Fin 4)].power = true ∧ t.fst = ⟨.spoiled, .none, none⟩)) = true
    ∧ next (step (timersAt 2)) (fun t => decide (t.scn.inputs[(3 : Fin 8)].timer = some 1 ∧ t.scn.age = some 1
      ∧ t.cams.links[(3 : Fin 4)].powerOff = some 1 ∧ t.fst.store.map StoreInFlight.timer = some 1
      ∧ t.ports = (timersAt 2).ports)) = true
    ∧ next (step State.reset) (fun t => decide (t = State.reset)) = true := by decide +kernel

theorem test_step_takes_first_command :
    next (step { testRun with pending := [.dsync, .bootStart] }) (fun t => decide (t.pending = [.bootStart])) = true := by
  decide +kernel

/-! ## Check sums: the digits 1 to 9 -/

/-- The bytes of the characters 1 to 9. -/
def digits : List Byte := [0x31#8, 0x32#8, 0x33#8, 0x34#8, 0x35#8, 0x36#8, 0x37#8, 0x38#8, 0x39#8]

theorem test_crc16_of_digits : crc16 digits = 0x29B1#16 := by decide +kernel
theorem test_crc32_of_digits : crc32 digits = 0xCBF43926#32 := by decide +kernel

/-! ## Worked figures of the specification -/

/-- The camera part of section 6.6.1. -/
def markerCamera : CameraPart := ⟨3, 0, 240, 1280, 720, true, true⟩

/-- The layer of section 6.6.1. -/
def markerLayer : LayerRecord :=
  { LayerRecord.empty with destX := 640, destY := 360, destW := 640, destH := 360, part := .camera markerCamera }

theorem test_marker_boxes_of_6_6_1 :
    (⟨90, 3, 200, 500, 160, 300, .pedestrian, 100, 10, 0, true⟩ : Marker).mapped markerLayer markerCamera
      = ⟨1100, 1180, 490, 640⟩
    ∧ (⟨22, 3, 600, 100, 100, 200, .pedestrian, 100, 10, 0, true⟩ : Marker).mapped markerLayer markerCamera
      = ⟨930, 980, 360, 390⟩ := by decide +kernel

theorem test_slips_of_3_6 :
    ({ Timebase.atReset with line := 311 } : Timebase).slip = 312
    ∧ ({ Timebase.atReset with line := 749 } : Timebase).slip = 0
    ∧ ({ Timebase.atReset with line := 374 } : Timebase).slip = 375 := by decide +kernel

/-- The visible layers of section 8.6 in frame 6016: L0, L1, L2, L5, L8, ... by height and class. -/
def overflowEntries : List PlanEntry :=
  [(0, 0), (1, 1), (2, 2), (5, 3), (8, 6), (9, 7), (12, 8), (14, 10), (15, 11), (16, 12), (17, 13), (20, 20),
    (21, 21), (22, 22)].map (fun x : Fin 24 × Nat =>
      ⟨x.1, { fillAt x.2 with cls := if 20 ≤ x.2 then .safety else .ordinary }, .port .body, .none⟩)

theorem test_plan_overflow_of_8_6 :
    (keptEntries overflowEntries).map PlanEntry.slot = [2, 5, 8, 9, 12, 14, 15, 16, 17, 20, 21, 22] := by decide +kernel

theorem test_blink_phases_of_8_6 :
    Blink.phaseOn .slow 6015#16 = false ∧ Blink.phaseOn .slow 6016#16 = true
    ∧ Blink.phaseOn .fast 3#16 = true ∧ Blink.phaseOn .fast 4#16 = false := by decide +kernel

theorem test_guide_covers_a_straight_segment :
    (⟨15, 2, [⟨0, 0, 4, 0⟩]⟩ : GuidePart).covers 4 1 = true
    ∧ (⟨15, 2, [⟨0, 0, 4, 0⟩]⟩ : GuidePart).covers 6 0 = false
    ∧ (⟨15, 1, [⟨0, 0, 3, 1⟩]⟩ : GuidePart).covers 2 1 = true := by decide +kernel

/-! ## Every request kind reaches its block somewhere -/

/-- A state, a kind, a port and a payload with which the kind passes the executor. -/
structure Row where
  state : State
  kind : RequestKind
  port : Port
  payload : List Byte

/-- Ports, reading, and the Layer Table. -/
def rowsA : List Row :=
  [⟨testRun, .identify, .cab, []⟩, ⟨testRun, .resetPort, .cab, []⟩, ⟨testRun, .subscribe, .cab, [1#8, 0#8, 1#8, 0#8]⟩,
   ⟨testRun, .readLayer, .cab, [23#8]⟩, ⟨testRun, .readSignals, .cab, []⟩, ⟨testRun, .readMarkers, .cab, []⟩,
   ⟨testRun, .readRegions, .cab, []⟩, ⟨testRun, .cameraStatus, .cab, []⟩, ⟨testRun, .claim, .cab, [0#8]⟩,
   ⟨testRun, .release, .cab, [23#8]⟩, ⟨testRun, .edit, .cab, [0#8, 1#8, 0x04#8, 1#8, 23#8]⟩,
   ⟨testRun, .discard, .cab, []⟩, ⟨testRun, .commit, .cab, []⟩, ⟨testRun, .seize, .body, [23#8]⟩,
   ⟨testRun, .force, .body, [0#8, 2#8]⟩]

/-- Overlay Memory, the timebase and the cameras. -/
def rowsB : List Row :=
  [⟨testRun, .alloc, .cab, [64#8]⟩, ⟨testRun, .free, .cab, [15#8]⟩,
   ⟨testRun, .openLoad, .cab, 15#8 :: (le 4 1 ++ le 4 0)⟩, ⟨testRun, .loadData, .cab, [0#8, 1#8]⟩,
   ⟨testRun, .abortLoad, .cab, []⟩, ⟨testRun, .eccClear, .body, []⟩, ⟨testRun, .setPeriod, .cab, le 2 1023⟩,
   ⟨testRun, .setCommitLine, .cab, le 2 720⟩, ⟨testRun, .setStrobe, .body, 3#8 :: le 2 0⟩,
   ⟨testRun, .setGenlock, .cab, 1#8 :: le 2 749⟩, ⟨testRun, .resync, .cab, []⟩,
   ⟨testRun, .cameraRestart, .cab, [3#8]⟩]

/-- Signals, markers, the Composer, the State Controller and the Fitting Store. -/
def rowsC : List Row :=
  [⟨testRun, .setInput, .body, [7#8, 1#8, 250#8, 1#8]⟩, ⟨testRun, .speed, .body, le 2 1500⟩,
   ⟨testRun, .setSpeedBands, .body, le 2 1499 ++ le 2 1500⟩, ⟨testRun, .setVirtual, .detect, [1#8, 13#8, 1#8]⟩,
   ⟨testRun, .mark, .detect, 1#8 :: List.replicate 15 1#8⟩, ⟨testRun, .unmark, .detect, le 2 255⟩,
   ⟨testRun, .clearMarks, .detect, []⟩, ⟨testRun, .setNear, .body, le 2 2000⟩,
   ⟨testRun, .setPalette, .body, 16#8 :: List.replicate 48 9#8⟩, ⟨testRun, .run, .detect, []⟩,
   ⟨testRun, .quiet, .cab, []⟩, ⟨testQuiet, .dormant, .body, []⟩, ⟨testDormant, .wake, .detect, []⟩,
   ⟨testQuiet, .storeFitting, .body, []⟩]

theorem test_every_kind_reaches_its_block :
    (∀ x ∈ rowsA ++ rowsB ++ rowsC, (asked x.state x.port x.kind x.payload).Reaches x.port x.kind (ask x.kind x.payload))
    ∧ (rowsA ++ rowsB ++ rowsC).map Row.kind = RequestKind.all := by decide +kernel

/-- The request reaches its block, and the command answers it so. -/
def tried (c : Instr) (s : State) (p : Port) (kind : RequestKind) (payload : List Byte) (result : ResultCode)
    (field : Byte) (values : List Byte) : Bool :=
  decide ((asked s p kind payload).Reaches p kind (ask kind payload))
  && replies (exec c (asked s p kind payload)) p result field values

/-- The request reaches its block, and the command answers a next state that passes a test. -/
def done (c : Instr) (s : State) (p : Port) (kind : RequestKind) (payload : List Byte) (test : State → Bool) : Bool :=
  decide ((asked s p kind payload).Reaches p kind (ask kind payload)) && next (exec c (asked s p kind payload)) test

/-! ## The executor and the ports -/

/-- Eight replies queued at CAB, and one request of a kind. -/
def fullCab (kind : RequestKind) : State :=
  (asked testRun .cab kind []).modPort .cab
    (fun q => { q with replies := List.replicate 8 ⟨0, ⟨0#4, 0x01#8, .done, 0#8, []⟩⟩ })

theorem test_executor_checks :
    (asked testRun .cab .mark []).Takes .cab (ask .mark [])
    ∧ replies (exec (.mark .cab) (asked testRun .cab .mark [])) .cab .rankRefused 0xFE#8 [] = true
    ∧ (asked testBoot .body .claim [0#8]).Takes .body (ask .claim [0#8])
    ∧ replies (exec (.claim .body) (asked testBoot .body .claim [0#8])) .body .wrongState 0#8 [] = true
    ∧ (asked testRun .body .claim []).Takes .body (ask .claim [])
    ∧ replies (exec (.claim .body) (asked testRun .body .claim [])) .body .badField 0xFF#8 [] = true := by
  decide +kernel

theorem test_unknown_kind :
    (testRun.modPort .cab (fun q => { q with requests := [⟨0x05#8, 5#4, []⟩] })).Takes .cab ⟨0x05#8, 5#4, []⟩
    ∧ RequestKind.ofCode 0x05#8 = none
    ∧ replies (exec (.unknownKind .cab)
        (testRun.modPort .cab (fun q => { q with requests := [⟨0x05#8, 5#4, []⟩] }))) .cab .unknownKind 0#8 [] = true := by
  decide +kernel

theorem test_executor_waits :
    (fullCab .commit).placesInUse .cab = 8 ∧ next (exec (.commit .cab) (fullCab .commit)) (fun t => decide (t = fullCab .commit)) = true
    ∧ ((fullCab .commit).ports.get .cab).requests.head? = some (ask .commit [])
    ∧ next (exec (.claim .cab) (asked testRun .cab .commit [])) (fun t =>
        decide (t = asked testRun .cab .commit [])) = true
    ∧ next (exec (.unknownKind .cab) (fullCab .commit)) (fun t => decide (t = fullCab .commit)) = true := by
  decide +kernel

theorem test_reset_port_needs_no_place :
    ((fullCab .resetPort).ports.get .cab).requests.head? = some (ask .resetPort [])
    ∧ (fullCab .resetPort).pins.resetLow = false
    ∧ next (exec (.resetPort .cab) (fullCab .resetPort)) (fun t =>
        decide (((t.ports.get .cab).replies.map (fun r => r.item.result)) = [.done])
        && decide ((t.ports.get .cab).requests = [])) = true := by decide +kernel

/-- A request frame's bytes followed by fill. -/
def sent (r : Request) : List Byte := r.frame ++ List.replicate 8 0#8

/-- A port with a transaction that offers nothing under way. -/
def selected : State :=
  testRun.modPort .cab (fun q => { q with transaction := some ⟨⟨4, 0, 0, false, false, false, 0⟩, none, []⟩ })

/-- A port with four requests queued and a transaction under way. -/
def selectedFull : State :=
  selected.modPort .cab (fun q => { q with requests := List.replicate 4 (ask .commit []) })

/-- A port with eight replies queued and a transaction under way. -/
def selectedNoPlace : State :=
  selected.modPort .cab (fun q => { q with replies := List.replicate 8 ⟨0, ⟨0#4, 0x01#8, .done, 0#8, []⟩⟩ })

/-- A queued reply and a queued alert, with their stamps. -/
def queued (reply alert : Nat) (code : AlertCode) : State :=
  testRun.modPort .cab (fun q => { q with
    replies := [⟨reply, ⟨3#4, 0x24#8, .done, 0#8, []⟩⟩]
    alerts := [⟨alert, ⟨code, 1, 0, 9#16, 1⟩⟩] })

theorem test_transaction_start :
    testRun.pins.resetLow = false ∧ (testRun.ports.get .cab).transaction = none
    ∧ next (exec (.transactionStart .cab) testRun) (fun t =>
        decide ((t.ports.get .cab).transaction.map Transaction.offer = some none)) = true
    ∧ next (exec (.transactionStart .cab) (queued 1 2 .cameraLost)) (fun t =>
        decide ((t.ports.get .cab).transaction.map Transaction.offer = some (some (.alert 2)))) = true
    ∧ next (exec (.transactionStart .cab) (queued 1 2 .cameraBack)) (fun t =>
        decide ((t.ports.get .cab).transaction.map Transaction.offer = some (some (.reply 1)))) = true
    ∧ next (exec (.transactionStart .cab) (queued 2 1 .cameraBack)) (fun t =>
        decide ((t.ports.get .cab).transaction.map Transaction.record
          = some [0x02#8, 0x11#8, 1#8, 0#8, 1#8, 0#8, 9#8, 0#8, 1#8])) = true := by decide +kernel

/-- CAB with alerts of three subjects queued: an S class one, then two of class C. -/
def alerted : State :=
  testRun.modPort .cab (fun q => { q with
    alerts := [⟨0, ⟨.cameraLost, 1, 0, 7#16, 255⟩⟩, ⟨1, ⟨.cameraBack, 1, 0, 7#16, 1⟩⟩, ⟨2, ⟨.cameraBack, 2, 0, 7#16, 1⟩⟩]
    nextStamp := 3 })

/-- The stamps and repeat counts of CAB's alerts. -/
def stampsAndCounts (s : State) : List (Nat × Nat) := (s.ports.get .cab).alerts.map (fun a => (a.stamp, a.item.count))

theorem test_alert_joins_its_queue :
    stampsAndCounts (alerted.raiseTo .cab .cameraBack 1 0) = [(0, 255), (1, 2), (2, 1)]
    ∧ stampsAndCounts (alerted.raiseTo .cab .cameraLost 1 0) = [(0, 255), (1, 1), (2, 1)]
    ∧ stampsAndCounts (alerted.raiseTo .cab .cameraLost 2 0) = [(0, 255), (3, 1), (1, 1), (2, 1)]
    ∧ stampsAndCounts (alerted.raiseTo .cab .planOverflow 0 0) = [(0, 255), (1, 1), (2, 1), (3, 1)]
    ∧ next (exec (.transactionStart .cab) alerted) (fun t =>
        decide (stampsAndCounts (t.raiseTo .cab .cameraLost 1 0) = [(0, 255), (3, 1), (1, 1), (2, 1)])) = true := by
  decide +kernel

theorem test_alert_is_dropped_or_not_routed :
    (((alerted.modPort .cab (fun q => { q with alerts := List.replicate 8 ⟨0, ⟨.cameraLost, 1, 0, 7#16, 1⟩⟩ })).raiseTo .cab
      .speedStale 17 0).ports.get .cab).alertsLost = true
    ∧ decide ((alerted.modPort .cab (fun q => { q with subscription := ⟨false, false, false, false⟩ })).raiseTo .cab
        .cameraBack 1 0 = alerted.modPort .cab (fun q => { q with subscription := ⟨false, false, false, false⟩ })) = true := by
  decide +kernel

theorem test_transaction_clocks_out_fill :
    next (exec (.transactionEnd .cab [0x24#8, 5#8, 0#8, 0#8, 0#8]) selected) (fun t =>
      decide ((t.ports.get .cab).clockedOut = [4#8, 0#8, 0#8, 0#8, 0#8])) = true
    ∧ next (exec (.transactionStart .cab) (queued 1 2 .cameraLost)) (fun t =>
        next (exec (.transactionEnd .cab (⟨0x02#8, 0#4, []⟩ : Request).frame) t) (fun u =>
          decide ((u.ports.get .cab).clockedOut = [20#8, 1#8, 9#8, 0#8, 2#8, 1#8]))) = true
    ∧ next (exec (.transactionStart .cab) (queued 1 2 .cameraLost)) (fun t =>
        next (exec (.transactionEnd .cab (sent ⟨0x02#8, 0#4, []⟩)) t) (fun u =>
          decide ((u.ports.get .cab).alerts = [] ∧ (u.ports.get .cab).replies.length = 1
            ∧ (u.ports.get .cab).clockedOut.length = 14 ∧ (u.ports.get .cab).clockedOut.getD 13 1#8 = 0#8))) = true := by
  decide +kernel

theorem test_transaction_ends_early :
    (selected.ports.get .cab).transaction = some ⟨⟨4, 0, 0, false, false, false, 0⟩, none, []⟩
    ∧ next (exec (.transactionEnd .cab [0x02#8, 0#8, 0#8]) selected) (fun t => (t.ports.get .cab).short) = true
    ∧ next (exec (.transactionEnd .cab [0x02#8, 0#8, 0#8, 0#8, 0#8]) selected) (fun t =>
        (t.ports.get .cab).short) = true
    ∧ next (exec (.transactionStart .cab) (queued 1 2 .cameraLost)) (fun t =>
        next (exec (.transactionEnd .cab (⟨0x02#8, 0#4, []⟩ : Request).frame) t) (fun u =>
          (u.ports.get .cab).short && decide ((u.ports.get .cab).alerts.length = 1))) = true := by decide +kernel

theorem test_transaction_takes_frame :
    next (exec (.transactionEnd .cab (sent (ask .commit []))) selected) (fun t =>
        decide ((t.ports.get .cab).requests = [ask .commit []])) = true
    ∧ next (exec (.transactionEnd .cab (sent ⟨0x02#8, 5#4, []⟩)) selected) (fun t =>
        decide ((t.ports.get .cab).requests = [] ∧ (t.ports.get .cab).replies = [])) = true
    ∧ next (exec (.transactionEnd .cab (sent (ask .commit []))) selectedFull) (fun t =>
        (t.ports.get .cab).overrun && decide ((t.ports.get .cab).requests.length = 4)) = true := by decide +kernel

theorem test_transaction_bad_check :
    frameChecks [0x24#8, 5#8, 0#8, 0#8, 0#8, 0#8] = false
    ∧ replies (exec (.transactionEnd .cab [0x24#8, 5#8, 0#8, 0#8, 0#8, 0#8]) selected) .cab .badCheck 0#8 [] = true
    ∧ declaredLength (0x24#8 :: 5#8 :: (le 2 261 ++ List.replicate 263 0#8)) = 261
    ∧ replies (exec (.transactionEnd .cab (0x24#8 :: 5#8 :: (le 2 261 ++ List.replicate 263 0#8))) selected) .cab
        .badCheck 0#8 [] = true
    ∧ selectedNoPlace.placesInUse .cab = 8
    ∧ next (exec (.transactionEnd .cab [0x24#8, 5#8, 0#8, 0#8, 0#8, 0#8]) selectedNoPlace) (fun t =>
        (t.ports.get .cab).overrun) = true := by decide +kernel

theorem test_frame_of_longest_request :
    (ask .loadData (List.replicate 260 7#8)).payload.length ≤ 260
    ∧ declaredLength (ask .loadData (List.replicate 260 7#8)).frame = 260
    ∧ frameChecks (ask .commit []).frame = true := by decide +kernel

/-- CL0 and CL1 alone fitted. -/
def twoFitted : State := { testRun with cams := { testRun.cams with population := #v[true, true, false, false] } }

theorem test_identify_population :
    tried (.identify .cab) twoFitted .cab .identify [] .done 0#8 [0x43#8, 0x20#8, 4#8, 2#8, 3#8, 0#8, 2#8, 1#8] = true := by
  decide +kernel

theorem test_identify :
    tried (.identify .cab) testRun .cab .identify [] .done 0#8 [0x43#8, 0x20#8, 4#8, 2#8, 15#8, 0#8, 2#8, 1#8] = true
    ∧ tried (.cameraStatus .cab) testRun .cab .cameraStatus [] .done 0#8 testRun.cams.statusValues = true
    ∧ tried (.readMarkers .cab) testRun .cab .readMarkers [] .done 0#8 [150#8, 0#8, 0#8] = true
    ∧ tried (.readSignals .cab) testRun .cab .readSignals [] .done 0#8 testRun.scn.values = true
    ∧ tried (.readRegions .cab) testRun .cab .readRegions [] .done 0#8 testRun.ovm.values = true := by decide +kernel

theorem test_subscribe :
    tried (.subscribe .cab) testRun .cab .subscribe [1#8, 0#8, 1#8, 0#8] .done 0#8 [1#8, 1#8, 1#8, 1#8] = true
    ∧ done (.subscribe .cab) testRun .cab .subscribe [1#8, 0#8, 1#8, 0#8] (fun t =>
        decide ((t.ports.get .cab).subscription = ⟨true, false, true, false⟩)) = true
    ∧ tried (.subscribe .cab) testRun .cab .subscribe [1#8, 0#8, 1#8, 2#8] .badField 0x01#8 [] = true := by
  decide +kernel

/-! ## The Layer Table -/

/-- A SAFETY record. -/
def safetyAt (z : Nat) : LayerRecord := { fillAt z with cls := .safety }

/-- Slots 0 of CAB, 1 FITTED, 2 of DETECT, 20 FITTED and SAFETY, 22 of BODY, 23 free. -/
def testTable : State :=
  withSlot (withSlot (withSlot (withSlot (withSlot testRun 0 (slotOfOwner (.port .cab) (fillAt 0)))
    1 (slotOfOwner .fitted (fillAt 1))) 2 (slotOfOwner (.port .detect) (fillAt 2)))
    20 (slotOfOwner .fitted (safetyAt 20))) 22 (slotOfOwner (.port .body) (safetyAt 22))

theorem test_slot_number :
    tried (.claim .cab) testRun .cab .claim [24#8] .badField 0#8 [] = true
    ∧ tried (.release .cab) testRun .cab .release [255#8] .badField 0#8 [] = true
    ∧ tried (.readLayer .cab) testRun .cab .readLayer [24#8] .badField 0#8 [] = true
    ∧ tried (.readLayer .cab) testRun .cab .readLayer [23#8] .done 0#8
        ([23#8, 0#8, 0#8, 0#8] ++ (LayerRecord.empty.bytes ++ LayerRecord.empty.bytes)) = true := by decide +kernel

theorem test_claim :
    tried (.claim .cab) testTable .cab .claim [0#8] .granted 0#8 [] = true
    ∧ tried (.claim .cab) testTable .cab .claim [20#8] .rankRefused 0xFE#8 [] = true
    ∧ tried (.claim .cab) testTable .cab .claim [2#8] .heldBy 0#8 [3#8] = true
    ∧ done (.claim .cab) testTable .cab .claim [23#8] (fun t =>
        decide (t.ltb.slots[(23 : Fin 24)] = slotOfOwner (.port .cab) LayerRecord.empty)) = true
    ∧ done (.claim .cab) testTable .cab .claim [1#8] (fun t =>
        decide (t.ltb.slots[(1 : Fin 24)] = slotOfOwner (.port .cab) (fillAt 1))) = true
    ∧ done (.claim .body) testTable .body .claim [20#8] (fun t =>
        decide (t.ltb.slots[(20 : Fin 24)].owner = .port .body)) = true := by decide +kernel

theorem test_seize :
    tried (.seize .body) testTable .body .seize [22#8] .granted 0#8 [2#8] = true
    ∧ tried (.seize .body) testTable .body .seize [23#8] .granted 0#8 [0#8] = true
    ∧ tried (.seize .body) testTable .body .seize [20#8] .granted 0#8 [1#8] = true
    ∧ tried (.seize .body) testTable .body .seize [0#8] .granted 0#8 [4#8] = true
    ∧ done (.seize .body) testTable .body .seize [0#8] (fun t =>
        decide (alertCodes t .cab = [.layerSeized] ∧ alertCodes t .detect = [])) = true := by decide +kernel

theorem test_release :
    tried (.release .cab) testTable .cab .release [2#8] .notOwner 0#8 [] = true
    ∧ done (.release .cab) testTable .cab .release [0#8] (fun t =>
        decide (t.ltb.slots[(0 : Fin 24)] = LayerSlot.unowned)) = true := by decide +kernel

/-- Slot 0 of CAB PENDING in its set, slot 3 of CAB EDITED to height 5. -/
def testPending : State :=
  let s := withSlot (withSlot testTable 0 { slotOfOwner (.port .cab) (fillAt 0) with status := .pending })
    3 ⟨.port .cab, .edited, fillAt 5, LayerRecord.empty, .none⟩
  s.setLtb { s.ltb with sets := s.ltb.sets.set .cab (some ⟨9#4, [0]⟩) }

/-- Slot 3 of CAB EDITED to height 5, with no pending set. -/
def testEdited : State := withSlot testTable 3 ⟨.port .cab, .edited, fillAt 5, LayerRecord.empty, .none⟩

theorem test_edit :
    tried (.edit .cab) testTable .cab .edit [0#8, 0#8] .badField 0x0F#8 [] = true
    ∧ tried (.edit .cab) testTable .cab .edit (0#8 :: 17#8 :: (List.replicate 17 [0x04#8, 1#8, 1#8]).flatten)
        .badField 0x0F#8 [] = true
    ∧ tried (.edit .cab) testTable .cab .edit [2#8, 1#8, 0x04#8, 1#8, 3#8] .notOwner 0#8 [] = true
    ∧ tried (.edit .cab) testPending .cab .edit [0#8, 1#8, 0x04#8, 1#8, 3#8] .busy 0#8 [] = true
    ∧ tried (.edit .cab) testTable .cab .edit [0#8, 1#8, 0x04#8, 1#8, 24#8] .badField 0x04#8 [] = true
    ∧ done (.edit .cab) testTable .cab .edit [0#8, 2#8, 0x04#8, 1#8, 23#8, 0x09#8, 1#8, 15#8] (fun t =>
        decide (t.ltb.slots[(0 : Fin 24)] = ⟨.port .cab, .edited, fillAt 23, fillAt 0, .none⟩)) = true := by
  decide +kernel

theorem test_edit_pairs :
    applyPairs .cab [⟨0x02#8, [1#8]⟩] LayerRecord.empty = .error (.rankRefused, 0x02#8)
    ∧ applyPairs .body [⟨0x29#8, []⟩] LayerRecord.empty = .error (.badField, 0x29#8)
    ∧ applyPairs .body [⟨0x11#8, [0#8, 0#8]⟩] LayerRecord.empty = .error (.badField, 0x11#8)
    ∧ (∀ p ∈ [LayerKind.camera, .bitmap, .guide, .fill], p.defaultPart.kind = p) := by decide +kernel

theorem test_edit_pairs_from_bytes :
    (ask .edit [0#8, 2#8, 0x05#8, 2#8, 10#8, 0#8, 0x04#8, 1#8, 23#8]).pairs
      = [⟨0x05#8, [10#8, 0#8]⟩, ⟨0x04#8, [23#8]⟩]
    ∧ editPairs 1#8 [0x04#8, 1#8] = none
    ∧ editPairs 1#8 [0x04#8, 1#8, 23#8, 0#8] = none := by decide +kernel

/-- A camera record at the ends of its ranges. -/
def widest : LayerRecord :=
  ⟨true, .safety, 23, 1272, 712, 1280, 720, 15, [⟨0, true⟩, ⟨17, false⟩, ⟨14, true⟩, ⟨16, true⟩], .fast, true,
    .camera ⟨3, 1264, 944, 1280, 960, true, true⟩⟩

theorem test_widest_record_is_in_range : widest.InRange ∧ LayerRecord.empty.InRange := by
  simp [LayerRecord.InRange, widest, LayerRecord.empty]

theorem test_layer_records_read_back :
    readRecord (widest.bytes ++ [1#8]) = some (widest, [1#8])
    ∧ readRecord ({ widest with part := .bitmap ⟨15, 1280, 720, none⟩ } : LayerRecord).bytes
        = some ({ widest with part := .bitmap ⟨15, 1280, 720, none⟩ }, [])
    ∧ readRecord ({ widest with part := .guide ⟨0, 4, [⟨1279, 719, 0, 0⟩]⟩ } : LayerRecord).bytes
        = some ({ widest with part := .guide ⟨0, 4, [⟨1279, 719, 0, 0⟩]⟩ }, []) := by decide +kernel

theorem test_discard :
    tried (.discard .cab) testPending .cab .discard [] .busy 0#8 [] = true
    ∧ tried (.discard .cab) testEdited .cab .discard [] .done 0#8 [1#8] = true
    ∧ done (.discard .cab) testEdited .cab .discard [] (fun t =>
        decide (t.ltb.slots[(3 : Fin 24)] = slotOfOwner (.port .cab) LayerRecord.empty)) = true := by decide +kernel

theorem test_commit :
    tried (.commit .cab) testPending .cab .commit [] .busy 0#8 [] = true
    ∧ tried (.commit .cab) testTable .cab .commit [] .committed 0#8 [0#8, 8#8, 0#8] = true
    ∧ done (.commit .cab) testEdited .cab .commit [] (fun t =>
        decide (t.ltb.sets.get .cab = some ⟨5#4, [3]⟩ ∧ t.ltb.slots[(3 : Fin 24)].status = .pending
          ∧ (t.ports.get .cab).replies = [])) = true := by decide +kernel

/-- CAB's set with slot 3 at height 1, which slot 1 holds. -/
def testConflict : State :=
  let s := withSlot testTable 3 ⟨.port .cab, .pending, fillAt 1, LayerRecord.empty, .none⟩
  s.setLtb { s.ltb with sets := s.ltb.sets.set .cab (some ⟨9#4, [3]⟩) }

theorem test_commit_line :
    setFailure testPending.cams.presence testPending.ovm.regions (testPending.ltb.candidates [0]) [0] = none
    ∧ decide (((testPending.resolveSet .cab).ports.get .cab).replies.map (fun r => (r.item.tag, r.item.result, r.item.values))
        = [(9#4, .committed, [1#8, 8#8, 0#8])]) = true
    ∧ setFailure testConflict.cams.presence testConflict.ovm.regions (testConflict.ltb.candidates [3]) [3]
        = some (3, .zConflict)
    ∧ decide (((testConflict.resolveSet .cab).ports.get .cab).replies.map (fun r => (r.item.result, r.item.values))
        = [(.commitRefused, [3#8, 8#8])]) = true
    ∧ (testConflict.resolveSet .cab).ltb.slots[(3 : Fin 24)].status = .edited
    ∧ testTable.ltb.sets.get .cab = none := by decide +kernel

/-- CAB's set with slot 3 in a record and slots 10 to 17 of SAFETY layers of BODY. -/
def testStack (r : LayerRecord) : State :=
  let s := ((List.range 8).map (fun n => (Fin.ofNat 24 (10 + n)))).foldl
    (fun s i => withSlot s i (slotOfOwner (.port .body) (safetyAt i.val))) testRun
  withSlot s 3 ⟨.port .cab, .pending, r, LayerRecord.empty, .none⟩

/-- The verdict on slot 3 of a stack. -/
def stackVerdict (r : LayerRecord) : Option (Fin 24 × DetailCode) :=
  setFailure testRun.cams.presence testRun.ovm.regions ((testStack r).ltb.candidates [3]) [3]

theorem test_set_verdicts :
    stackVerdict (fillAt 9) = none ∧ stackVerdict (fillAt 10) = some (3, .zConflict)
    ∧ stackVerdict (fillAt 18) = some (3, .zOrder) ∧ stackVerdict (safetyAt 18) = some (3, .safetyCount)
    ∧ stackVerdict { safetyAt 18 with enabled := false } = none
    ∧ stackVerdict { fillAt 9 with destW := 9, part := .guide ⟨15, 2, [⟨9, 0, 0, 0⟩]⟩ } = some (3, .segment) := by
  decide +kernel

theorem test_commit_checks :
    partFailure testRun.cams.presence testRun.ovm.regions { fillAt 0 with part := .camera ⟨0, 1, 0, 1280, 960, false, false⟩ }
      = some .crop
    ∧ geometryHolds { fillAt 0 with destX := 1273 } = false
    ∧ geometryHolds { fillAt 0 with destX := 1272 } = true
    ∧ scaleHolds { fillAt 0 with destW := 320, destH := 240 } ⟨0, 0, 0, 1280, 960, false, false⟩ = true
    ∧ scaleHolds { fillAt 0 with destW := 319, destH := 240 } ⟨0, 0, 0, 1280, 960, false, false⟩ = false
    ∧ partFailure testRun.cams.presence testRun.ovm.regions { fillAt 0 with part := .bitmap ⟨0, 8, 8, none⟩ }
      = some .regionNotValid := by decide +kernel

theorem test_force :
    tried (.force .body) testTable .body .force [0#8, 3#8] .badField 0x01#8 [] = true
    ∧ tried (.force .body) testTable .body .force [23#8, 2#8] .notOwner 0#8 [] = true
    ∧ tried (.force .body) testTable .body .force [0#8, 2#8] .done 0#8 [0#8] = true
    ∧ done (.force .body) testTable .body .force [0#8, 1#8] (fun t =>
        decide (t.ltb.slots[(0 : Fin 24)] = { slotOfOwner (.port .cab) (fillAt 0) with force := .show })) = true := by
  decide +kernel

theorem test_set_palette :
    tried (.setPalette .body) testRun .body .setPalette (15#8 :: List.replicate 45 9#8) .badField 0x0F#8 [] = true
    ∧ done (.setPalette .body) testRun .body .setPalette (16#8 :: (List.replicate 47 9#8 ++ [8#8])) (fun t =>
        decide (t.cmp.palette[(15 : Fin 16)] = ⟨9#8, 9#8, 8#8⟩ ∧ t.cmp.palette[(0 : Fin 16)] = ⟨9#8, 9#8, 9#8⟩)) = true := by
  decide +kernel

/-! ## The Frame Timebase -/

theorem test_set_period :
    tried (.setPeriod .cab) testRun .cab .setPeriod (le 2 735) .badField 0x01#8 [] = true
    ∧ tried (.setPeriod .cab) testRun .cab .setPeriod (le 2 742) .badField 0x01#8 [] = true
    ∧ tried (.setPeriod .cab) testRun .cab .setPeriod (le 2 1024) .badField 0x01#8 [] = true
    ∧ done (.setPeriod .cab) testRun .cab .setPeriod (le 2 743) (fun t =>
        decide (t.ftb.stagedPeriod = 743 ∧ t.ftb.period = 750)) = true
    ∧ done (.setPeriod .cab) testRun .cab .setPeriod (le 2 1023) (fun t => decide (t.ftb.stagedPeriod = 1023)) = true := by
  decide +kernel

theorem test_set_commit_line :
    tried (.setCommitLine .cab) testRun .cab .setCommitLine (le 2 719) .badField 0x02#8 [] = true
    ∧ tried (.setCommitLine .cab) testRun .cab .setCommitLine (le 2 750) .badField 0x02#8 [] = true
    ∧ done (.setCommitLine .cab) testRun .cab .setCommitLine (le 2 720) (fun t => decide (t.ftb.commitLine = 720)) = true
    ∧ done (.setCommitLine .cab) testRun .cab .setCommitLine (le 2 749) (fun t => decide (t.ftb.commitLine = 749)) = true := by
  decide +kernel

theorem test_set_strobe :
    tried (.setStrobe .body) testRun .body .setStrobe (4#8 :: le 2 0) .badField 0x03#8 [] = true
    ∧ tried (.setStrobe .body) testRun .body .setStrobe (3#8 :: le 2 750) .badField 0x04#8 [] = true
    ∧ done (.setStrobe .body) testRun .body .setStrobe (3#8 :: le 2 749) (fun t =>
        decide (t.ftb.strobes = #v[736, 738, 740, 749])) = true := by decide +kernel

/-- Genlock on, LOCKED. -/
def testLocked : State :=
  { testRun with ftb := { testRun.ftb with genlockOn := true, genlock := .locked, good := 2 } }

theorem test_set_genlock :
    tried (.setGenlock .cab) testRun .cab .setGenlock (2#8 :: le 2 0) .badField 0x05#8 [] = true
    ∧ tried (.setGenlock .cab) testRun .cab .setGenlock (1#8 :: le 2 750) .badField 0x06#8 [] = true
    ∧ done (.setGenlock .cab) testRun .cab .setGenlock (1#8 :: le 2 749) (fun t =>
        decide (t.ftb.genlock = .hunting ∧ t.ftb.phase = 749)) = true
    ∧ done (.setGenlock .cab) testLocked .cab .setGenlock (1#8 :: le 2 9) (fun t =>
        decide (t.ftb.genlock = .locked ∧ t.ftb.good = 2)) = true
    ∧ done (.setGenlock .cab) testLocked .cab .setGenlock (0#8 :: le 2 0) (fun t =>
        decide (t.ftb.genlock = .free ∧ t.ftb.good = 0)) = true := by decide +kernel

/-- Genlock on at phase 0, in the last line, HUNTING with a good-sync count. -/
def hunting (good : Nat) : State :=
  { testRun with ftb := { testRun.ftb with line := 749, genlockOn := true, genlock := .hunting, good := good } }

theorem test_dsync :
    next (exec .dsync testRun) (fun t => decide (t = testRun)) = true
    ∧ next (exec .dsync (hunting 0)) (fun t =>
        decide (t.ftb.good = 1 ∧ t.ftb.genlock = .hunting ∧ t.ftb.dsyncDue = true ∧ alertCodes t .cab = [])) = true
    ∧ next (exec .dsync (hunting 1)) (fun t =>
        decide (t.ftb.good = 2 ∧ t.ftb.genlock = .locked ∧ alertCodes t .cab = [.genlockAcquired])) = true
    ∧ next (exec .dsync { hunting 1 with ftb := { (hunting 1).ftb with line := 746 } }) (fun t =>
        decide (t.ftb.good = 0 ∧ t.ftb.lastSlip = 3 ∧ alertCodes t .cab = [.syncSlip])) = true
    ∧ next (exec .dsync { hunting 1 with ftb := { (hunting 1).ftb with line := 747 } }) (fun t =>
        decide (t.ftb.good = 2 ∧ t.ftb.lastSlip = 2)) = true := by decide +kernel

theorem test_resync :
    done (.resync .cab) testRun .cab .resync [] (fun t => t.ftb.resyncDue) = true
    ∧ testRun.ftb.slip = 101 := by decide +kernel

theorem test_line_end :
    next (exec (.lineEnd calm firstOrder) State.reset) (fun t => decide (t.ftb.line = 0 ∧ t.ftb.run = .held)) = true
    ∧ next (exec (.lineEnd calm firstOrder) testRun) (fun t =>
        decide (t.ftb.line = 101 ∧ t.ftb.frame = 7#16 ∧ t.links.rsync = false)) = true
    ∧ next (exec (.lineEnd calm firstOrder) (hunting 0)) (fun t =>
        decide (t.ftb.line = 0 ∧ t.ftb.frame = 8#16 ∧ t.links.rsync = true ∧ t.cmp.plan.isSome = true)) = true
    ∧ next (exec (.lineEnd calm firstOrder) { testRun with ftb := { testRun.ftb with resyncDue := true } }) (fun t =>
        decide (t.ftb.line = 0 ∧ t.ftb.resyncDue = false ∧ t.ftb.frame = 8#16)) = true := by decide +kernel

theorem test_top_modes_and_lost_sync :
    next (exec (.lineEnd ⟨true, []⟩ firstOrder) (hunting 0)) (fun t =>
        decide (t.cmp.recorder = .hold ∧ t.pins.recHold = true ∧ t.ftb.missed = 1 ∧ t.ftb.good = 0)) = true
    ∧ next (exec (.lineEnd calm firstOrder) { testLocked with ftb := { testLocked.ftb with line := 749, missed := 2 } })
        (fun t => decide (t.ftb.missed = 3 ∧ t.ftb.genlock = .hunting ∧ alertCodes t .cab = [.genlockLost])) = true
    ∧ next (exec (.lineEnd calm firstOrder) { testQuiet with ftb := { testQuiet.ftb with line := 749 } }) (fun t =>
        decide (t.cmp.output = .black ∧ t.cmp.recorder = .off)) = true := by decide +kernel

/-- RUN before the last drawn line, with a plan of no layers. -/
def lastLine : State :=
  { testRun with
    ftb := { testRun.ftb with line := 718 }
    cmp := { testRun.cmp with plan := some testRun.planNow } }

theorem test_metadata_record :
    next (exec (.lineEnd calm firstOrder) lastLine) (fun t =>
        t.cmp.metadataSent && decide (t.links.metadata
          = some ([0x5A#8, 7#8, 0#8, 0#8, 0#8, 0#8, 0#8, 0#8, 0#8] ++ (List.replicate 4 [2#8, 0xFF#8, 0xFF#8]).flatten
              ++ [0#8, 0#8, 2#8, 0#8, 0#8]))) = true
    ∧ next (exec (.lineEnd calm firstOrder) { lastLine with cmp := { lastLine.cmp with recorder := .hold } }) (fun t =>
        decide (t.links.metadata = none)) = true := by decide +kernel

/-- A marker of age 0 with a time to live. -/
def markerOf (track ttl : Nat) (near : Bool) : Marker := ⟨track, 0, 0, 0, 10, 10, .object, 100, ttl, 0, near⟩

/-- The state before a counter value, with two markers. -/
def before (s : State) (v : Nat) : State :=
  { s with
    ftb := { s.ftb with line := v - 1 }
    mkm := ⟨[markerOf 3 1 true, markerOf 4 2 false], 150⟩
    scn := { s.scn with near := true } }

theorem test_line_events :
    (before testPending 725).ftb.arrival = 725
    ∧ next (exec (.lineEnd calm firstOrder) (before testPending 725)) (fun t =>
        decide (t.ltb.sets.get .cab = none ∧ t.mkm.markers.length = 2)) = true
    ∧ (before testPending 720).ftb.arrival = 720
    ∧ next (exec (.lineEnd calm firstOrder) (before testPending 720)) (fun t =>
        decide (t.ltb.sets.get .cab = some ⟨9#4, [0]⟩ ∧ t.mkm.markers = [{ markerOf 4 2 false with age := 1 }]
          ∧ t.scn.near = false)) = true
    ∧ next (exec (.lineEnd calm firstOrder) (before testPending 736)) (fun t =>
        decide (t.links.strobed = #v[true, false, false, false])) = true
    ∧ next (exec (.lineEnd calm firstOrder) (before testQuiet 736)) (fun t =>
        decide (t.links.strobed = #v[false, false, false, false])) = true := by decide +kernel

theorem test_commit_line_answers :
    (testPending.ftb.commitLine = 725 ∧ (before testPending 725).ftb.arrival = 725)
    ∧ next (exec (.lineEnd ⟨false, [⟨3, .single⟩, ⟨4, .double⟩]⟩ firstOrder) (before testPending 725)) (fun t =>
        decide (((t.ports.get .cab).replies.map (fun r => (r.item.tag, r.item.result))) = [(9#4, .committed)]
          ∧ t.cams = testPending.cams ∧ t.stc = testPending.stc ∧ t.cmp = testPending.cmp
          ∧ t.ovm.readCheck 3 = .single ∧ t.ovm.readCheck 4 = .double)) = true
    ∧ next (exec (.lineEnd calm firstOrder) (before testPending 736)) (fun t =>
        decide (t.ports = testPending.ports)) = true := by decide +kernel

/-! ## RUN, QUIET and DORMANT -/

/-- A pending QUIET of CAB with the vehicle stopped or not. -/
def entering (stopped : Bool) : State :=
  { testRun with
    stc := ⟨.run, some ⟨.cab, 6#4⟩, false⟩
    ftb := { testRun.ftb with line := 719 }
    scn := { testRun.scn with stale := !stopped } }

/-- A SAFETY layer of BODY whose term, signal 14 at 1, holds when the vehicle has stopped. -/
def guarded (s : State) : State :=
  withSlot s 20 (slotOfOwner (.port .body) { safetyAt 20 with condition := [⟨14, true⟩] })

theorem test_quiet_entry :
    (entering true).ftb.arrival = 720 ∧ (entering true).scn.stopped = true ∧ (entering true).safetyCondition = false
    ∧ next (exec (.lineEnd calm firstOrder) (entering true)) (fun t => decide (t.stc = ⟨.quiet, none, false⟩)) = true
    ∧ replies (exec (.lineEnd calm firstOrder) (entering true)) .cab .done 0#8 [] = true
    ∧ replies (exec (.lineEnd calm firstOrder) (entering false)) .cab .refusedCondition 0#8 [3#8] = true
    ∧ (guarded (entering true)).safetyCondition = true
    ∧ replies (exec (.lineEnd calm firstOrder) (guarded (entering true))) .cab .refusedCondition 0#8 [4#8] = true := by
  decide +kernel

/-- That pending QUIET where the commit line is 720 and CAB's pending set enables a SAFETY layer that holds. -/
def enteringCommit : State :=
  let s := { entering true with ftb := { (entering true).ftb with commitLine := 720 } }
  let u := withSlot s 20 ⟨.port .body, .pending, { safetyAt 20 with condition := [⟨14, true⟩] }, LayerRecord.empty, .none⟩
  u.setLtb { u.ltb with sets := u.ltb.sets.set .body (some ⟨9#4, [20]⟩) }

theorem test_quiet_entry_beside_commit :
    next (exec (.lineEnd calm { firstOrder with commitFirst := true }) enteringCommit) (fun t =>
        decide (t.stc = ⟨.run, none, false⟩ ∧ t.ltb.slots[(20 : Fin 24)].active.enabled = true)) = true
    ∧ next (exec (.lineEnd calm firstOrder) enteringCommit) (fun t =>
        decide (t.stc = ⟨.quiet, none, false⟩ ∧ alertCodes t .cab = [.stateChanged])) = true := by decide +kernel

/-- QUIET before BLANK with the vehicle stopped. -/
def resting (runRequest : Bool) : State :=
  { testQuiet with
    stc := ⟨.quiet, none, runRequest⟩
    ftb := { testRun.ftb with line := 719 }
    scn := { testRun.scn with stale := false } }

theorem test_quiet_exit :
    next (exec (.lineEnd calm firstOrder) (resting false)) (fun t => decide (t.stc = ⟨.quiet, none, false⟩)) = true
    ∧ next (exec (.lineEnd calm firstOrder) (resting true)) (fun t => decide (t.stc = ⟨.run, none, false⟩)) = true
    ∧ next (exec (.lineEnd calm firstOrder) (guarded (resting false))) (fun t =>
        decide (t.stc.part = .run ∧ t.cams.links[(0 : Fin 4)].link = .starting)) = true := by decide +kernel

/-- A state whose strobe line of CL0 is 720. -/
def strobeAtBlank (s : State) : State := s.setFtb { s.ftb with strobes := #v[720, 738, 740, 742] }

theorem test_strobe_beside_blank :
    next (exec (.lineEnd calm { firstOrder with strobeFirst := true }) (strobeAtBlank (entering true))) (fun t =>
        decide (t.links.strobed = #v[true, false, false, false] ∧ t.cams.links[(0 : Fin 4)].link = .idle)) = true
    ∧ next (exec (.lineEnd calm firstOrder) (strobeAtBlank (entering true))) (fun t =>
        decide (t.links.strobed = #v[false, false, false, false])) = true
    ∧ next (exec (.lineEnd calm { firstOrder with strobeFirst := true }) (strobeAtBlank (resting true))) (fun t =>
        decide (t.links.strobed = #v[false, false, false, false] ∧ t.cams.links[(0 : Fin 4)].link = .starting)) = true
    ∧ next (exec (.lineEnd calm firstOrder) (strobeAtBlank (resting true))) (fun t =>
        decide (t.links.strobed = #v[true, false, false, false])) = true := by decide +kernel

theorem test_part_state_requests :
    tried (.run .detect) testRun .detect .run [] .done 0#8 [] = true
    ∧ done (.run .detect) (entering true) .detect .run [] (fun t =>
        decide (t.stc.entry = none ∧ ((t.ports.get .cab).replies.map (fun r => r.item.values)) = [[5#8]])) = true
    ∧ done (.run .detect) testQuiet .detect .run [] (fun t => t.stc.runRequest) = true
    ∧ done (.quiet .cab) testRun .cab .quiet [] (fun t => decide (t.stc.entry = some ⟨.cab, 5#4⟩)) = true
    ∧ tried (.quiet .cab) (entering true) .cab .quiet [] .busy 0#8 [] = true
    ∧ done (.quiet .cab) (resting true) .cab .quiet [] (fun t => decide (t.stc.runRequest = false)) = true := by
  decide +kernel

theorem test_dormant :
    tried (.dormant .body true) testRun .body .dormant [] .wrongState 0#8 [] = true
    ∧ tried (.dormant .body true) (resting true) .body .dormant [] .busy 0#8 [] = true
    ∧ done (.dormant .body true) testQuiet .body .dormant [] (fun t =>
        decide (t.stc.part = .dormant ∧ t.ftb.run = .held ∧ t.cmp.output = .off)) = true
    ∧ (∀ x ∈ [testQuiet.ltb.sets.body, testQuiet.ltb.sets.detect, testQuiet.ltb.sets.cab], x = none)
    ∧ testQuiet.fst.store = none := by decide +kernel

theorem test_dormant_keeps_timebase_settings :
    done (.dormant .body true) { testQuiet with ftb := { testLocked.ftb with phase := 9, stagedPeriod := 760 } } .body
      .dormant [] (fun t => decide (t.ftb = { testLocked.ftb with
        phase := 9, stagedPeriod := 760, line := 0, run := .held, genlock := .hunting, good := 0 })) = true := by
  decide +kernel

/-- QUIET with genlock LOCKED and CL0 in its power-off, discards counted. -/
def restingLocked : State :=
  { testQuiet with
    ftb := { testLocked.ftb with lastSlip := 3 }
    cams := { testQuiet.cams with
      links := testQuiet.cams.links.set 0 { CameraLink.atReset true with powerOff := some 30, discards := 7 } } }

theorem test_dormant_keeps_cameras :
    done (.dormant .body true) restingLocked .body .dormant [] (fun t =>
        decide (t.cams = { restingLocked.cams with
          links := Vector.ofFn (fun k => { restingLocked.cams.links[k] with power := false, powerOff := none }) })) = true := by
  decide +kernel

/-- DORMANT with genlock on, HUNTING. -/
def dormantHunting : State :=
  { testDormant with ftb := { testDormant.ftb with genlockOn := true, genlock := .hunting, lastSlip := 3, phase := 9 } }

theorem test_wake_keeps_genlock :
    next (exec (.wakeIn ⟨calm, []⟩) dormantHunting) (fun t =>
        decide (t.ftb = { dormantHunting.ftb with run := .running, frame := dormantHunting.ftb.frame + 1#16 })) = true := by
  decide +kernel

theorem test_wake :
    tried (.wake .detect ⟨calm, []⟩ true) testRun .detect .wake [] .done 0#8 [] = true
    ∧ 720 ≤ testDormant.ftb.commitLine
    ∧ done (.wake .detect ⟨calm, []⟩ true) testDormant .detect .wake [] (fun t =>
        decide (t.stc.part = .run ∧ t.ftb.run = .running ∧ t.ftb.frame = 1#16)) = true
    ∧ next (exec (.wakeIn ⟨calm, []⟩) testDormant) (fun t =>
        decide (t.stc.part = .run ∧ alertCodes t .cab = [.stateChanged])) = true
    ∧ next (exec (.wakeIn ⟨calm, []⟩) testRun) (fun t => decide (t.stc.part = .run ∧ t.ftb.line = 100)) = true := by
  decide +kernel

/-- In DORMANT, input 3 unmasked and not debounced. -/
def dozing : State := testDormant.setScn (testDormant.scn.setInput 3 ⟨false, false, true, .activeHigh, 0, false, none⟩)

theorem test_input_event_with_wake :
    next (exec (.wakeIn ⟨calm, [.rawChange 3 true]⟩) dozing) (fun t =>
        decide (t.scn.signal 3 = true ∧ t.cmp.plan.map (fun x => x.signals[(3 : Fin 18)]) = some true
          ∧ t.scn.wakeRecord = [])) = true
    ∧ next (exec (.inputRawChange 3 true) dozing) (fun t => next (exec (.wakeIn ⟨calm, [.rawChange 3 false]⟩) t) (fun u =>
        decide (u.cmp.plan.map (fun x => x.signals[(3 : Fin 18)]) = some false ∧ u.scn.wakeRecord = [3]))) = true := by
  decide +kernel

/-! ## Device reset, BOOT and the fitting record -/

theorem test_device_reset :
    next (exec (.deviceReset 3#2) testTable) (fun t =>
      decide (t.cams.population = #v[false, true, false, false] ∧ t.pins.resetLow = true
        ∧ t.ltb.slots[(0 : Fin 24)] = LayerSlot.unowned)) = true
    ∧ next (exec .bootStart State.reset) (fun t => decide (t.pins.resetLow = false)) = true := by decide +kernel

/-! Three records written out from section 11.1.6. Their check is computed in parts. -/

/-- The first 34 bytes of a record, with the low byte of its length (11.1.6). -/
def fittedHead (length : Byte) : List Byte :=
  [0x01#8, length, 0x00#8, 0x8F#8, 0x00#8, 0x32#8, 0x00#8, 0x00#8, 0x32#8, 0x00#8, 0x00#8, 0x32#8, 0x00#8,
   0x00#8, 0x32#8, 0x00#8, 0x00#8, 0x32#8, 0x00#8, 0x00#8, 0x32#8, 0x00#8, 0x00#8, 0x32#8, 0x00#8, 0x00#8,
   0x32#8, 0x00#8, 0x02#8, 0x00#8, 0x96#8, 0x00#8, 0x96#8, 0x00#8]

/-- The timebase settings of a record, with the genlock enable. -/
def fittedTimebase (genlock : Byte) : List Byte :=
  [0xEE#8, 0x02#8, 0xD5#8, 0x02#8, 0xE0#8, 0x02#8, 0xE2#8, 0x02#8, 0xE4#8, 0x02#8, 0xE6#8, 0x02#8, 0x00#8,
   0x00#8, genlock, 0x00#8]

/-- The first half of the palette. -/
def fittedPaletteA : List Byte :=
  [0x00#8, 0x00#8, 0x00#8, 0x30#8, 0x30#8, 0x30#8, 0xFF#8, 0xFF#8, 0xFF#8, 0xE0#8, 0x00#8, 0x00#8, 0xFF#8,
   0x80#8, 0x00#8, 0xFF#8, 0xE0#8, 0x00#8, 0x00#8, 0xB0#8, 0x00#8, 0x00#8, 0xB0#8, 0xB0#8]

/-- The second half of the palette. -/
def fittedPaletteB : List Byte :=
  [0x00#8, 0x40#8, 0xE0#8, 0xD0#8, 0x00#8, 0xD0#8, 0x80#8, 0x80#8, 0x80#8, 0xC0#8, 0xC0#8, 0xC0#8, 0xFF#8,
   0xD0#8, 0x00#8, 0xFF#8, 0x50#8, 0x00#8, 0x00#8, 0xD8#8, 0xFF#8, 0xF0#8, 0xF0#8, 0xF0#8]

/-- A record with one SAFETY layer in slot 22: its layers. -/
def storedGoodLayers : List Byte :=
  [0x01#8, 0x16#8, 0x0F#8, 0x16#8, 0x00#8, 0x00#8, 0x00#8, 0x00#8, 0x08#8, 0x00#8, 0x08#8, 0x00#8, 0x0F#8,
   0x00#8, 0x00#8]

/-- A record with one SAFETY layer in slot 22, before its check. -/
def storedGoodBody : List Byte :=
  fittedHead 0x71#8 ++ (fittedTimebase 0#8 ++ (fittedPaletteA ++ (fittedPaletteB ++ storedGoodLayers)))

/-- A record with one SAFETY layer in slot 22. -/
def storedGood : List Byte := storedGoodBody ++ le 4 0xC34D7BC9

theorem test_storedGood_crc : crc32 storedGoodBody = 0xC34D7BC9#32 := by
  have h1 : (fittedHead 0x71#8).foldl crc32Byte 0xFFFFFFFF#32 = 0x17DB87A2#32 := by decide +kernel
  have h2 : (fittedTimebase 0#8).foldl crc32Byte 0x17DB87A2#32 = 0xB12FF5E5#32 := by decide +kernel
  have h3 : fittedPaletteA.foldl crc32Byte 0xB12FF5E5#32 = 0xE1ECD600#32 := by decide +kernel
  have h4 : fittedPaletteB.foldl crc32Byte 0xE1ECD600#32 = 0xC8421B31#32 := by decide +kernel
  have h5 : storedGoodLayers.foldl crc32Byte 0xC8421B31#32 = 0x3CB28436#32 := by decide +kernel
  simp only [crc32, storedGoodBody, List.foldl_append, h1, h2, h3, h4, h5]
  decide

/-- A record whose genlock enable is 2: its layers. -/
def storedBadSettingsLayers : List Byte :=
  [0x00#8]

/-- A record whose genlock enable is 2, before its check. -/
def storedBadSettingsBody : List Byte :=
  fittedHead 0x63#8 ++ (fittedTimebase 2#8 ++ (fittedPaletteA ++ (fittedPaletteB ++ storedBadSettingsLayers)))

/-- A record whose genlock enable is 2. -/
def storedBadSettings : List Byte := storedBadSettingsBody ++ le 4 0x2E823C22

theorem test_storedBadSettings_crc : crc32 storedBadSettingsBody = 0x2E823C22#32 := by
  have h1 : (fittedHead 0x63#8).foldl crc32Byte 0xFFFFFFFF#32 = 0xA3F5A5F6#32 := by decide +kernel
  have h2 : (fittedTimebase 2#8).foldl crc32Byte 0xA3F5A5F6#32 = 0xDE67137D#32 := by decide +kernel
  have h3 : fittedPaletteA.foldl crc32Byte 0xDE67137D#32 = 0xBC73D79B#32 := by decide +kernel
  have h4 : fittedPaletteB.foldl crc32Byte 0xBC73D79B#32 = 0xC6A42CA4#32 := by decide +kernel
  have h5 : storedBadSettingsLayers.foldl crc32Byte 0xC6A42CA4#32 = 0xD17DC3DD#32 := by decide +kernel
  simp only [crc32, storedBadSettingsBody, List.foldl_append, h1, h2, h3, h4, h5]
  decide

/-- A record whose two layers share height 4: its layers. -/
def storedBadLayersLayers : List Byte :=
  [0x02#8, 0x03#8, 0x0D#8, 0x04#8, 0x00#8, 0x00#8, 0x00#8, 0x00#8, 0x08#8, 0x00#8, 0x08#8, 0x00#8, 0x0F#8,
   0x00#8, 0x00#8, 0x05#8, 0x0D#8, 0x04#8, 0x00#8, 0x00#8, 0x00#8, 0x00#8, 0x08#8, 0x00#8, 0x08#8, 0x00#8,
   0x0F#8, 0x00#8, 0x00#8]

/-- A record whose two layers share height 4, before its check. -/
def storedBadLayersBody : List Byte :=
  fittedHead 0x7F#8 ++ (fittedTimebase 0#8 ++ (fittedPaletteA ++ (fittedPaletteB ++ storedBadLayersLayers)))

/-- A record whose two layers share height 4. -/
def storedBadLayers : List Byte := storedBadLayersBody ++ le 4 0xBE34A2EB

theorem test_storedBadLayers_crc : crc32 storedBadLayersBody = 0xBE34A2EB#32 := by
  have h1 : (fittedHead 0x7F#8).foldl crc32Byte 0xFFFFFFFF#32 = 0xCD116451#32 := by decide +kernel
  have h2 : (fittedTimebase 0#8).foldl crc32Byte 0xCD116451#32 = 0x85FA7613#32 := by decide +kernel
  have h3 : fittedPaletteA.foldl crc32Byte 0x85FA7613#32 = 0x6F70ED93#32 := by decide +kernel
  have h4 : fittedPaletteB.foldl crc32Byte 0x6F70ED93#32 = 0x35C1E71C#32 := by decide +kernel
  have h5 : storedBadLayersLayers.foldl crc32Byte 0x35C1E71C#32 = 0x41CB5D14#32 := by decide +kernel
  simp only [crc32, storedBadLayersBody, List.foldl_append, h1, h2, h3, h4, h5]
  decide

/-- BOOT with a stored record. -/
def bootWith (x : StoredRecord) : State := { testBoot with fst := ⟨x, .none, none⟩ }

/-- A record whose length field, format and check are right is read. -/
theorem readFitting_checked {bs body : List Byte} {c : Word32} (hc : crc32 body = c)
    (hb : bs.take (bs.length - 4) = body) (hl : ¬ bs.length < 103) (hf : bs.getD 0 0#8 = 0x01#8)
    (hn : fromLe ((bs.drop 1).take 2) = bs.length - 4)
    (hk : BitVec.ofNat 32 (fromLe (bs.drop (bs.length - 4))) = c) (hm : ¬ 24 < (bs.getD 98 0#8).toNat) :
    readFitting bs = match readLayers (bs.getD 98 0#8).toNat (body.drop 99) with
      | some layers => if (layers.map FittedLayer.slot).Nodup then some (readSettings bs layers) else none
      | none => none := by
  unfold readFitting
  simp only [hb, hc, hk, hf, hn, hl, hm, ne_eq, not_true_eq_false, or_self, if_false] <;> rfl

/-- A record that reads back with a verdict on its settings and its layers. -/
def reads (x : Option FittedRecord) (settings layers : Bool) : Bool :=
  x.any (fun f => (f.settingsGood == settings) && (f.layersGood (testBoot.cams.populationWith f) == layers))

theorem test_good_record_is_read : reads (readFitting storedGood) true true = true := by
  rw [readFitting_checked test_storedGood_crc (by decide +kernel) (by decide +kernel) (by decide +kernel)
    (by decide +kernel) (by decide +kernel) (by decide +kernel)]
  decide +kernel

theorem test_bad_settings_are_read : reads (readFitting storedBadSettings) false true = true := by
  rw [readFitting_checked test_storedBadSettings_crc (by decide +kernel) (by decide +kernel) (by decide +kernel)
    (by decide +kernel) (by decide +kernel) (by decide +kernel)]
  decide +kernel

theorem test_bad_layers_are_read : reads (readFitting storedBadLayers) true false = true := by
  rw [readFitting_checked test_storedBadLayers_crc (by decide +kernel) (by decide +kernel) (by decide +kernel)
    (by decide +kernel) (by decide +kernel) (by decide +kernel)]
  decide +kernel

theorem test_snapshot_is_the_written_record :
    (withSlot testRun 22 (slotOfOwner (.port .body) (safetyAt 22))).fittingContent = storedGoodBody.drop 3 := by
  decide +kernel

theorem test_boot_end :
    testBoot.stc.part = .boot ∧ testBoot.pins.resetLow = false ∧ testBoot.ftb.commitLine ≠ 0
    ∧ next (exec (.bootEnd calm) testBoot) (fun t =>
        decide (t.fst.status = .none ∧ t.stc.part = .run ∧ t.ftb.frame = 1#16)) = true
    ∧ next (exec (.bootEnd calm) (bootWith .spoiled)) (fun t =>
        decide (t.fst.status = .bad ∧ alertCodes t .cab = [.fittingBad, .stateChanged])) = true
    ∧ readFitting [1#8] = none
    ∧ next (exec (.bootEnd calm) (bootWith (.present [1#8]))) (fun t => decide (t.fst.status = .bad)) = true := by
  decide +kernel

/-- Cameras with CL2 absent and CL1's power-off timer running. -/
def mixedCameras : Cameras :=
  { Cameras.atReset 0#2 with
    population := #v[true, true, false, true]
    links := #v[CameraLink.atReset true, { CameraLink.atReset true with powerOff := some 30 }, CameraLink.atReset false,
      CameraLink.atReset true] }

/-- The links those cameras have after the first TOP in RUN. -/
def startedLinks : Vector CameraLink 4 :=
  let started : CameraLink := { CameraLink.atReset true with link := .starting, miss := 1, starting := 1, power := true }
  #v[started, { started with starting := 0, powerOff := some 30, power := false }, CameraLink.atReset false, started]

theorem test_cameras_start :
    (∀ k : Fin 4, mixedCameras.links[k].link = if mixedCameras.population[k] then .idle else .absent)
    ∧ next (exec (.bootEnd calm) { testBoot with cams := mixedCameras }) (fun t =>
        decide (t.cams.links = startedLinks)) = true
    ∧ next (exec (.wakeIn ⟨calm, []⟩) { testDormant with cams := mixedCameras }) (fun t =>
        decide (t.cams.links = startedLinks)) = true := by decide +kernel

/-- A record with CL0 and CL1 present and no layers, before its check. -/
def storedTwoCamerasBody : List Byte :=
  ([0x01#8, 0x63#8, 0x00#8, 0x83#8] ++ (fittedHead 0#8).drop 4) ++ (fittedTimebase 0#8 ++ (fittedPaletteA
    ++ (fittedPaletteB ++ [0x00#8])))

/-- A record with CL0 and CL1 present and no layers. -/
def storedTwoCameras : List Byte := storedTwoCamerasBody ++ le 4 0xE5F7979A

theorem test_storedTwoCameras_crc : crc32 storedTwoCamerasBody = 0xE5F7979A#32 := by
  have h1 : ([0x01#8, 0x63#8, 0x00#8, 0x83#8] ++ (fittedHead 0#8).drop 4).foldl crc32Byte 0xFFFFFFFF#32
    = 0xEF55403A#32 := by decide +kernel
  have h2 : (fittedTimebase 0#8).foldl crc32Byte 0xEF55403A#32 = 0x6FEE0D80#32 := by decide +kernel
  have h3 : fittedPaletteA.foldl crc32Byte 0x6FEE0D80#32 = 0x104703D3#32 := by decide +kernel
  have h4 : fittedPaletteB.foldl crc32Byte 0x104703D3#32 = 0xD2BC1814#32 := by decide +kernel
  have h5 : [0x00#8].foldl crc32Byte 0xD2BC1814#32 = 0x1A086865#32 := by decide +kernel
  rw [crc32, storedTwoCamerasBody, List.foldl_append, h1, List.foldl_append, h2, List.foldl_append, h3,
    List.foldl_append, h4, h5]
  decide

/-- The links a population of two cameras sets, from links of any state. -/
def fitsTwo (f : FittedRecord) : Bool :=
  decide (f.population = some #v[true, true, false, false] ∧ f.settingsGood = true ∧ f.layers = [])
  && f.layersGood (testBoot.cams.populationWith f)
  && decide ((mixedCameras.fit f).links.map CameraLink.link = #v[.idle, .idle, .absent, .absent])

theorem test_population_in_record : (readFitting storedTwoCameras).any fitsTwo = true := by
  rw [readFitting_checked test_storedTwoCameras_crc (by decide +kernel) (by decide +kernel) (by decide +kernel)
    (by decide +kernel) (by decide +kernel) (by decide +kernel)]
  decide +kernel

/-- One layer's bytes: slot 22, then a flags byte, a z, and the rest of a FILL record. -/
def layerBytes (slot flags z : Byte) : List Byte := slot :: flags :: z :: storedGoodLayers.drop 4

theorem test_layers_out_of_range :
    (readLayers 1 (layerBytes 22#8 0x0F#8 22#8)).isSome = true
    ∧ (readLayers 1 (layerBytes 22#8 0x8F#8 22#8)).isSome = true
    ∧ readLayers 1 (layerBytes 24#8 0x0F#8 22#8) = none
    ∧ readLayers 1 (layerBytes 22#8 0x3F#8 22#8) = none
    ∧ readLayers 1 (layerBytes 22#8 0x0F#8 24#8) = none
    ∧ readLayers 1 (layerBytes 22#8 0x0F#8 22#8 ++ [0#8]) = none
    ∧ readLayers 1 (22#8 :: ({ LayerRecord.empty with part := .bitmap ⟨0, 8, 8, none⟩ } : LayerRecord).bytes) = none := by
  decide +kernel

/-- Slots of every owner: a disabled FITTED layer, BODY's BITMAP and FILL, and a layer of CAB. -/
def mixedTable : State :=
  withSlot (withSlot (withSlot (withSlot testRun 1 (slotOfOwner .fitted LayerRecord.empty))
    2 (slotOfOwner (.port .body) { fillAt 2 with part := .bitmap ⟨0, 8, 8, none⟩ }))
    3 (slotOfOwner (.port .cab) (fillAt 3))) 4 (slotOfOwner (.port .body) (fillAt 4))

theorem test_stored_slots : mixedTable.ltb.storedSlots = [1, 4] := by decide +kernel

theorem test_snapshot_conditions :
    testRun.ftb.Good ∧ (∀ n : Fin 8, testRun.scn.inputs[n].debounce ≤ 250)
    ∧ testRun.scn.stopThreshold < 1500 ∧ testRun.scn.slowThreshold ≤ 1500 ∧ testRun.mkm.threshold ≤ 2000 := by
  decide +kernel

theorem test_snapshot_ranges : testRun.ltb.RangesGood := by
  have h : ∀ i : Fin 24, testRun.ltb.slots[i] = LayerSlot.unowned := by decide +kernel
  intro i
  rw [h i]
  exact ⟨test_widest_record_is_in_range.2, test_widest_record_is_in_range.2⟩

/-- A store in flight of BODY, its answer open or not. -/
def storing (answerOpen : Bool) : State :=
  { testQuiet with fst := ⟨.spoiled, .none, some ⟨.body, 4#4, answerOpen, [1#8], 2, 400⟩⟩ }

theorem test_store_fitting :
    tried (.storeFitting .body) testRun .body .storeFitting [] .wrongState 0#8 [] = true
    ∧ tried (.storeFitting .body) (storing true) .body .storeFitting [] .busy 0#8 [] = true
    ∧ done (.storeFitting .body) testQuiet .body .storeFitting [] (fun t =>
        decide (t.fst.record = .spoiled ∧ t.fst.store.map StoreInFlight.timer = some 400)) = true
    ∧ next (exec .storeTimerExpiry testQuiet) (fun t => decide (t.fst = testQuiet.fst)) = true := by decide +kernel

theorem test_store_ends :
    replies (exec (.storeEnd true) (storing true)) .body .done 0#8 [2#8] = true
    ∧ replies (exec (.storeEnd false) (storing true)) .body .storeFailed 0#8 [] = true
    ∧ replies (exec .storeTimerExpiry (storing true)) .body .storeFailed 0#8 [] = true
    ∧ next (exec (.storeEnd true) (storing false)) (fun t =>
        decide (t.fst.record = .present [1#8] ∧ (t.ports.get .body).replies = [])) = true
    ∧ next (exec (.deviceReset 0#2) (storing true)) (fun t => decide (t.fst.record = .spoiled)) = true := by
  decide +kernel

/-! ## Overlay Memory -/

/-- The state with region entries and jobs. -/
def withRegions (s : State) (rs : List (Fin 16 × Region)) (jobs : PerPort (Option Job)) : State :=
  s.setOvm { rs.foldl (fun o x => o.setRegion x.1 (some x.2)) s.ovm with jobs := jobs }

/-- No jobs. -/
def noJobs : PerPort (Option Job) := PerPort.all none

/-- Region 0 of CAB EMPTY in blocks 0 to 3, region 1 of CAB VALID in 4 and 5 and named by slot 0, region 2 of
DETECT EMPTY in 6, region 3 of CAB FAULTED in 60 to 63. -/
def testRegions : State :=
  withRegions (withSlot testRun 0 (slotOfOwner (.port .cab) { fillAt 0 with part := .bitmap ⟨1, 8, 8, none⟩ }))
    [(0, ⟨0, 4, .cab, .empty⟩), (1, ⟨4, 2, .cab, .valid 0#32⟩), (2, ⟨6, 1, .detect, .empty⟩),
      (3, ⟨60, 4, .cab, .faulted 0#32⟩)] noJobs

/-- All sixteen entries taken. -/
def allRegions : State :=
  withRegions testRun ((List.finRange 16).map (fun g => (g, ⟨g.val, 1, .cab, .empty⟩))) noJobs

theorem test_alloc :
    tried (.alloc .cab) testRegions .cab .alloc [0#8] .badField 0x01#8 [] = true
    ∧ tried (.alloc .cab) testRegions .cab .alloc [65#8] .badField 0x01#8 [] = true
    ∧ tried (.alloc .cab) testRun .cab .alloc [64#8] .done 0#8 [0#8, 0#8, 64#8] = true
    ∧ tried (.alloc .cab) testRegions .cab .alloc [1#8] .done 0#8 [4#8, 7#8, 1#8] = true
    ∧ tried (.alloc .cab) testRegions .cab .alloc [54#8] .noSpace 0#8 [] = true
    ∧ tried (.alloc .cab) allRegions .cab .alloc [1#8] .noSpace 0#8 [] = true := by decide +kernel

/-- CAB's job of region 0 in a state, with a length of 8 bytes and the check of the bytes 1 to 8. -/
def cabJob (cursor : Nat) (state : JobState) : Job :=
  ⟨0, 8, crc32 [1#8, 2#8, 3#8, 4#8, 5#8, 6#8, 7#8, 8#8], cursor, 1#8, state, true⟩

/-- Region 0 of CAB LOADING under that job. -/
def loading (cursor : Nat) (state : JobState) : State :=
  withRegions testRun [(0, ⟨0, 4, .cab, .loading⟩), (1, ⟨4, 2, .body, .empty⟩)]
    { noJobs with cab := some (cabJob cursor state) }

theorem test_free :
    tried (.free .cab) testRegions .cab .free [16#8] .badField 0x01#8 [] = true
    ∧ tried (.free .cab) testRegions .cab .free [15#8] .notOwner 0#8 [] = true
    ∧ tried (.free .cab) testRegions .cab .free [2#8] .notOwner 0#8 [] = true
    ∧ tried (.free .cab) (loading 0 .suspended) .cab .free [0#8] .busy 0#8 [] = true
    ∧ tried (.free .cab) testRegions .cab .free [1#8] .inUse 0#8 [] = true
    ∧ done (.free .cab) testRegions .cab .free [0#8] (fun t => decide (t.ovm.regions[(0 : Fin 16)] = none)) = true := by
  decide +kernel

theorem test_ecc_clear :
    tried (.eccClear .body) { testRun with ovm := { testRun.ovm with corrected := 255 } } .body .eccClear []
      .done 0#8 [255#8] = true := by decide +kernel

/-- An OPEN_LOAD payload. -/
def openPayload (g : Byte) (length : Nat) : List Byte := g :: (le 4 length ++ le 4 0)

theorem test_open_load_refuses :
    tried (.openLoad .cab) testRegions .cab .openLoad (openPayload 16#8 1) .badField 0x01#8 [] = true
    ∧ tried (.openLoad .cab) testRegions .cab .openLoad (openPayload 15#8 1) .notOwner 0#8 [] = true
    ∧ tried (.openLoad .cab) testRegions .cab .openLoad (openPayload 2#8 1) .notOwner 0#8 [] = true
    ∧ tried (.openLoad .cab) (loading 0 .suspended) .cab .openLoad (openPayload 0#8 1) .busy 0#8 [] = true
    ∧ tried (.openLoad .cab) testRegions .cab .openLoad (openPayload 0#8 0) .badField 0x02#8 [] = true
    ∧ tried (.openLoad .cab) testRegions .cab .openLoad (openPayload 0#8 16385) .badField 0x02#8 [] = true
    ∧ tried (.openLoad .cab) testRegions .cab .openLoad (openPayload 1#8 1) .inUse 0#8 [] = true := by decide +kernel

theorem test_open_load_arbiter :
    tried (.openLoad .cab) testRegions .cab .openLoad (openPayload 0#8 16384) .done 0#8 [0#8, 0#8] = true
    ∧ tried (.openLoad .cab) testRegions .cab .openLoad (openPayload 3#8 1) .done 0#8 [0#8, 0#8] = true
    ∧ tried (.openLoad .body) (loading 0 (.verifying 1 5#4)) .body .openLoad (openPayload 1#8 1) .done 0#8 [1#8, 0#8] = true
    ∧ done (.openLoad .body) (loading 0 (.receiving 9)) .body .openLoad (openPayload 1#8 1) (fun t =>
        decide ((t.ovm.jobs.cab.map Job.state) = some .suspended ∧ (t.ovm.jobs.body.map Job.state) = some (.receiving 2000)
          ∧ alertCodes t .cab = [.loadSuspended])) = true
    ∧ tried (.openLoad .body) (loading 0 .suspended) .body .openLoad (openPayload 1#8 1) .done 0#8 [0#8, 0#8] = true := by
  decide +kernel

theorem test_open_load_behind_higher_rank :
    tried (.openLoad .cab) (withRegions testRun [(0, ⟨0, 4, .body, .loading⟩), (1, ⟨4, 2, .cab, .empty⟩)]
      { noJobs with body := some (cabJob 0 (.receiving 9)) }) .cab .openLoad (openPayload 1#8 1)
      .done 0#8 [1#8, 0#8] = true := by decide +kernel

theorem test_load_data_refuses :
    tried (.loadData .cab) testRun .cab .loadData [0#8, 1#8] .wrongState 0#8 [] = true
    ∧ tried (.loadData .cab) (loading 4 (.receiving 9)) .cab .loadData [1#8] .badField 0x05#8 [] = true
    ∧ tried (.loadData .cab) (loading 8 (.verifying 1 5#4)) .cab .loadData [1#8, 1#8] .busy 0#8 [] = true
    ∧ tried (.loadData .cab) (loading 4 .suspended) .cab .loadData [1#8, 1#8] .held 0#8 [] = true
    ∧ tried (.loadData .cab) (loading 4 (.receiving 9)) .cab .loadData [2#8, 1#8] .sequence 0#8 [1#8] = true
    ∧ tried (.loadData .cab) (loading 4 (.receiving 9)) .cab .loadData (1#8 :: List.replicate 5 1#8)
        .badField 0x05#8 [] = true := by decide +kernel

theorem test_load_data_takes_chunk :
    tried (.loadData .cab) (loading 4 (.receiving 9)) .cab .loadData [1#8, 5#8, 6#8, 7#8] .done 0#8
      [7#8, 0#8, 0#8, 0#8, 2#8] = true
    ∧ done (.loadData .cab) (loading 4 (.receiving 9)) .cab .loadData [1#8, 5#8, 6#8, 7#8, 8#8] (fun t =>
        decide (t.ovm.memory = [(4, 5#8), (5, 6#8), (6, 7#8), (7, 8#8)] ∧ (t.ports.get .cab).replies = []
          ∧ (t.ovm.jobs.cab.map Job.state) = some (.verifying 1 5#4))) = true
    ∧ (loading 4 (.receiving 9)).MemoryGood := by decide +kernel

/-- The third word of Overlay Memory holds a double error, and so does the first. -/
def spoiledWords (s : State) : State := s.setOvm { s.ovm with errors := [⟨0, .double⟩, ⟨2, .double⟩] }

theorem test_chunk_mends_words :
    done (.loadData .cab) (spoiledWords (withRegions testRun [(0, ⟨0, 1, .cab, .loading⟩)]
        { noJobs with cab := some { cabJob 0 (.receiving 9) with length := 30, nextSeq := 1#8 } })) .cab .loadData
      (1#8 :: List.replicate 10 7#8) (fun t =>
        decide (t.ovm.readCheck 0 = .clean ∧ t.ovm.readCheck 1 = .clean ∧ t.ovm.readCheck 2 = .double)) = true := by
  decide +kernel

/-- Slot 4 of BODY EDITED, its staged copy alone a BITMAP, of region 2. -/
def stagedBitmap : State :=
  withSlot testRegions 4 ⟨.port .body, .edited, { fillAt 4 with part := .bitmap ⟨2, 8, 8, none⟩ }, fillAt 4, .none⟩

theorem test_references :
    testRegions.ltb.references 1 = true ∧ testRegions.ltb.references 2 = false
    ∧ stagedBitmap.ltb.references 2 = true := by decide +kernel

theorem test_abort_load :
    tried (.abortLoad .cab) testRun .cab .abortLoad [] .wrongState 0#8 [] = true
    ∧ tried (.abortLoad .cab) (loading 8 (.verifying 1 5#4)) .cab .abortLoad [] .busy 0#8 [] = true
    ∧ tried (.abortLoad .cab) (loading 4 .suspended) .cab .abortLoad [] .done 0#8 [4#8, 0#8, 0#8, 0#8] = true := by
  decide +kernel

/-- The job VERIFYING over a written word, which may hold an error, while BODY waits. -/
def verifying (first : Byte) (errors : List Upset) : State :=
  let s := withRegions testRun [(0, ⟨0, 4, .cab, .loading⟩), (1, ⟨4, 2, .body, .loading⟩)]
    ⟨some ⟨1, 9, 0#32, 0, 0#8, .suspended, true⟩, none, some (cabJob 8 (.verifying 1 6#4))⟩
  s.setOvm { s.ovm with
    memory := [(0, first), (1, 2#8), (2, 3#8), (3, 4#8), (4, 5#8), (5, 6#8), (6, 7#8), (7, 8#8)], errors := errors }

/-- The region and the replies of CAB, and the job of BODY, after verification ends. -/
def verified (s : State) (content : RegionContent) (result : ResultCode) : Bool :=
  next (exec (.verificationEnd []) s) (fun t =>
    decide (t.ovm.regions[(0 : Fin 16)].map Region.content = some content
      ∧ (t.ports.get .cab).replies.map (fun r => (r.item.tag, r.item.result)) = [(6#4, result)]
      ∧ t.ovm.jobs.cab = none ∧ t.ovm.jobs.body.map Job.state = some (.receiving 2000)))

theorem test_verification :
    verified (verifying 1#8 []) (.valid (cabJob 8 .suspended).expected) .done = true
    ∧ verified (verifying 9#8 []) .empty .loadFailed = true
    ∧ verified (verifying 1#8 [⟨0, .double⟩]) .empty .loadFailed = true
    ∧ verified (verifying 1#8 [⟨0, .single⟩]) (.valid (cabJob 8 .suspended).expected) .done = true := by decide +kernel

/-- CAB's job RECEIVING while BODY's waits. -/
def twoJobs : State :=
  withRegions testRun [(0, ⟨0, 4, .cab, .loading⟩), (1, ⟨4, 2, .body, .loading⟩)]
    ⟨some ⟨1, 9, 0#32, 0, 0#8, .suspended, true⟩, none, some (cabJob 4 (.receiving 1))⟩

/-- CAB's job answered for by none, as after a RESET_PORT. -/
def cancelled (s : State) : State :=
  s.setOvm { s.ovm with jobs := s.ovm.jobs.set .cab ((s.ovm.jobs.get .cab).map (fun j => { j with answerOpen := false })) }

theorem test_cancelled_answer_and_resumed_job :
    next (exec (.verificationEnd []) (cancelled (verifying 1#8 []))) (fun t =>
        decide ((t.ports.get .cab).replies = [] ∧ alertCodes t .body = [.loadResumed])) = true
    ∧ next (exec .receiveTimeout twoJobs) (fun t =>
        decide (alertCodes t .cab = [.loadTimeout] ∧ alertCodes t .body = [.loadResumed])) = true := by decide +kernel

theorem test_receive_timeout :
    next (exec .receiveTimeout (loading 4 (.receiving 1))) (fun t =>
      decide (t.ovm.jobs.cab = none ∧ alertCodes t .cab = [.loadTimeout])) = true
    ∧ next (exec .receiveTimeout (loading 4 .suspended)) (fun t => decide (t.ovm = (loading 4 .suspended).ovm)) = true
    ∧ next (exec (.verificationEnd []) (loading 4 (.receiving 1))) (fun t =>
        decide (t.ovm = (loading 4 (.receiving 1)).ovm)) = true := by decide +kernel

/-- CAB's RESET_PORT in a state. -/
def resetCab (s : State) (test : State → Bool) : Bool := next (exec (.resetPort .cab) (asked s .cab .resetPort [])) test

theorem test_reset_port_and_jobs :
    resetCab (loading 8 (.verifying 1 6#4)) (fun t =>
        decide (t.ovm.jobs.cab = some { cabJob 8 (.verifying 1 6#4) with answerOpen := false })) = true
    ∧ resetCab twoJobs (fun t =>
        decide (t.ovm.jobs.cab = none ∧ t.ovm.regions[(0 : Fin 16)] = some ⟨0, 4, .cab, .empty⟩
          ∧ t.ovm.jobs.body.map Job.state = some (.receiving 2000) ∧ alertCodes t .body = [.loadResumed]
          ∧ alertCodes t .cab = [])) = true
    ∧ resetCab (withRegions testRun [(0, ⟨0, 4, .cab, .loading⟩), (1, ⟨4, 2, .body, .loading⟩)]
        ⟨some ⟨1, 9, 0#32, 0, 0#8, .receiving 9, true⟩, none, some (cabJob 4 .suspended)⟩) (fun t =>
        decide (t.ovm.jobs.cab = none ∧ t.ovm.jobs.body.map Job.state = some (.receiving 9)
          ∧ alertCodes t .body = [])) = true := by decide +kernel

theorem test_reset_port_drops_open_work :
    resetCab (entering true) (fun t => decide (t.stc.entry = none)) = true
    ∧ next (exec (.resetPort .body) (asked (storing true) .body .resetPort [])) (fun t =>
        decide (t.fst = ⟨.spoiled, .none, some ⟨.body, 4#4, false, [1#8], 2, 400⟩⟩)) = true
    ∧ resetCab (storing true) (fun t => decide (t.fst = (storing true).fst)) = true := by decide +kernel

theorem test_only_a_word_past_the_end_faults :
    (match exec (.loadData .cab) (asked (withRegions testRun [(0, ⟨64, 1, .cab, .loading⟩)]
        { noJobs with cab := some (cabJob 4 (.receiving 9)) }) .cab .loadData [1#8, 1#8]) with
      | .fault .overlayAddress => true
      | _ => false) = true := by decide +kernel

/-! ## Signals and markers -/

theorem test_signals :
    testRun.scn.signal 0 = false
    ∧ (testRun.scn.setInput 7 ⟨true, true, true, .activeHigh, 50, false, none⟩).signal 7 = true
    ∧ (testRun.scn.setInput 7 ⟨true, true, true, .activeLow, 50, false, none⟩).signal 7 = false
    ∧ ({ testRun.scn with speed := 2, stale := false } : Conditioner).signal 14 = true
    ∧ ({ testRun.scn with speed := 150, stale := false } : Conditioner).signal 15 = true
    ∧ ({ testRun.scn with speed := 151, stale := false } : Conditioner).signal 15 = false
    ∧ testRun.scn.signal 14 = false ∧ testRun.scn.signal 17 = true := by decide +kernel

theorem test_speed :
    tried (.speed .body) testRun .body .speed (le 2 1501) .badField 0x01#8 [] = true
    ∧ done (.speed .body) testRun .body .speed (le 2 1500) (fun t =>
        decide (t.scn.speed = 1500 ∧ t.scn.stale = false ∧ t.scn.age = some 500)) = true
    ∧ next (exec .speedAgeExpiry testRun) (fun t => decide (t.scn = testRun.scn ∧ alertCodes t .cab = [])) = true
    ∧ next (exec .speedAgeExpiry { testRun with scn := { testRun.scn with stale := false, age := some 1 } }) (fun t =>
        decide (t.scn.stale = true ∧ alertCodes t .cab = [.speedStale])) = true := by decide +kernel

theorem test_set_speed_bands :
    tried (.setSpeedBands .body) testRun .body .setSpeedBands (le 2 1500 ++ le 2 1500) .badField 0x01#8 [] = true
    ∧ tried (.setSpeedBands .body) testRun .body .setSpeedBands (le 2 5 ++ le 2 5) .badField 0x02#8 [] = true
    ∧ tried (.setSpeedBands .body) testRun .body .setSpeedBands (le 2 0 ++ le 2 1501) .badField 0x02#8 [] = true
    ∧ tried (.setSpeedBands .body) testRun .body .setSpeedBands (le 2 1499 ++ le 2 1500) .done 0#8
        ([0#8, 0#8, 1#8] ++ le 2 1499 ++ le 2 1500 ++ [0#8, 0#8]) = true := by decide +kernel

/-- Input 7 settled low with its pin high. -/
def testInput : State :=
  testRun.setScn (testRun.scn.setInput 7 ⟨true, false, true, .activeHigh, 50, true, none⟩)

theorem test_set_input :
    tried (.setInput .body) testInput .body .setInput [8#8, 0#8, 0#8, 0#8] .badField 0x01#8 [] = true
    ∧ tried (.setInput .body) testInput .body .setInput [7#8, 2#8, 0#8, 0#8] .badField 0x02#8 [] = true
    ∧ tried (.setInput .body) testInput .body .setInput [7#8, 0#8, 5#8, 0#8] .badField 0x03#8 [] = true
    ∧ tried (.setInput .body) testInput .body .setInput [7#8, 0#8, 251#8, 0#8] .badField 0x03#8 [] = true
    ∧ tried (.setInput .body) testInput .body .setInput [7#8, 0#8, 0#8, 2#8] .badField 0x04#8 [] = true
    ∧ tried (.setInput .body) testInput .body .setInput [7#8, 1#8, 250#8, 1#8] .done 0#8
        [1#8, 0#8, 1#8, 250#8, 1#8, 0#8] = true
    ∧ tried (.setInput .body) testInput .body .setInput [7#8, 0#8, 0#8, 0#8] .done 0#8
        [1#8, 1#8, 0#8, 0#8, 0#8, 0#8] = true
    ∧ tried (.setInput .body) testInput .body .setInput [7#8, 0#8, 10#8, 0#8] .done 0#8
        [1#8, 0#8, 0#8, 10#8, 0#8, 10#8] = true := by decide +kernel

theorem test_set_virtual :
    tried (.setVirtual .body) testRun .body .setVirtual [0#8] .badField 0x0F#8 [] = true
    ∧ tried (.setVirtual .body) testRun .body .setVirtual (5#8 :: List.replicate 10 8#8) .badField 0x0F#8 [] = true
    ∧ tried (.setVirtual .body) testRun .body .setVirtual [1#8, 12#8, 1#8] .rankRefused 0x01#8 [] = true
    ∧ tried (.setVirtual .body) testRun .body .setVirtual [1#8, 14#8, 1#8] .badField 0x01#8 [] = true
    ∧ tried (.setVirtual .body) testRun .body .setVirtual [1#8, 8#8, 2#8] .badField 0x02#8 [] = true
    ∧ tried (.setVirtual .body) testRun .body .setVirtual [2#8, 8#8, 1#8, 11#8, 1#8] .done 0#8 [9#8] = true
    ∧ tried (.setVirtual .detect) testRun .detect .setVirtual [1#8, 13#8, 1#8] .done 0#8 [32#8] = true := by
  decide +kernel

theorem test_debounce :
    next (exec (.inputRawChange 7 false) testInput) (fun t =>
      decide (t.scn.inputs[(7 : Fin 8)] = ⟨false, false, true, .activeHigh, 50, true, none⟩)) = true
    ∧ next (exec (.inputRawChange 0 true) testRun) (fun t =>
      decide (t.scn.inputs[(0 : Fin 8)] = ⟨true, false, false, .activeHigh, 50, false, some 50⟩)) = true
    ∧ next (exec (.debounceExpiry 7) testInput) (fun t => decide (t.scn = testInput.scn)) = true
    ∧ next (exec (.debounceExpiry 0) testRun) (fun t =>
      decide (t.scn.inputs[(0 : Fin 8)] = ⟨false, false, true, .activeHigh, 50, false, none⟩)) = true := by decide +kernel

theorem test_input_events_keep_the_rest :
    next (exec (.inputRawChange 0 true) testInput) (fun t =>
      decide (t = testInput.setScn { testInput.scn with inputs := t.scn.inputs })) = true
    ∧ next (exec (.debounceExpiry 0) testRun) (fun t =>
      decide (t = testRun.setScn { testRun.scn with inputs := t.scn.inputs })) = true := by decide +kernel

/-- Input 3 settled low and unmasked, its timer running, in DORMANT. -/
def sleeping (debounce : Nat) : State :=
  testDormant.setScn (testDormant.scn.setInput 3 ⟨false, false, true, .activeHigh, debounce, false, none⟩)

theorem test_wake_pending :
    next (exec (.inputRawChange 3 true) (sleeping 0)) (fun t => decide (t.scn.wakePending = [3])) = true
    ∧ next (exec (.inputRawChange 3 true) (sleeping 250)) (fun t =>
        decide (t.scn.wakePending = [] ∧ t.scn.inputs[(3 : Fin 8)].timer = some 250)) = true
    ∧ next (exec (.inputRawChange 3 true) (sleeping 250)) (fun t =>
        next (exec (.debounceExpiry 3) t) (fun u => decide (u.scn.wakePending = [3]))) = true := by decide +kernel

/-- A MARK item: track, camera 0, a box of 10 by 10 at 0, OBJECT, range, ttl. -/
def item (track range ttl : Nat) : List Byte :=
  le 2 track ++ [0#8] ++ le 2 0 ++ le 2 0 ++ le 2 10 ++ le 2 10 ++ [3#8] ++ le 2 range ++ [byte ttl]

/-- Sixteen markers of tracks 0 to 15, at range 100. -/
def fullMap : List Marker := (List.range 16).map (fun n => markerOf n 9 true)

theorem test_mark :
    tried (.mark .detect) testRun .detect .mark [0#8] .badField 0x0F#8 [] = true
    ∧ tried (.mark .detect) testRun .detect .mark (5#8 :: List.replicate 75 0#8) .badField 0x0F#8 [] = true
    ∧ tried (.mark .detect) testRun .detect .mark (1#8 :: item 255 150 60) .done 0#8
        [1#8, 1#8, 255#8, 0#8, 1#8, 0xFF#8, 0xFF#8] = true
    ∧ done (.mark .detect) testRun .detect .mark (1#8 :: item 255 150 60) (fun t =>
        decide (t.scn.near = true ∧ alertCodes t .cab = [.nearObject])) = true := by decide +kernel

theorem test_mark_items :
    (fullMap.map Marker.track).Pairwise (· < ·) ∧ fullMap.length = 16
    ∧ (takeItem testRun.cams.presence 150 fullMap ⟨15, 0, 0, 0, 10, 10, 3, 99, 9⟩).2 = .updated
    ∧ (takeItem testRun.cams.presence 150 (fullMap.take 15) ⟨255, 0, 0, 0, 10, 10, 3, 99, 60⟩).2 = .inserted
    ∧ (takeItem testRun.cams.presence 150 fullMap ⟨16, 0, 0, 0, 10, 10, 3, 99, 1⟩).2 = .evicted 0
    ∧ (takeItem testRun.cams.presence 150 fullMap ⟨16, 0, 0, 0, 10, 10, 3, 100, 1⟩).2 = .full
    ∧ (takeItem testRun.cams.presence 150 fullMap ⟨256, 0, 0, 0, 10, 10, 3, 100, 1⟩).2 = .badField 0x01#8
    ∧ (⟨16, 0, 0, 0, 10, 10, 3, 99, 1⟩ : MarkerItem).failure = none := by decide +kernel

/-- The outcome of an item of track 16 at the end of its ranges, but for one field. -/
def outcomeOf (change : MarkerItem → MarkerItem) : MarkOutcome :=
  (takeItem (testRun.cams.presence.set 2 false) 150 [] (change ⟨16, 3, 1279, 959, 1, 1, 3, 2000, 60⟩)).2

theorem test_mark_item_checks :
    outcomeOf id = .inserted ∧ outcomeOf (fun x => { x with camera := 2 }) = .cameraAbsent
    ∧ outcomeOf (fun x => { x with camera := 4 }) = .badField 2#8 ∧ outcomeOf (fun x => { x with boxX := 1280 }) = .badField 3#8
    ∧ outcomeOf (fun x => { x with boxY := 960 }) = .badField 4#8 ∧ outcomeOf (fun x => { x with boxW := 2 }) = .badField 5#8
    ∧ outcomeOf (fun x => { x with boxH := 2 }) = .badField 6#8 ∧ outcomeOf (fun x => { x with cls := 4 }) = .badField 7#8
    ∧ outcomeOf (fun x => { x with range := 2001 }) = .badField 8#8 ∧ outcomeOf (fun x => { x with ttl := 61 }) = .badField 9#8
    := by decide +kernel

/-- The full map with NEAR. -/
def testMap : State := { testRun with mkm := ⟨fullMap, 150⟩, scn := { testRun.scn with near := true } }

theorem test_marker_requests :
    tried (.unmark .detect) testMap .detect .unmark (le 2 256) .badField 0x01#8 [] = true
    ∧ tried (.unmark .detect) testMap .detect .unmark (le 2 255) .done 0#8 [0#8, 16#8] = true
    ∧ tried (.unmark .detect) testMap .detect .unmark (le 2 0) .done 0#8 [1#8, 15#8] = true
    ∧ tried (.clearMarks .body) testMap .body .clearMarks [] .done 0#8 [16#8] = true
    ∧ tried (.setNear .body) testMap .body .setNear (le 2 2001) .badField 0x01#8 [] = true
    ∧ done (.setNear .body) testMap .body .setNear (le 2 0) (fun t => decide (t.scn.near = false)) = true
    ∧ tried (.setNear .body) testMap .body .setNear (le 2 2000) .done 0#8 (le 2 2000 ++ [16#8]) = true := by
  decide +kernel

/-! ## Cameras -/

/-- Camera 3 with a slot WRITING, one READY and one HELD. -/
def filming : State :=
  testRun.setLink 3 { CameraLink.atReset true with
    link := .locked, power := true, discards := 255
    slots := #v[.held ⟨1#16, []⟩, .ready ⟨2#16, []⟩, .writing 3#16 []] }

theorem test_camera_restart :
    tried (.cameraRestart .cab) testRun .cab .cameraRestart [4#8] .badField 0x01#8 [] = true
    ∧ tried (.cameraRestart .cab) testQuiet .cab .cameraRestart [3#8] .wrongState 0#8 [] = true
    ∧ done (.cameraRestart .cab) filming .cab .cameraRestart [3#8] (fun t =>
        decide (t.cams.links[(3 : Fin 4)] = ⟨.starting, #v[.held ⟨1#16, []⟩, .free, .free], 0, 0, 0, 255, some 200, false⟩))
      = true
    ∧ tried (.cameraRestart .cab) (testRun.setLink 3 testRun.cams.links[(3 : Fin 4)].restart) .cab .cameraRestart [3#8]
        .busy 0#8 [] = true
    ∧ tried (.cameraRestart .cab) (testRun.setLink 3 (CameraLink.atReset false)) .cab .cameraRestart [3#8]
        .badField 0x01#8 [] = true := by decide +kernel

theorem test_frames :
    next (exec (.frameStart 3 9#16) testRun) (fun t =>
      decide (t.cams.links[(3 : Fin 4)].slots = #v[.writing 9#16 [], .free, .free])) = true
    ∧ next (exec (.frameStart 3 9#16) filming) (fun t =>
      decide (t.cams.links[(3 : Fin 4)].slots[(2 : Fin 3)] = .writing 9#16 []
        ∧ t.cams.links[(3 : Fin 4)].discards = 255)) = true
    ∧ next (exec (.cameraLine 3 ⟨[], true⟩) filming) (fun t =>
      decide (t.cams.links[(3 : Fin 4)].slots[(2 : Fin 3)] = .writing 3#16 [⟨[], true⟩])) = true
    ∧ next (exec (.frameEnd 3) filming) (fun t =>
      decide (t.cams.links[(3 : Fin 4)].slots = #v[.held ⟨1#16, []⟩, .ready ⟨2#16, []⟩, .free])) = true
    ∧ next (exec (.frameStart 3 9#16) testQuiet) (fun t =>
      decide (t.cams.links[(3 : Fin 4)].slots = #v[.free, .free, .free])) = true := by decide +kernel

theorem test_frame_end_passes :
    framePasses (List.replicate 960 ⟨List.replicate 1280 black, true⟩) = true
    ∧ framePasses (List.replicate 959 ⟨List.replicate 1280 black, true⟩) = false := by
  decide +kernel

theorem test_power_off_expiry :
    next (exec (.powerOffExpiry 3) (testRun.setLink 3 testRun.cams.links[(3 : Fin 4)].restart)) (fun t =>
      decide (t.cams.links[(3 : Fin 4)].powerOff = none ∧ t.cams.links[(3 : Fin 4)].power = true)) = true
    ∧ next (exec (.powerOffExpiry 3) testDormant) (fun t => decide (t.cams = testDormant.cams)) = true := by
  decide +kernel

/-- A link with no frame, and one with a READY frame. -/
def linkWith (link : LinkState) (miss fresh starting : Nat) (ready : Bool) : CameraLink :=
  { CameraLink.atReset true with
    link := link, miss := miss, fresh := fresh, starting := starting
    slots := #v[.free, if ready then .ready ⟨4#16, []⟩ else .free, .free] }

theorem test_plan_requests :
    (linkWith .starting 0 1 7 true).planRequest.2 = some .cameraStarted
    ∧ (linkWith .starting 0 0 29 false).planRequest.2 = some .cameraLost
    ∧ (linkWith .starting 0 0 28 false).planRequest = ({ linkWith .starting 1 0 29 false with }, none)
    ∧ (linkWith .locked 2 0 0 false).planRequest.2 = some .cameraLost
    ∧ (linkWith .locked 1 0 0 false).planRequest.2 = none
    ∧ (linkWith .lost 3 1 0 true).planRequest.2 = some .cameraBack
    ∧ (linkWith .lost 3 0 0 true).planRequest.2 = none
    ∧ (linkWith .idle 0 0 0 true).planRequest = (linkWith .idle 0 0 0 true, none) := by decide +kernel

theorem test_ready_frame_is_handed_over :
    (filming.cams.links[(3 : Fin 4)].planRequest.1).slots = #v[.free, .held ⟨2#16, []⟩, .writing 3#16 []] := by decide +kernel

/-! ## The Composer -/

theorem test_plan_takes_visible_layers :
    (testTable.planNow.entries.map PlanEntry.slot) = [0, 1, 2, 20, 22] ∧ testTable.planNow.leftOut = 0
    ∧ ((withSlot testTable 1 { slotOfOwner .fitted (fillAt 1) with force := .hide }).planNow.entries.map PlanEntry.slot)
        = [0, 2, 20, 22] := by decide +kernel

/-- Thirteen layers of CAB, all visible. -/
def crowded : State :=
  (List.range 13).foldl (fun s n => withSlot s (Fin.ofNat 24 n) (slotOfOwner (.port .cab) (fillAt n))) testRun

theorem test_plan_overflow_is_raised :
    crowded.planNow.leftOut = 1 ∧ crowded.planNow.entries.map PlanEntry.slot = [1, 2, 3, 4, 5, 6, 7, 8, 9, 10, 11, 12]
    ∧ alertCodes (crowded.takePlan false) .cab = [.planOverflow]
    ∧ alertCodes ((crowded.takePlan false).takePlan false) .cab = [.planOverflow]
    ∧ (filming.planNow.answers[(3 : Fin 4)]).held = some (0, 1#16) ∧ (filming.planNow.answers[(0 : Fin 4)]).held = none := by
  decide +kernel

set_option synthInstance.maxHeartbeats 1000000 in
set_option synthInstance.maxSize 4000 in
theorem test_table_keeps_its_stack :
    (∀ i j : Fin 24, i ≠ j → testTable.ltb.slots[i].Shows → testTable.ltb.slots[j].Shows →
      testTable.ltb.slots[i].active.z ≠ testTable.ltb.slots[j].active.z)
    ∧ (∀ i j : Fin 24, testTable.ltb.slots[i].Shows → testTable.ltb.slots[j].Shows →
      testTable.ltb.slots[i].active.cls = .safety → testTable.ltb.slots[j].active.cls = .ordinary →
      testTable.ltb.slots[j].active.z < testTable.ltb.slots[i].active.z)
    ∧ testTable.ltb.safetyLayers ≤ 8 := by decide +kernel

/-- A scene of a plan taken from a table, in which no camera has answered. -/
def testScene : Scene := ⟨testTable.planNow, testTable.cams.links, testTable.ovm⟩

/-- A BITMAP entry of slot 0 over region 1, 16 by 8 at the canvas corner. -/
def bitmapEntry : PlanEntry :=
  ⟨0, { fillAt 0 with destW := 16, part := .bitmap ⟨1, 16, 8, none⟩ }, .port .cab, .none⟩

/-- Region 1 VALID, its first word written and in error. -/
def bitmapState (error : BitError) : State :=
  testRegions.setOvm { testRegions.ovm with
    memory := (List.range 8).map (fun i => (16384 + i, 0x12#8)), errors := [⟨2048, error⟩] }

theorem test_picture :
    blend 15 ⟨1#8, 2#8, 3#8⟩ ⟨9#8, 9#8, 9#8⟩ = ⟨1#8, 2#8, 3#8⟩
    ∧ blend 5 ⟨255#8, 0#8, 30#8⟩ ⟨0#8, 255#8, 0#8⟩ = ⟨85#8, 170#8, 10#8⟩
    ∧ testScene.ownPixel { fillAt 0 with part := .camera markerCamera } 8 0 0 = some defaultPalette[1]
    ∧ testScene.ownPixel { fillAt 0 with part := .guide ⟨15, 2, []⟩ } 8 0 0 = none
    ∧ testScene.pixel [] 0 0 = defaultPalette[0]
    ∧ testScene.ownPixel bitmapEntry.record 0 0 0 = none := by decide +kernel

/-- A LOCKED camera 3 whose slot 0 is HELD with one line of a grey, and a marker on its picture. -/
def filmed (near : Bool) (frame : Word16) : Scene :=
  ⟨{ testRun.planNow with
      frame := frame
      markers := [⟨3, 3, 2, 240, 8, 8, .pedestrian, 100, 9, 0, near⟩]
      answers := testRun.planNow.answers.set 3 ⟨.locked, some (0, 1#16)⟩ },
    testRun.cams.links.set 3 { CameraLink.atReset true with
      slots := #v[.held ⟨1#16, List.replicate 241 [⟨7#8, 7#8, 7#8⟩]⟩, .free, .free] }, testRun.ovm⟩

/-- A layer of that camera, dest 640 by 360 at the corner, not mirrored. -/
def filmedLayer : LayerRecord :=
  { LayerRecord.empty with destW := 640, destH := 360, part := .camera ⟨3, 0, 240, 1280, 720, false, true⟩ }

theorem test_camera_pixels :
    (filmed false 0#16).ownPixel filmedLayer 8 1 0 = some defaultPalette[12]
    ∧ (filmed true 4#16).ownPixel filmedLayer 8 0 0 = some ⟨7#8, 7#8, 7#8⟩
    ∧ (filmed false 0#16).ownPixel filmedLayer 8 0 0 = some ⟨7#8, 7#8, 7#8⟩
    ∧ (filmed true 3#16).ownPixel filmedLayer 8 4 3 = some defaultPalette[12]
    ∧ (filmed false 0#16).ownPixel { filmedLayer with part := .camera ⟨2, 0, 240, 1280, 720, false, true⟩ } 8 1 0
        = some defaultPalette[1] := by decide +kernel

theorem test_lines_outside_picture :
    decide (({ testRun with cmp := { testRun.cmp with output := .off } } : State).drawLine 5 = { testRun with cmp := { testRun.cmp with output := .off } }) = true
    ∧ decide ((({ testQuiet with cmp := { testQuiet.cmp with output := .black } } : State).drawLine 5).links.display
        = .line 5 (List.replicate 1280 black)) = true
    ∧ (testRun.cmp.output = .picture ∧ testRun.planNow.entries = []) := by decide +kernel

theorem test_bitmap_reads :
    (bitmapState .double).ovm.readCheck 2048 = .double
    ∧ decide (((bitmapState .double).readEntry 0 bitmapEntry).2 = 0) = true
    ∧ ((bitmapState .double).readEntry 0 bitmapEntry).1.ovm.regions[(1 : Fin 16)] = some ⟨4, 2, .cab, .faulted 0#32⟩
    ∧ ((bitmapState .double).readEntry 0 bitmapEntry).1.cmp.stopped = [0]
    ∧ ((bitmapState .single).readEntry 0 bitmapEntry).2 = 16
    ∧ ((bitmapState .single).readEntry 0 bitmapEntry).1.ovm.corrected = 1
    ∧ bitmapPixel (bitmapState .single).ovm testScene.plan ⟨1, 16, 8, some 1⟩ 16 0 0 = none
    ∧ bitmapPixel (bitmapState .single).ovm testScene.plan ⟨1, 16, 8, some 1⟩ 16 1 0 = some defaultPalette[2] := by
  decide +kernel

/-- A BITMAP entry of two words a line. -/
def wideEntry : PlanEntry :=
  ⟨0, { fillAt 0 with destW := 32, part := .bitmap ⟨1, 32, 8, none⟩ }, .port .cab, .none⟩

/-- Region 1 VALID, its first two words written and each in error. -/
def wideState (first second : BitError) : State :=
  testRegions.setOvm { testRegions.ovm with
    memory := (List.range 16).map (fun i => (16384 + i, 0x12#8)), errors := [⟨2048, first⟩, ⟨2049, second⟩], corrected := 254 }

theorem test_reads_correct_single_errors :
    (wideState .single .single).MemoryGood ∧ ((wideState .single .single).readEntry 0 wideEntry).2 = 32
    ∧ ((wideState .single .single).readEntry 0 wideEntry).1.ovm.corrected = 255
    ∧ ((wideState .single .single).readEntry 0 wideEntry).1.ovm.errors = []
    ∧ ((wideState .single .double).readEntry 0 wideEntry).2 = 16
    ∧ ((wideState .single .double).readEntry 0 wideEntry).1.ovm.corrected = 255
    ∧ ((wideState .single .double).readEntry 0 wideEntry).1.cmp.stopped = [0]
    ∧ next (exec (.verificationEnd []) (verifying 1#8 [⟨0, .single⟩])) (fun t =>
        decide (t.ovm.corrected = 1 ∧ t.ovm.readCheck 0 = .clean)) = true := by decide +kernel

/-! ## The invariants hold somewhere and a step is taken there -/

/-- A state with work of every kind: CAB's set pending, a load, a marker, frames, written memory. -/
def testBusy : State :=
  { testPending with
    ovm := { (loading 4 (.receiving 9)).ovm with memory := [(0, 1#8), (1, 2#8)] }
    mkm := ⟨[markerOf 3 2 true, markerOf 200 60 false], 150⟩
    scn := { testRun.scn with near := true }
    cams := filming.cams
    pending := [.lineEnd calm firstOrder, .commit .body] }

/-- Every item of a vector of options, checked index by index. -/
theorem all_regions {v : Vector (Option Region) 16} {P : Fin 16 → Region → Prop}
    (h : ∀ g : Fin 16, ∀ r ∈ v[g], P g r) : ∀ g : Fin 16, ∀ r : Region, v[g] = some r → P g r := h

theorem test_busy_plain_invariants :
    testBusy.ftb.Good ∧ testBusy.PortsGood ∧ testBusy.MemoryGood ∧ testBusy.ltb.SafetyOwned ∧ testBusy.MarkersGood
    ∧ testBusy.CamerasGood ∧ testBusy.OutputGood ∧ testBusy.ltb.UnownedGood := by decide +kernel

set_option synthInstance.maxHeartbeats 1000000 in
set_option synthInstance.maxSize 4000 in
theorem test_busy_table : testBusy.TableGood := by
  refine ⟨by decide +kernel, by decide +kernel, ⟨?_, ?_⟩, by decide +kernel⟩
  · intro p x hx
    cases p
    · cases hx
    · cases hx
    · obtain rfl : (⟨9#4, [0]⟩ : PendingSet) = x := Option.some.inj hx
      decide +kernel
  · have h : ∀ i : Fin 24, testBusy.ltb.slots[i].status = .pending →
        testBusy.ltb.slots[i].owner = .port .cab ∧ i ∈ [(0 : Fin 24)] := by decide +kernel
    intro i hi
    exact ⟨.cab, ⟨9#4, [0]⟩, (h i hi).1, rfl, (h i hi).2⟩

theorem test_busy_regions : testBusy.ovm.RegionsGood ∧ testBusy.ovm.RegionsApart := by
  refine ⟨all_regions (by decide +kernel), fun g h r t hgh hg ht => ?_⟩
  have k : ∀ g h : Fin 16, g ≠ h → ∀ r ∈ testBusy.ovm.regions[g], ∀ t ∈ testBusy.ovm.regions[h],
      r.first + r.count ≤ t.first ∨ t.first + t.count ≤ r.first := by decide +kernel
  exact k g h hgh r hg t ht

theorem test_busy_jobs : testBusy.ovm.JobsGood := by
  have only : ∀ p j, testBusy.ovm.jobs.get p = some j → p = .cab ∧ cabJob 4 (.receiving 9) = j := by
    intro p j h
    cases p
    · cases h
    · cases h
    · exact ⟨rfl, Option.some.inj h⟩
  refine ⟨?_, ?_, ?_⟩
  · intro p j h
    obtain ⟨rfl, rfl⟩ := only p j h
    exact ⟨⟨0, 4, .cab, .loading⟩, by decide +kernel, rfl, rfl, by decide +kernel, by decide +kernel⟩
  · have k : ∀ g : Fin 16, ∀ r ∈ testBusy.ovm.regions[g], r.content = .loading → r.owner = .cab ∧ g = 0 := by
      decide +kernel
    intro g r hg hc
    obtain ⟨h1, rfl⟩ := k g r hg hc
    exact ⟨cabJob 4 (.receiving 9), by rw [h1]; rfl, rfl⟩
  · rintro p q ⟨j, hj, -⟩ ⟨k, hk, -⟩
    rw [(only p j hj).1, (only q k hk).1]

/-- The load engine's relations hold with one job RECEIVING and another waiting. -/
theorem test_two_jobs_are_good : twoJobs.EngineGood := by
  have only : ∀ p j, twoJobs.ovm.jobs.get p = some j →
      (p = .cab ∧ cabJob 4 (.receiving 1) = j) ∨ (p = .body ∧ (⟨1, 9, 0#32, 0, 0#8, .suspended, true⟩ : Job) = j) := by
    intro p j h
    cases p
    · exact .inr ⟨rfl, Option.some.inj h⟩
    · cases h
    · exact .inl ⟨rfl, Option.some.inj h⟩
  have apart : ∀ g h : Fin 16, g ≠ h → ∀ r ∈ twoJobs.ovm.regions[g], ∀ t ∈ twoJobs.ovm.regions[h],
      r.first + r.count ≤ t.first ∨ t.first + t.count ≤ r.first := by decide +kernel
  have named : ∀ g : Fin 16, ∀ r ∈ twoJobs.ovm.regions[g], r.content = .loading →
      (r.owner = .cab ∧ g = 0) ∨ (r.owner = .body ∧ g = 1) := by decide +kernel
  refine ⟨all_regions (by decide +kernel), fun g h r t hgh hg ht => apart g h hgh r hg t ht, ⟨?_, ?_, ?_⟩,
    by decide +kernel⟩
  · intro p j h
    rcases only p j h with ⟨rfl, rfl⟩ | ⟨rfl, rfl⟩
    · exact ⟨⟨0, 4, .cab, .loading⟩, by decide +kernel, rfl, rfl, by decide +kernel, by decide +kernel⟩
    · exact ⟨⟨4, 2, .body, .loading⟩, by decide +kernel, rfl, rfl, by decide +kernel, by decide +kernel⟩
  · intro g r hg hc
    rcases named g r hg hc with ⟨h1, rfl⟩ | ⟨h1, rfl⟩
    · exact ⟨cabJob 4 (.receiving 1), by rw [h1]; rfl, rfl⟩
    · exact ⟨⟨1, 9, 0#32, 0, 0#8, .suspended, true⟩, by rw [h1]; rfl, rfl⟩
  · have place : ∀ p, twoJobs.ovm.holdsPlace p → p = .cab := by
      rintro p ⟨j, hj, h⟩
      rcases only p j hj with ⟨rfl, rfl⟩ | ⟨rfl, rfl⟩
      · rfl
      · cases h
    intro p q hp hq
    rw [place p hp, place q hq]

/-- A state that keeps every invariant, and a step from it. -/
theorem test_busy_state_is_good : testBusy.Good ∧ ∃ t, step testBusy = .next t := by
  obtain ⟨h1, h2, h3, h4, h5, h6, h7, h8⟩ := test_busy_plain_invariants
  exact ⟨⟨h1, h2, h3, test_busy_table, h4, h5,
    ⟨test_busy_regions.1, test_busy_regions.2, test_busy_jobs, by decide +kernel⟩, h6, h7⟩, _, rfl⟩

end Sys2Proof.Machine
end

/-! Staging and commit (chapter 2): COMMIT's request, and the resolution of a pending set. -/

namespace Sys2Proof.Machine

/-! ## COMMIT's request (R30) -/

section CommitRequest

variable (s : State) (p : Port)

/-- A COMMIT that reaches the Layer Table takes one of three ways (R30, R31). -/
theorem exec_commit_of_reaches {r : Request} (h : s.Reaches p .commit r) : exec (.commit p) s =
    if s.ltb.sets.get p ≠ none then .next (s.replied p r .busy 0#8 [])
    else if s.ltb.editedSlots p = [] then
      .next (s.replied p r .committed 0#8 (committedValues 0 s.ftb.frame))
    else .next ((s.setLtb (s.ltb.openSet p r.tag)).taken p) := by
  change execCommit p s = _
  rw [execCommit, serve_of_reaches s p h]
  simp only [State.taken_ltb, State.taken_ftb, State.taken_refuse, State.taken_answer, State.taken_setLtb,
    Option.isSome_iff_ne_none, List.isEmpty_iff]

theorem LayerTable.editedSlots_eq_filter (t : LayerTable) : t.editedSlots p = (List.finRange 24).filter (fun i =>
    decide (t.slots[i].owner = .port p ∧ t.slots[i].status = .edited)) := by
  simp only [LayerTable.editedSlots, LayerSlot.editedBy, Bool.decide_and]

theorem LayerTable.openSet_slot_mem (t : LayerTable) (tag : Tag) (i : Fin 24) : (t.openSet p tag).slots[i] =
    if i ∈ t.editedSlots p then { t.slots[i] with status := .pending } else t.slots[i] := by
  simp only [LayerTable.openSet_slot, LayerSlot.editedBy_iff, LayerTable.mem_editedSlots]

end CommitRequest

/-- Settles O35, by the three ways of `exec_commit_of_reaches`. -/
theorem commitOpensSet : Obligations.CommitOpensSet := by
  intro p s r h edited hedited
  rw [← LayerTable.editedSlots_eq_filter] at hedited
  subst hedited
  rw [exec_commit_of_reaches s p h]
  refine ⟨fun hset => if_pos hset, fun hset hnone => ?_, fun hset hsome => ?_⟩
  · rw [if_neg (not_not.mpr hset), if_pos hnone]
    rfl
  · rw [if_neg (not_not.mpr hset), if_neg hsome]
    exact ⟨_, rfl, LayerTable.openSet_sets _ _ _, LayerTable.openSet_slot_mem _ _ _⟩

/-! ## The resolution of a pending set (R34, R40, R41) -/

/-- The table and the port after a set's resolution, the reply written out (R40, R41, R164, R165). -/
theorem State.post_commitReply (s : State) (t : LayerTable) (p : Port) (tag : Tag) (result : ResultCode)
    (values : List Byte) : (s.setLtb t).post p (commitReply tag result values) =
    (s.setLtb t).setPorts (s.ports.set p
      { s.ports.get p with
        replies := (s.ports.get p).replies ++ [⟨(s.ports.get p).nextStamp, ⟨tag, 0x24#8, result, 0#8, values⟩⟩]
        nextStamp := (s.ports.get p).nextStamp + 1 }) := rfl

/-- COMMITTED's values: the count and the number of the first frame (R30, R40). -/
theorem committedValues_eq (count : Nat) (frame : Word16) :
    committedValues count frame = byte count :: le 2 (frame + 1#16).toNat := by
  rw [committedValues, frameBytes]

/-- Settles O36, by `State.resolveSet_cases`: no set, a set applied whole, or a set refused. -/
theorem commitSetIsAllOrNothing : Obligations.CommitSetIsAllOrNothing := by
  refine ⟨fun s => rfl, fun p s => ⟨fun hnone => ?_, fun x hx verdict hverdict => ?_⟩⟩
  · obtain ⟨-, h⟩ | ⟨x, hx, -⟩ := s.resolveSet_cases p
    · exact h
    · rw [hnone] at hx; cases hx
  · obtain ⟨hnone, -⟩ | ⟨y, hy, hcases⟩ := s.resolveSet_cases p
    · rw [hx] at hnone; cases hnone
    obtain rfl : x = y := Option.some.inj (hx.symm.trans hy)
    rw [hverdict]
    obtain ⟨hpass, h⟩ | ⟨i, code, hfail, h⟩ := hcases
    · refine ⟨s.ltb.applySet p x.members, .committed, committedValues x.members.length s.ftb.frame,
        h.trans (s.post_commitReply _ p _ _ _), LayerTable.applySet_sets _ _ _, fun i hi => ?_,
        fun _ => ⟨rfl, committedValues_eq _ _, fun i hi => ?_⟩, fun i code hfail => ?_⟩
      · rw [LayerTable.applySet_slot, if_neg hi]
      · rw [LayerTable.applySet_slot, if_pos hi]
      · rw [hpass] at hfail; cases hfail
    · refine ⟨s.ltb.refuseSet p x.members, .commitRefused, [byte i.val, byte code.number],
        h.trans (s.post_commitReply _ p _ _ _), LayerTable.refuseSet_sets _ _ _, fun j hj => ?_,
        fun hpass => ?_, fun j c hjc => ?_⟩
      · rw [LayerTable.refuseSet_slot, if_neg hj]
      · rw [hfail] at hpass; cases hpass
      · obtain ⟨rfl, rfl⟩ : i = j ∧ code = c := by simpa [hfail] using hjc
        exact ⟨rfl, rfl, fun j hj => by rw [LayerTable.refuseSet_slot, if_pos hj]⟩

end Sys2Proof.Machine

/-! The checks of a commit (section 2.3): a member fails the first of the ten checks of R39 that does not hold, a set
fails with its first failing member. -/

namespace Sys2Proof.Machine

/-! ## The ten checks, one by one (R39, R42 to R44) -/

section Checks

/-- The detail codes in the order of R39. -/
def detailCodes : List DetailCode :=
  [.geometry, .crop, .scale, .segment, .cameraAbsent, .regionNotValid, .bitmapSize, .zConflict, .zOrder, .safetyCount]

theorem mem_detailCodes (code : DetailCode) : code ∈ detailCodes := by cases code <;> decide

theorem detailCodes_ascending : detailCodes.Pairwise (fun a b => a.number < b.number) := by decide

variable (present : Vector Bool 4) (regions : Vector (Option Region) 16) (table : Vector Candidate 24)

/-- Whether member `i`, of record `r`, fails one of the checks, each taken alone (R42 to R44). -/
def recordFails (i : Fin 24) (r : LayerRecord) : DetailCode → Bool
  | .geometry => !geometryHolds r
  | .crop => match r.part with
    | .camera c => !cropHolds c
    | .bitmap _ | .guide _ | .fill _ => false
  | .scale => match r.part with
    | .camera c => !scaleHolds r c
    | .bitmap _ | .guide _ | .fill _ => false
  | .segment => match r.part with
    | .guide g => !segmentsHold r g
    | .camera _ | .bitmap _ | .fill _ => false
  | .cameraAbsent => match r.part with
    | .camera c => !present[c.camera]
    | .bitmap _ | .guide _ | .fill _ => false
  | .regionNotValid => match r.part with
    | .bitmap b => !regions[b.region].any Region.isValid
    | .camera _ | .guide _ | .fill _ => false
  | .bitmapSize => match r.part with
    | .bitmap b => regions[b.region].any (fun g => decide (g.count * 8192 < b.width * b.height))
    | .camera _ | .guide _ | .fill _ => false
  | .zConflict => r.enabled && zTaken table i r.z
  | .zOrder => r.enabled && zOutOfOrder table r.cls r.z
  | .safetyCount => r.enabled && decide (r.cls = .safety ∧ 8 < safetyCount table)

/-- The whole-table checks are the last three of R39. -/
theorem tableFailure_eq_find (i : Fin 24) : tableFailure table i =
    [DetailCode.zConflict, .zOrder, .safetyCount].find? (recordFails present regions table i table[i].record) := by
  rw [tableFailure]
  generalize table[i].record = r
  simp only [List.find?_cons, List.find?_nil, recordFails]
  cases r.enabled
  · rfl
  · cases zTaken table i r.z
    · cases zOutOfOrder table r.cls r.z
      · by_cases h : r.cls = .safety ∧ 8 < safetyCount table
        · rw [if_pos h, decide_eq_true h]; rfl
        · rw [if_neg h, decide_eq_false h]; rfl
      · rfl
    · rfl

/-- The checks of a kind part are the six of R39 between GEOMETRY and the whole-table checks. -/
theorem partFailure_eq_find (i : Fin 24) (r : LayerRecord) : partFailure present regions r =
    [DetailCode.crop, .scale, .segment, .cameraAbsent, .regionNotValid, .bitmapSize].find?
      (recordFails present regions table i r) := by
  simp only [partFailure, List.find?_cons, List.find?_nil, recordFails]
  cases r.part with
  | camera c =>
    dsimp only
    cases cropHolds c <;> cases scaleHolds r c <;> cases present[c.camera] <;> rfl
  | guide g =>
    dsimp only
    cases segmentsHold r g <;> rfl
  | bitmap b =>
    dsimp only
    cases regions[b.region] with
    | none => rfl
    | some g =>
      by_cases hs : g.count * 8192 < b.width * b.height <;> cases hv : g.isValid <;> simp [hv, hs]
  | fill k => rfl

/-- A member's failure is the first of the ten checks, in the order of R39, that it fails. -/
theorem memberFailure_eq_find (i : Fin 24) : memberFailure present regions table i =
    detailCodes.find? (recordFails present regions table i table[i].record) := by
  have order : detailCodes = .geometry :: ([.crop, .scale, .segment, .cameraAbsent, .regionNotValid, .bitmapSize]
    ++ [.zConflict, .zOrder, .safetyCount]) := rfl
  rw [memberFailure, order, List.find?_cons, List.find?_append, ← partFailure_eq_find,
    ← tableFailure_eq_find, recordFails]
  cases geometryHolds table[i].record
  · rfl
  · cases partFailure present regions table[i].record <;> rfl

theorem memberFailure_eq_none (i : Fin 24) : memberFailure present regions table i = none ↔
    ∀ code, ¬ recordFails present regions table i table[i].record code = true := by
  rw [memberFailure_eq_find, List.find?_eq_none]
  exact ⟨fun h code => h code (mem_detailCodes code), fun h code _ => h code⟩

theorem memberFailure_eq_some (i : Fin 24) (code : DetailCode) : memberFailure present regions table i = some code ↔
    recordFails present regions table i table[i].record code = true
      ∧ ∀ c : DetailCode, c.number < code.number → ¬ recordFails present regions table i table[i].record c = true := by
  rw [memberFailure_eq_find]
  constructor
  · intro h
    obtain ⟨hfails, before, after, happ, hbefore⟩ := List.find?_eq_some_iff_append.mp h
    refine ⟨hfails, fun c hlt => ?_⟩
    have hasc := detailCodes_ascending
    have hc := mem_detailCodes c
    rw [happ] at hasc hc
    obtain hc | rfl | hc : c ∈ before ∨ c = code ∨ c ∈ after := by simpa using hc
    · simpa using hbefore c hc
    · exact absurd hlt (lt_irrefl _)
    · have hgt := (List.pairwise_cons.mp (List.pairwise_append.mp hasc).2.1).1 c hc
      omega
  · rintro ⟨hfails, hfirst⟩
    obtain ⟨before, after, happ⟩ := List.append_of_mem (mem_detailCodes code)
    refine List.find?_eq_some_iff_append.mpr ⟨hfails, before, after, happ, fun c hc => ?_⟩
    have hasc := detailCodes_ascending
    rw [happ] at hasc
    have hlt := (List.pairwise_append.mp hasc).2.2 c hc code List.mem_cons_self
    simpa using hfirst c hlt

/-- A set's failure is that of its first failing member (R39). -/
theorem setFailure_eq_findSome (ms : List (Fin 24)) : setFailure present regions table ms =
    ms.findSome? (fun i => (memberFailure present regions table i).map (fun code => (i, code))) := by
  induction ms with
  | nil => rfl
  | cons i ms ih =>
    rw [setFailure, List.findSome?_cons, ih]
    cases memberFailure present regions table i <;> rfl

theorem setFailure_eq_some (ms : List (Fin 24)) (i : Fin 24) (code : DetailCode) :
    setFailure present regions table ms = some (i, code) ↔ ∃ before after, ms = before ++ i :: after
      ∧ (∀ j ∈ before, memberFailure present regions table j = none)
      ∧ memberFailure present regions table i = some code := by
  simp only [setFailure_eq_findSome, List.findSome?_eq_some_iff, Option.map_eq_some_iff, Option.map_eq_none_iff,
    Prod.mk.injEq]
  constructor
  · rintro ⟨before, _, after, happ, ⟨_, hcode, rfl, rfl⟩, hbefore⟩
    exact ⟨before, after, happ, hbefore, hcode⟩
  · rintro ⟨before, after, happ, hbefore, hcode⟩
    exact ⟨before, i, after, happ, ⟨code, hcode, rfl, rfl⟩, hbefore⟩

/-! ## Each check as the rule states it (R42 to R44) -/

theorem geometryHolds_iff (r : LayerRecord) :
    geometryHolds r = true ↔ r.destX + r.destW ≤ 1280 ∧ r.destY + r.destH ≤ 720 := by
  simp only [geometryHolds, Bool.and_eq_true, decide_eq_true_eq]

theorem cropHolds_iff (c : CameraPart) :
    cropHolds c = true ↔ c.cropX + c.cropW ≤ 1280 ∧ c.cropY + c.cropH ≤ 960 := by
  simp only [cropHolds, Bool.and_eq_true, decide_eq_true_eq]

theorem scaleHolds_iff (r : LayerRecord) (c : CameraPart) : scaleHolds r c = true ↔
    c.cropW ≤ 4 * r.destW ∧ r.destW ≤ 2 * c.cropW ∧ c.cropH ≤ 4 * r.destH ∧ r.destH ≤ 2 * c.cropH := by
  simp only [scaleHolds, Bool.and_eq_true, decide_eq_true_eq, and_assoc]

theorem segmentsHold_iff (r : LayerRecord) (g : GuidePart) : segmentsHold r g = true ↔
    ∀ x ∈ g.segments, x.x0 < r.destW ∧ x.x1 < r.destW ∧ x.y0 < r.destH ∧ x.y1 < r.destH := by
  simp only [segmentsHold, List.all_eq_true, Bool.and_eq_true, decide_eq_true_eq, and_assoc]

theorem Region.isValid_iff (g : Region) : g.isValid = true ↔ ∃ crc, g.content = .valid crc := by
  unfold Region.isValid
  cases g.content <;> simp

theorem Candidate.counts_iff (c : Candidate) : c.counts = true ↔ c.record.enabled = true ∧ c.owner ≠ .none := by
  simp only [Candidate.counts, Bool.and_eq_true, Owner.isOwned_iff]

theorem zTaken_iff (i : Fin 24) (z : Nat) :
    zTaken table i z = true ↔ ∃ j, j ≠ i ∧ table[j].counts = true ∧ table[j].record.z = z := by
  simp only [zTaken, List.any_eq_true, List.mem_finRange, true_and, Bool.and_eq_true, decide_eq_true_eq, and_assoc]

theorem zOutOfOrder_iff (cls : LayerClass) (z : Nat) : zOutOfOrder table cls z = true ↔
    ∃ j : Fin 24, table[j].counts = true ∧ ((cls = .safety ∧ table[j].record.cls = .ordinary ∧ z ≤ table[j].record.z)
      ∨ (cls = .ordinary ∧ table[j].record.cls = .safety ∧ table[j].record.z ≤ z)) := by
  cases cls <;>
    simp only [zOutOfOrder, vector_any, Bool.and_eq_true, decide_eq_true_eq, and_assoc, reduceCtorEq, false_and,
      true_and, or_false, false_or]

theorem vector_toList_eq_map {α : Type} {n : Nat} (v : Vector α n) :
    v.toList = (List.finRange n).map (fun i => v[i]) := by
  apply List.ext_getElem <;> simp

/-- A filter of a vector's items is as long as that of their positions. -/
theorem length_filter_toList {α : Type} {n : Nat} (v : Vector α n) (P : α → Bool) :
    (v.toList.filter P).length = ((List.finRange n).filter (fun i => P v[i])).length := by
  rw [vector_toList_eq_map, List.filter_map, List.length_map]
  rfl

theorem safetyCount_gt_iff (n : Nat) : n < safetyCount table ↔ ∃ js : List (Fin 24), js.Nodup ∧ n < js.length
    ∧ ∀ j ∈ js, table[j].counts = true ∧ table[j].record.cls = .safety := by
  rw [safetyCount, length_filter_toList]
  constructor
  · intro h
    exact ⟨_, (List.nodup_finRange 24).filter _, h, fun j hj => by simpa using hj⟩
  · rintro ⟨js, hnodup, hlen, hjs⟩
    exact lt_of_lt_of_le hlen (hnodup.subperm fun j hj => by simpa using hjs j hj).length_le

end Checks

/-- What it is to fail each check, in the words of R42 to R44. -/
theorem recordFails_iff (present : Vector Bool 4) (regions : Vector (Option Region) 16) (table : Vector Candidate 24)
    (i : Fin 24) (r : LayerRecord) (code : DetailCode) :
    recordFails present regions table i r code = true ↔ match code with
      | .geometry => ¬ (r.destX + r.destW ≤ 1280 ∧ r.destY + r.destH ≤ 720)
      | .crop => ∃ c, r.part = .camera c ∧ ¬ (c.cropX + c.cropW ≤ 1280 ∧ c.cropY + c.cropH ≤ 960)
      | .scale => ∃ c, r.part = .camera c ∧ ¬ (c.cropW ≤ 4 * r.destW ∧ r.destW ≤ 2 * c.cropW
          ∧ c.cropH ≤ 4 * r.destH ∧ r.destH ≤ 2 * c.cropH)
      | .segment => ∃ g, r.part = .guide g ∧ ¬ ∀ x ∈ g.segments, x.x0 < r.destW ∧ x.x1 < r.destW ∧ x.y0 < r.destH
          ∧ x.y1 < r.destH
      | .cameraAbsent => ∃ c, r.part = .camera c ∧ present[c.camera] = false
      | .regionNotValid => ∃ b, r.part = .bitmap b ∧ ∀ g crc, regions[b.region] = some g → g.content ≠ .valid crc
      | .bitmapSize => ∃ b g, r.part = .bitmap b ∧ regions[b.region] = some g ∧ g.count * 8192 < b.width * b.height
      | .zConflict => r.enabled = true ∧ ∃ j, j ≠ i ∧ table[j].counts = true ∧ table[j].record.z = r.z
      | .zOrder => r.enabled = true ∧ ∃ j : Fin 24, table[j].counts = true
          ∧ ((r.cls = .safety ∧ table[j].record.cls = .ordinary ∧ r.z ≤ table[j].record.z)
            ∨ (r.cls = .ordinary ∧ table[j].record.cls = .safety ∧ table[j].record.z ≤ r.z))
      | .safetyCount => r.enabled = true ∧ r.cls = .safety ∧ ∃ js : List (Fin 24), js.Nodup ∧ 8 < js.length
          ∧ ∀ j ∈ js, table[j].counts = true ∧ table[j].record.cls = .safety := by
  cases code with
  | geometry => simp only [recordFails, ← geometryHolds_iff, Bool.not_eq_true', Bool.not_eq_true]
  | crop => cases h : r.part <;> simp [recordFails, h, ← cropHolds_iff]
  | scale => cases h : r.part <;> simp [recordFails, h, ← scaleHolds_iff]
  | segment => cases h : r.part <;> simp [recordFails, h, ← Bool.not_eq_true, segmentsHold_iff]
  | cameraAbsent => cases h : r.part <;> simp [recordFails, h]
  | regionNotValid =>
    cases h : r.part with
    | bitmap b =>
      simp [recordFails, h, ← Bool.not_eq_true, Option.any_eq_true, Region.isValid_iff, imp_forall_iff,
        -Fin.getElem_fin]
    | _ => simp [recordFails, h]
  | bitmapSize =>
    cases h : r.part with
    | bitmap b => simp [recordFails, h, Option.any_eq_true, -Fin.getElem_fin]
    | _ => simp [recordFails, h]
  | zConflict => simp only [recordFails, Bool.and_eq_true, zTaken_iff]
  | zOrder => simp only [recordFails, Bool.and_eq_true, zOutOfOrder_iff]
  | safetyCount => simp only [recordFails, Bool.and_eq_true, decide_eq_true_eq, safetyCount_gt_iff]

/-- Settles O37: the verdict is the first check that fails (`memberFailure_eq_some`), of the first member that fails
one (`setFailure_eq_some`), and each check is its rule's (`recordFails_iff`). -/
theorem commitChecksHold : Obligations.CommitChecksHold := by
  refine ⟨rfl, fun present regions table members counts fails hcounts hfails => ?_⟩
  have hc : ∀ j, table[j].counts = true ↔ counts j := fun j => (Candidate.counts_iff _).trans (hcounts j).symm
  have hf : ∀ i code, recordFails present regions table i table[i].record code = true ↔ fails i code := by
    intro i code
    rw [recordFails_iff, hfails]
    cases code <;> simp only [hc, exists_eq_left]
  refine ⟨?_, fun i code => ?_, fun t j => ?_⟩
  · simp only [setFailure_none, memberFailure_eq_none, hf]
  · simp only [setFailure_eq_some, memberFailure_eq_none, memberFailure_eq_some, hf]
  · simp only [LayerTable.candidates_get]
    exact ⟨trivial, fun h => if_pos h, fun h => if_neg h⟩

end Sys2Proof.Machine

/-! A step of the timebase (R51): the events of a counter value other than 0, block by block, and LINE_END. -/

namespace Sys2Proof.Machine

/-! ## The events of one counter value (R51, R53) -/

section LineEvents

variable (s : State) (starting recHold : Bool) (o : LineOrder)

/-- STARTING, LOCKED or LOST with the power-off timer stopped (R73). -/
theorem CameraLink.takesFrames_iff (x : CameraLink) : x.takesFrames = true ↔
    x.link ∈ [LinkState.starting, .locked, .lost] ∧ x.powerOff = none := by
  have active : x.link.isActive = true ↔ x.link ∈ [LinkState.starting, .locked, .lost] := by
    cases x.link <;> decide
  simp only [CameraLink.takesFrames, Bool.and_eq_true, active, Option.isNone_iff_eq_none]

theorem State.strobes_iff (k : Fin 4) : s.strobes k = true ↔ s.ftb.strobes[k] = s.ftb.line
    ∧ s.cams.links[k].link ∈ [LinkState.starting, .locked, .lost] ∧ s.cams.links[k].powerOff = none := by
  simp only [State.strobes, Bool.and_eq_true, decide_eq_true_eq, CameraLink.takesFrames_iff]

/-- Entering QUIET or RUN keeps a link present or absent (R82, R83). -/
theorem CameraLink.enterQuiet_absent (x : CameraLink) : x.enterQuiet.link = .absent ↔ x.link = .absent := by
  unfold CameraLink.enterQuiet
  cases h : x.link <;> simp [h, LinkState.isActive]

theorem CameraLink.enterRun_absent (x : CameraLink) : x.enterRun.link = .absent ↔ x.link = .absent := by
  unfold CameraLink.enterRun
  cases h : x.link <;> simp [h]

theorem Cameras.mapLinks_presence (c : Cameras) (f : CameraLink → CameraLink)
    (h : ∀ x, (f x).link = .absent ↔ x.link = .absent) : (c.mapLinks f).presence = c.presence := by
  have present : (c.mapLinks f).isPresent = c.isPresent := by
    funext k
    simp only [Cameras.isPresent, Cameras.mapLinks_link, ne_eq, h]
  rw [Cameras.presence, present, Cameras.presence]

/-- The tests at BLANK leave the cameras, or move them all into QUIET or into RUN (R174, R176, R177). -/
theorem State.blankTest_cams (b : Bool) : (s.blankTest b).cams = s.cams
    ∨ (s.blankTest b).cams = s.cams.mapLinks CameraLink.enterQuiet
    ∨ (s.blankTest b).cams = s.cams.mapLinks CameraLink.enterRun := by
  unfold State.blankTest
  cases s.stc.part with
  | run =>
    dsimp only
    unfold State.entryTest
    split
    · exact .inl rfl
    · split_ifs
      · exact .inl rfl
      · exact .inl rfl
      · exact .inr (.inl (by simp [State.enterQuiet]))
  | quiet =>
    dsimp only
    unfold State.exitTest
    split
    · exact .inl rfl
    · exact .inr (.inr (by simp))
  | boot => exact .inl rfl
  | dormant => exact .inl rfl

theorem State.blankTest_presence (b : Bool) : (s.blankTest b).cams.presence = s.cams.presence := by
  obtain h | h | h := s.blankTest_cams b <;> rw [h]
  · exact Cameras.mapLinks_presence _ _ CameraLink.enterQuiet_absent
  · exact Cameras.mapLinks_presence _ _ CameraLink.enterRun_absent

/-- BLANK makes no camera present or absent, so the COMMIT event's checks do not see it (R43, R53). -/
theorem State.blank_presence : (s.blank o).cams.presence = s.cams.presence := by
  unfold State.blank
  split <;> simp [State.blankTest_presence]

/-- The table a set's resolution leaves depends on the table, the cameras present and the regions alone (R38, R43). -/
theorem State.resolveSet_ltb_reads {s t : State} (p : Port) (hl : s.ltb = t.ltb)
    (hc : s.cams.presence = t.cams.presence) (hr : s.ovm.regions = t.ovm.regions) :
    (s.resolveSet p).ltb = (t.resolveSet p).ltb := by
  unfold State.resolveSet
  rw [hl, hc, hr]
  cases t.ltb.sets.get p with
  | none => exact hl
  | some x => dsimp only; split <;> rfl

theorem State.commitEvent_ltb_reads {s t : State} (hl : s.ltb = t.ltb)
    (hc : s.cams.presence = t.cams.presence) (hr : s.ovm.regions = t.ovm.regions) :
    s.commitEvent.ltb = t.commitEvent.ltb := by
  have body := State.resolveSet_ltb_reads .body hl hc hr
  have detect := State.resolveSet_ltb_reads .detect body (by simpa) (by simpa)
  exact State.resolveSet_ltb_reads .cab detect (by simpa) (by simpa)

/-- The table after the events of a line, in either order of BLANK and COMMIT (R36, R53). -/
theorem State.blankAndCommit_ltb : (s.blankAndCommit o).ltb =
    if s.ftb.line = s.ftb.commitLine then s.commitEvent.ltb else s.ltb := by
  have after : (s.blank o).commitEvent.ltb = s.commitEvent.ltb :=
    State.commitEvent_ltb_reads (s.blank_ltb o) (s.blank_presence o) (congrArg Overlay.regions (s.blank_ovm o))
  rw [State.blankAndCommit_eq]
  split_ifs <;> simp [after]

/-- The map and the signals after the events of a line (R113, R116). -/
theorem State.blankAndCommit_mkm : (s.blankAndCommit o).mkm =
    if s.ftb.line = 720 then s.ageStep.mkm else s.mkm := by
  rw [State.blankAndCommit_eq]
  split_ifs <;> simp [State.ageStep, State.setMarkers]

theorem State.blankAndCommit_scn : (s.blankAndCommit o).scn =
    if s.ftb.line = 720 then s.ageStep.scn else s.scn := by
  rw [State.blankAndCommit_eq]
  split_ifs <;> simp [State.ageStep, State.setMarkers]

/-- Away from 720, BLANK and COMMIT are the COMMIT event at the commit line (R51). -/
theorem State.blankAndCommit_off_blank (h : s.ftb.line ≠ 720) : s.blankAndCommit o =
    if s.ftb.line = s.ftb.commitLine then s.commitEvent else s := by
  rw [State.blankAndCommit_eq, if_neg h]

/-- The strobes touch nothing that COMMIT reads or writes (R53). -/
theorem State.strobe_commitEvent_ports : s.strobe.commitEvent.ports = s.commitEvent.ports :=
  (State.commitEvent_reads s.strobe_ports s.strobe_ltb (by simp) (by simp) (by simp)).1

theorem State.strobe_commitEvent_ltb : s.strobe.commitEvent.ltb = s.commitEvent.ltb :=
  State.commitEvent_ltb_reads s.strobe_ltb (by simp) (by simp)

/-! At a line drawn, and in the blanking lines. -/

/-- At a value other than 0 no TOP fires. -/
theorem State.lineEvents_of_ne_zero (h : s.ftb.line ≠ 0) : s.lineEvents starting recHold o =
    if o.strobeFirst then s.canvasLine.strobe.blankAndCommit o else (s.canvasLine.blankAndCommit o).strobe := by
  rw [State.lineEvents, if_neg h]

/-- Below 720, with the commit line in the blanking lines, a line is drawn and the strobes fire (R51). -/
theorem State.lineEvents_drawn (h0 : s.ftb.line ≠ 0) (h : s.ftb.line < 720) (hc : 720 ≤ s.ftb.commitLine) :
    s.lineEvents starting recHold o = s.canvasLine.strobe := by
  have none_fire : ∀ t : State, t.ftb = s.ftb → t.blankAndCommit o = t := by
    intro t ht
    rw [State.blankAndCommit_off_blank _ _ (by rw [ht]; omega), if_neg (by rw [ht]; omega)]
  rw [State.lineEvents_of_ne_zero _ _ _ _ h0, none_fire _ (by simp), none_fire _ (by simp), ite_self]

theorem State.canvasLine_blanking (h : 720 ≤ s.ftb.line) : s.canvasLine = s := by
  rw [State.canvasLine, if_neg (by omega), if_neg (by omega)]

/-- From 720 on nothing is drawn (R51). -/
theorem State.lineEvents_blanking (h : 720 ≤ s.ftb.line) : s.lineEvents starting recHold o =
    if o.strobeFirst then s.strobe.blankAndCommit o else (s.blankAndCommit o).strobe := by
  rw [State.lineEvents_of_ne_zero _ _ _ _ (by omega), s.canvasLine_blanking h]

/-! The blocks after the events of a value. -/

theorem State.lineEvents_ltb (hc : 720 ≤ s.ftb.commitLine) : (s.lineEvents starting recHold o).ltb =
    if s.ftb.line = s.ftb.commitLine then s.commitEvent.ltb else s.ltb := by
  by_cases h0 : s.ftb.line = 0
  · rw [s.lineEvents_top _ _ _ h0 (by omega), if_neg (by omega)]
    simp
  · by_cases h : s.ftb.line < 720
    · rw [s.lineEvents_drawn _ _ _ h0 h hc, if_neg (by omega)]
      simp
    · rw [s.lineEvents_blanking _ _ _ (by omega)]
      split <;> simp [State.blankAndCommit_ltb, State.strobe_commitEvent_ltb]

theorem State.lineEvents_mkm : (s.lineEvents starting recHold o).mkm =
    if s.ftb.line = 720 then s.ageStep.mkm else s.mkm := by
  by_cases h0 : s.ftb.line = 0
  · rw [(s.lineEvents_top_keeps _ _ _ h0).2.2.1, if_neg (by omega)]
  · rw [s.lineEvents_of_ne_zero _ _ _ h0]
    split <;> simp [State.blankAndCommit_mkm, State.ageStep, State.setMarkers]

theorem State.lineEvents_scn : (s.lineEvents starting recHold o).scn =
    if s.ftb.line = 720 then s.ageStep.scn else s.scn := by
  by_cases h0 : s.ftb.line = 0
  · rw [(s.lineEvents_top_keeps _ _ _ h0).2.1, if_neg (by omega)]
  · rw [s.lineEvents_of_ne_zero _ _ _ h0]
    split <;> simp [State.blankAndCommit_scn, State.ageStep, State.setMarkers]

/-- From 720 on the Composer, the Fitting Store, Overlay Memory, the timebase and the links but for the strobes stay
(R51, R148, R155, R156). -/
theorem State.lineEvents_blanking_keeps (h : 720 ≤ s.ftb.line) :
    (s.lineEvents starting recHold o).links =
        { s.links with strobed := (s.lineEvents starting recHold o).links.strobed }
    ∧ (s.lineEvents starting recHold o).cmp = s.cmp ∧ (s.lineEvents starting recHold o).fst = s.fst
    ∧ (s.lineEvents starting recHold o).pins = s.pins ∧ (s.lineEvents starting recHold o).ftb = s.ftb
    ∧ (s.lineEvents starting recHold o).ovm = s.ovm := by
  rw [s.lineEvents_blanking _ _ _ h]
  split
  · exact ⟨by rw [State.blankAndCommit_links]; rfl, by simp, by simp, by simp, by simp, by simp⟩
  · exact ⟨by rw [State.strobe, State.setLinks_links, State.blankAndCommit_links], by simp, by simp, by simp, by simp,
      by simp⟩

/-- Above 720 the cameras and the part state stay, and COMMIT alone posts (R36, R51). -/
theorem State.lineEvents_above (h : 720 < s.ftb.line) :
    (s.lineEvents starting recHold o).cams = s.cams ∧ (s.lineEvents starting recHold o).stc = s.stc
    ∧ (s.lineEvents starting recHold o).ports =
      if s.ftb.line = s.ftb.commitLine then s.commitEvent.ports else s.ports := by
  rw [s.lineEvents_blanking _ _ _ (by omega)]
  have off : ∀ t : State, t.ftb = s.ftb → t.blankAndCommit o =
      if s.ftb.line = s.ftb.commitLine then t.commitEvent else t := by
    intro t ht
    rw [State.blankAndCommit_off_blank _ _ (by rw [ht]; omega), ht]
  rw [off s.strobe rfl, off s rfl]
  split_ifs <;> simp [State.strobe_commitEvent_ports]

/-- Away from TOP and BLANK the cameras stay (R51). -/
theorem State.lineEvents_cams (h0 : s.ftb.line ≠ 0) (h : s.ftb.line ≠ 720) :
    (s.lineEvents starting recHold o).cams = s.cams := by
  rw [s.lineEvents_of_ne_zero _ _ _ h0, State.blankAndCommit_off_blank _ _ (by simpa using h),
    State.blankAndCommit_off_blank _ _ (by simpa using h)]
  split_ifs <;> simp

/-- A camera is strobed by its link as it was, or as the events of the value leave it (R53, R73). -/
theorem State.lineEvents_strobed (h0 : s.ftb.line ≠ 0) (k : Fin 4) (x : CameraLink)
    (hx : x = if o.strobeFirst then s.cams.links[k] else (s.lineEvents starting recHold o).cams.links[k]) :
    (s.lineEvents starting recHold o).links.strobed[k] = true ↔ s.ftb.strobes[k] = s.ftb.line
      ∧ x.link ∈ [LinkState.starting, .locked, .lost] ∧ x.powerOff = none := by
  rw [s.lineEvents_of_ne_zero _ _ _ h0] at hx ⊢
  subst hx
  cases o.strobeFirst
  · simp only [Bool.false_eq_true, if_false, State.strobe_strobed, State.strobes_iff, State.strobe_cams,
      State.blankAndCommit_ftb, State.canvasLine_ftb]
  · simp only [if_true, State.blankAndCommit_links, State.strobe_strobed, State.strobes_iff, State.canvasLine_ftb,
      State.canvasLine_cams]

end LineEvents

/-! ## LINE_END (R51) -/

section LineEnd

variable (out : Surroundings) (o : LineOrder) (s : State)

/-- The state whose events a LINE_END fires: the counter has taken its value, no load is due, the links are silent and
the memory errors have come about (R51; logs 8 and 21). -/
def State.arrived : State := (s.openStep out.upsets).setFtb (s.ftb.moveTo s.ftb.arrival)

theorem exec_lineEnd_of_running (h : s.ftb.run = .running) :
    exec (.lineEnd out o) s = .next ((s.arrived out).lineEvents false out.recHold o) := by
  change execLineEnd out o s = _
  rw [execLineEnd, h, if_neg (by decide)]
  rfl

@[simp] theorem State.arrived_ports : (s.arrived out).ports = s.ports := rfl
@[simp] theorem State.arrived_ltb : (s.arrived out).ltb = s.ltb := rfl
@[simp] theorem State.arrived_ftb : (s.arrived out).ftb = s.ftb.moveTo s.ftb.arrival := rfl
@[simp] theorem State.arrived_cams : (s.arrived out).cams = s.cams := rfl
@[simp] theorem State.arrived_scn : (s.arrived out).scn = s.scn := rfl
@[simp] theorem State.arrived_mkm : (s.arrived out).mkm = s.mkm := rfl
@[simp] theorem State.arrived_ovm : (s.arrived out).ovm = s.ovm.suffer out.upsets := rfl
@[simp] theorem State.arrived_cmp : (s.arrived out).cmp = s.cmp := rfl
@[simp] theorem State.arrived_stc : (s.arrived out).stc = s.stc := rfl
@[simp] theorem State.arrived_fst : (s.arrived out).fst = s.fst := rfl
@[simp] theorem State.arrived_pins : (s.arrived out).pins = s.pins := rfl
@[simp] theorem State.arrived_links : (s.arrived out).links = LinkOutputs.silent := rfl

theorem State.arrived_line : (s.arrived out).ftb.line = s.ftb.arrival := rfl
theorem State.arrived_commitLine : (s.arrived out).ftb.commitLine = s.ftb.commitLine := rfl

/-- The coming of a line changes nothing that COMMIT reads (R36). -/
theorem State.arrived_commitEvent : (s.arrived out).commitEvent.ports = s.commitEvent.ports
    ∧ (s.arrived out).commitEvent.ltb = s.commitEvent.ltb :=
  State.commitEvent_reads (s.arrived_ports out) (s.arrived_ltb out) (by simp) (Overlay.suffer_keeps _ _).1
    (by simp [Timebase.moveTo])

/-- A line drawn and, after line 719, the metadata record, sent once a frame (R148, R156). -/
theorem State.canvasLine_drawn (h : s.ftb.line < 720) : s.canvasLine =
    if s.ftb.line = 719 then (s.drawLine s.ftb.line).sendMetadata false else s.drawLine s.ftb.line := by
  rw [State.canvasLine, if_pos h]

/-- Drawing moves nothing that the strobes read (R73). -/
theorem State.canvasLine_strobe : s.canvasLine.strobe =
    s.canvasLine.setLinks { s.canvasLine.links with strobed := Vector.ofFn s.strobes } := by
  have same : s.canvasLine.strobes = s.strobes := by
    funext k
    simp only [State.strobes, State.canvasLine_ftb, State.canvasLine_cams]
  rw [State.strobe, same]

/-- A LINE_END that takes 1 to 719 draws that line and strobes (R51). -/
theorem exec_lineEnd_drawn (h : s.ftb.run = .running) (h1 : 1 ≤ s.ftb.arrival) (h719 : s.ftb.arrival ≤ 719)
    (hc : 720 ≤ s.ftb.commitLine) : exec (.lineEnd out o) s = .next ((s.arrived out).canvasLine.setLinks
      { (s.arrived out).canvasLine.links with strobed := Vector.ofFn (s.arrived out).strobes }) := by
  rw [exec_lineEnd_of_running out o s h, ← State.canvasLine_strobe, State.lineEvents_drawn]
  · exact Nat.ne_of_gt h1
  · exact Nat.lt_succ_of_le h719
  · exact hc

theorem State.sendMetadata_sends (early : Bool) (plan : FramePlan) (hr : s.cmp.recorder = .send)
    (hp : s.cmp.plan = some plan) (hm : s.cmp.metadataSent = false) : s.sendMetadata early =
    (s.setLinks { s.links with metadata := some (plan.metadata s.cmp.stopped early) }).setCmp
      { s.cmp with metadataSent := true } := by
  simp only [State.sendMetadata, hr, hp, hm, Bool.false_eq_true, if_false]

theorem State.sendMetadata_silent (early : Bool)
    (h : s.cmp.recorder ≠ .send ∨ s.cmp.plan = none ∨ s.cmp.metadataSent = true) : s.sendMetadata early = s := by
  unfold State.sendMetadata
  split
  · rename_i plan hr hp
    rw [if_pos (by simpa [hr, hp] using h)]
  all_goals rfl

end LineEnd

/-! ## The metadata record's bytes (11.1.7) -/

/-- The lists of bits in a metadata record: three bytes, each of its bits the flag of that place. -/
theorem bits_of_three_bytes (l : List Bool) : (le 3 (bitsToNat l)).length = 3
    ∧ ∀ k, k < 24 → ((le 3 (bitsToNat l)).getD (k / 8) 0#8).getLsbD (k % 8) = l.getD k false :=
  ⟨le_length 3 _, fun k hk => by rw [getLsbD_le _ _ _ (by omega), testBit_bitsToNat]⟩

/-- A metadata record byte by byte (R156, 11.1.7). -/
theorem FramePlan.metadata_layout (plan : FramePlan) (stopped : List (Fin 24)) (early : Bool)
    (held : Fin 4 → List Byte)
    (some_held : ∀ (k : Fin 4) i seq, plan.answers[k].held = some (i, seq) → held k = le 2 seq.toNat)
    (none_held : ∀ k : Fin 4, plan.answers[k].held = none → held k = [0xFF#8, 0xFF#8]) :
    plan.metadata stopped early = [0x5A#8] ++ le 2 plan.frame.toNat
      ++ [byte ((if early then 1 else 0) + 2 * plan.genlock.number), byte plan.entries.length]
      ++ plan.entries.flatMap PlanEntry.metadataBytes
      ++ [byte plan.leftOut] ++ le 3 (bitsToNat ((List.finRange 24).map (fun i => decide (i ∈ stopped))))
      ++ (List.finRange 4).flatMap (fun k => byte plan.answers[k].link.number :: held k)
      ++ le 3 (bitsToNat plan.signals.toList)
      ++ [byte plan.markers.length, byte (plan.markers.filter Marker.near).length] := by
  have answer : ∀ k : Fin 4, plan.answers[k].metadataBytes = byte plan.answers[k].link.number :: held k := by
    intro k
    unfold CameraAnswer.metadataBytes
    cases h : plan.answers[k].held with
    | none => rw [none_held k h]
    | some x => rw [some_held k x.1 x.2 h]; rfl
  have answers : plan.answers.toList.flatMap CameraAnswer.metadataBytes =
      (List.finRange 4).flatMap (fun k => byte plan.answers[k].link.number :: held k) := by
    rw [vector_toList_eq_map, List.flatMap_map]
    exact List.flatMap_congr fun k _ => answer k
  rw [FramePlan.metadata, answers, frameBytes]
  simp only [List.cons_append, List.nil_append, List.append_assoc]

/-- Settles O42: the events by the counter's value (`State.lineEvents_ltb` to `State.lineEvents_strobed`), the line
drawn (`exec_lineEnd_drawn`) and the record's bytes (`FramePlan.metadata_layout`). -/
theorem lineEventsAtTheirLines : Obligations.LineEventsAtTheirLines := by
  refine ⟨fun out o s v hrun hcommit hv => ⟨⟨_, exec_lineEnd_of_running out o s hrun, ?_⟩, fun h1 h719 u hu => ?_⟩,
    fun plan stopped early held some_held none_held => ?_⟩
  · subst hv
    refine ⟨fun h => ?_, fun h => ?_, fun h => ?_, fun h => ?_, fun h => ?_, fun h => ?_, fun h0 h k => ?_,
      fun h k x hx => ?_⟩
    · rw [(s.arrived out).lineEvents_ltb _ _ _ hcommit, State.arrived_line, State.arrived_commitLine, if_pos h,
        (s.arrived_commitEvent out).2]
    · rw [(s.arrived out).lineEvents_ltb _ _ _ hcommit, State.arrived_line, State.arrived_commitLine, if_neg h,
        State.arrived_ltb]
    · rw [State.lineEvents_mkm, State.lineEvents_scn, State.arrived_line, if_pos h, if_pos h]
      exact ⟨rfl, rfl⟩
    · rw [State.lineEvents_mkm, State.lineEvents_scn, State.arrived_line, if_neg h, if_neg h]
      exact ⟨rfl, rfl⟩
    · obtain ⟨hlinks, hcmp, hfst, hpins, hftb, hovm⟩ :=
        (s.arrived out).lineEvents_blanking_keeps false out.recHold o h
      obtain ⟨hregions, hjobs, hcorrected, hepoch⟩ := Overlay.suffer_keeps out.upsets s.ovm
      rw [hlinks, hcmp, hfst, hpins, hftb, hovm]
      refine ⟨rfl, rfl, rfl, rfl, rfl, rfl, rfl, rfl, hregions, hjobs, hcorrected, Overlay.suffer_memory _ _, hepoch,
        fun w hw => ?_, fun x hx hlt hone => ?_⟩
      · exact (Overlay.readCheck_suffer out.upsets s.ovm w).1 hw
      · exact (Overlay.readCheck_suffer out.upsets s.ovm x.word).2 x hx rfl hlt hone
    · obtain ⟨hcams, hstc, hports⟩ := (s.arrived out).lineEvents_above false out.recHold o h
      refine ⟨hcams, hstc, ?_⟩
      rw [hports, (s.arrived_commitEvent out).1]
      rfl
    · refine (s.arrived out).lineEvents_strobed _ _ _ h0 k _ ?_
      rw [(s.arrived out).lineEvents_cams _ _ _ h0 h, ite_self, State.arrived_cams]
    · rw [← h]
      exact (s.arrived out).lineEvents_strobed _ _ _ (by rw [State.arrived_line]; omega) k x hx
  · subst hv
    have drawn : (s.arrived out).canvasLine = if s.ftb.arrival = 719 then u.sendMetadata false else u := by
      rw [hu]
      exact (s.arrived out).canvasLine_drawn (Nat.lt_succ_of_le h719)
    rw [exec_lineEnd_drawn out o s hrun h1 h719 hcommit, drawn]
    refine ⟨Vector.ofFn (s.arrived out).strobes, fun plan hlast hr hp hm => ?_, fun hsilent => ?_⟩
    · rw [if_pos hlast, State.sendMetadata_sends u false plan hr hp hm]
      rfl
    · by_cases hlast : s.ftb.arrival = 719
      · rw [if_pos hlast, State.sendMetadata_silent u false (hsilent.resolve_left (not_not.mpr hlast))]
      · rw [if_neg hlast]
  · obtain ⟨len_stopped, bits_stopped⟩ :=
      bits_of_three_bytes ((List.finRange 24).map (fun i => decide (i ∈ stopped)))
    obtain ⟨len_signals, bits_signals⟩ := bits_of_three_bytes plan.signals.toList
    refine ⟨_, _, len_stopped, fun k => ?_, len_signals, fun k => ?_,
      plan.metadata_layout stopped early held some_held none_held⟩
    · rw [bits_stopped k k.isLt]
      simp
    · rw [bits_signals k (by omega)]
      simp

end Sys2Proof.Machine

/-! What no command but those of the timebase and the part state moves: the timebase, the part state, the plan and the
output modes. -/

namespace Sys2Proof.Machine

/-! ## The clock of a state -/

/-- What drives the part's lines: the timebase, the part state, the plan and the output modes (R49, R141, R174). -/
structure Clock where
  ftb : Timebase
  part : PartState
  plan : Option FramePlan
  output : OutputMode
  recorder : RecorderMode

/-- The clock of a state. -/
def State.clock (s : State) : Clock := ⟨s.ftb, s.stc.part, s.cmp.plan, s.cmp.output, s.cmp.recorder⟩

/-- A next state that an outcome answers has a clock of which `P` holds. -/
def NextClock (P : Clock → Prop) (o : Outcome) : Prop := ∀ t, o = .next t → P t.clock

theorem nextClock_next {P : Clock → Prop} {t : State} (h : P t.clock) : NextClock P (.next t) := by
  rintro _ ⟨⟩
  exact h

/-- A next state that an outcome answers has the clock of `s`. -/
def State.KeepsClock (s : State) (o : Outcome) : Prop := NextClock (· = s.clock) o

theorem State.keepsClock_next {s t : State} (h : t.clock = s.clock) : s.KeepsClock (.next t) :=
  nextClock_next (P := (· = s.clock)) h

theorem State.keepsClock_fault (s : State) (f : Fault) : s.KeepsClock (.fault f) := by
  rintro _ ⟨⟩

section Clock

variable (s : State) (p : Port) (r : Request)

/-! The updates that the clock does not see. -/

@[simp] theorem State.setPorts_clock (x : PerPort PortState) : (s.setPorts x).clock = s.clock := rfl
@[simp] theorem State.setLtb_clock (x : LayerTable) : (s.setLtb x).clock = s.clock := rfl
@[simp] theorem State.setCams_clock (x : Cameras) : (s.setCams x).clock = s.clock := rfl
@[simp] theorem State.setScn_clock (x : Conditioner) : (s.setScn x).clock = s.clock := rfl
@[simp] theorem State.setMkm_clock (x : MarkerMap) : (s.setMkm x).clock = s.clock := rfl
@[simp] theorem State.setOvm_clock (x : Overlay) : (s.setOvm x).clock = s.clock := rfl
@[simp] theorem State.setFst_clock (x : Fitting) : (s.setFst x).clock = s.clock := rfl
@[simp] theorem State.setLinks_clock (x : LinkOutputs) : (s.setLinks x).clock = s.clock := rfl
@[simp] theorem State.setPins_clock (x : Pins) : (s.setPins x).clock = s.clock := rfl
@[simp] theorem State.setPending_clock (x : List Instr) : (s.setPending x).clock = s.clock := rfl
@[simp] theorem State.setStc_clock {x : Controller} (h : x.part = s.stc.part) : (s.setStc x).clock = s.clock := by
  simp only [State.clock, State.setStc_ftb, State.setStc_stc, State.setStc_cmp, h]
@[simp] theorem State.setCmp_clock {x : Composer} (hp : x.plan = s.cmp.plan) (ho : x.output = s.cmp.output)
    (hr : x.recorder = s.cmp.recorder) : (s.setCmp x).clock = s.clock := by
  simp only [State.clock, State.setCmp_ftb, State.setCmp_stc, State.setCmp_cmp, hp, ho, hr]
@[simp] theorem State.modPort_clock (f : PortState → PortState) : (s.modPort p f).clock = s.clock := rfl
@[simp] theorem State.post_clock (x : Reply) : (s.post p x).clock = s.clock := rfl
@[simp] theorem State.raiseTo_clock (c : AlertCode) (a b : Nat) : (s.raiseTo p c a b).clock = s.clock := rfl
@[simp] theorem State.raiseAll_clock (c : AlertCode) (a b : Nat) : (s.raiseAll c a b).clock = s.clock := rfl
@[simp] theorem State.dropRequest_clock : (s.dropRequest p).clock = s.clock := rfl
@[simp] theorem State.answer_clock (c : ResultCode) (i : Byte) (v : List Byte) :
    (s.answer p r c i v).clock = s.clock := rfl
@[simp] theorem State.done_clock (v : List Byte) : (s.done p r v).clock = s.clock := rfl
@[simp] theorem State.refuse_clock (c : ResultCode) : (s.refuse p r c).clock = s.clock := rfl
@[simp] theorem State.badField_clock (i : Byte) : (s.badField p r i).clock = s.clock := rfl
@[simp] theorem State.replied_clock (c : ResultCode) (i : Byte) (v : List Byte) :
    (s.replied p r c i v).clock = s.clock := rfl
@[simp] theorem State.taken_clock : (s.taken p).clock = s.clock := rfl
@[simp] theorem State.setSlot_clock (i : Fin 24) (x : LayerSlot) : (s.setSlot i x).clock = s.clock := rfl
@[simp] theorem State.setLink_clock (k : Fin 4) (x : CameraLink) : (s.setLink k x).clock = s.clock := rfl
@[simp] theorem State.setMarkers_clock (ms : List Marker) : (s.setMarkers ms).clock = s.clock := rfl
@[simp] theorem State.freeSlot_clock (i : Fin 24) : (s.freeSlot i).clock = s.clock := rfl
@[simp] theorem State.refuseEntry_clock (e : PendingEntry) (c : Cause) : (s.refuseEntry e c).clock = s.clock := rfl

/-- What a request leaves of the clock is what its block leaves: taking and answering it change its port alone
(R164). -/
theorem serve_nextClock {P : Clock → Prop} {kind : RequestKind} {block : Request → State → Outcome}
    (hs : P s.clock) (h : ∀ r, NextClock P (block r (s.taken p))) : NextClock P (serve kind p s block) := by
  intro t ht
  obtain ⟨-, hn⟩ | ⟨r, -, ⟨c, i, hn⟩ | ⟨-, -, -, hn⟩⟩ := serve_cases s p ht
  · cases hn; exact hs
  · cases hn; exact hs
  · exact h r t hn.symm

theorem serve_keepsClock {kind : RequestKind} {block : Request → State → Outcome}
    (h : ∀ r, State.KeepsClock s (block r (s.taken p))) : s.KeepsClock (serve kind p s block) :=
  serve_nextClock s p rfl h

/-! ## Layer slots -/

theorem onSlot_keepsClock {f : Fin 24 → State} (u : State) (hu : u.clock = s.clock)
    (h : ∀ i, (f i).clock = u.clock) : s.KeepsClock (onSlot p r u f) := by
  unfold onSlot
  split
  · exact State.keepsClock_next hu
  · exact State.keepsClock_next ((h _).trans hu)

theorem claimSlot_clock (i : Fin 24) : (claimSlot p r s i).clock = s.clock := by
  unfold claimSlot
  dsimp only
  repeat' split
  all_goals rfl

theorem seizeSlot_clock (i : Fin 24) : (seizeSlot p r s i).clock = s.clock := by
  unfold seizeSlot
  dsimp only
  repeat' split
  all_goals rfl

theorem releaseSlot_clock (i : Fin 24) : (releaseSlot p r s i).clock = s.clock := by
  unfold releaseSlot
  split <;> rfl

theorem editSlot_clock (i : Fin 24) : (editSlot p r s i).clock = s.clock := by
  unfold editSlot
  dsimp only
  repeat' split
  all_goals rfl

theorem forceSlot_clock (i : Fin 24) : (forceSlot p r s i).clock = s.clock := by
  unfold forceSlot
  dsimp only
  repeat' split
  all_goals rfl

/-! ## Markers, Overlay Memory and the Load Engine -/

@[simp] theorem State.raiseNear_clock (ts : List Nat) : ∀ s : State, (s.raiseNear ts).clock = s.clock := by
  induction ts with
  | nil => exact fun _ => rfl
  | cons t ts ih => exact fun s => ih (s.raiseAll .nearObject t 0)

theorem freeRegion_clock (g : Fin 16) : (freeRegion p r s g).clock = s.clock := by
  unfold freeRegion
  repeat' split
  all_goals rfl

@[simp] theorem State.admitJob_clock (j : Job) : (s.admitJob p j).1.clock = s.clock := by
  unfold State.admitJob
  repeat' split
  all_goals rfl

theorem openLoadRegion_clock (g : Fin 16) : (openLoadRegion p r s g).clock = s.clock := by
  unfold openLoadRegion
  dsimp only
  repeat' split
  all_goals simp

@[simp] theorem State.endJob_clock (j : Job) (c : RegionContent) : (s.endJob p j c).clock = s.clock := by
  obtain ⟨o, x, h, -⟩ := s.endJob_shape p j c
  rw [h]
  rfl

@[simp] theorem State.verificationEnd_clock (us : List Upset) : (s.verificationEnd us).clock = s.clock := by
  unfold State.verificationEnd State.finishVerification
  dsimp only
  repeat' split
  all_goals simp

@[simp] theorem State.receiveTimeout_clock : s.receiveTimeout.clock = s.clock := by
  unfold State.receiveTimeout
  split <;> simp

@[simp] theorem State.resetJob_clock : (s.resetJob p).clock = s.clock := by
  unfold State.resetJob
  repeat' split
  all_goals simp

@[simp] theorem State.resetBlocks_clock : (s.resetBlocks p).clock = s.clock := by
  unfold State.resetBlocks
  dsimp only
  rw [State.resetJob_clock, State.setFst_clock, State.setStc_clock]
  · split <;> simp
  · rfl

/-! ## Signals, cameras, the Fitting Store, the ports -/

@[simp] theorem State.inputEvent_clock (e : InputEvent) : (s.inputEvent e).clock = s.clock := by
  obtain ⟨c, h, -⟩ := s.inputEvent_only e
  rw [h]
  rfl

@[simp] theorem State.speedAgeExpiry_clock : s.speedAgeExpiry.clock = s.clock := by
  unfold State.speedAgeExpiry
  split <;> rfl

@[simp] theorem State.powerOffExpiry_clock (k : Fin 4) : (s.powerOffExpiry k).clock = s.clock := by
  unfold State.powerOffExpiry
  dsimp only
  split <;> rfl

@[simp] theorem State.finishStore_clock (x : StoreInFlight) (good : Bool) : (s.finishStore x good).clock = s.clock := by
  unfold State.finishStore
  dsimp only
  repeat' split
  all_goals rfl

@[simp] theorem State.storeTimerExpiry_clock : s.storeTimerExpiry.clock = s.clock := by
  unfold State.storeTimerExpiry
  split <;> simp

@[simp] theorem State.examine_clock (bytes : List Byte) : (s.examine p bytes).clock = s.clock := by
  unfold State.examine
  dsimp only
  repeat' split
  all_goals rfl

theorem execTransactionEnd_keepsClock (bytes : List Byte) : s.KeepsClock (execTransactionEnd p bytes s) := by
  unfold execTransactionEnd
  dsimp only
  repeat' split
  all_goals exact State.keepsClock_next (by simp)

end Clock

/-! ## Every other command (R49, R141, R174) -/

/-- The commands that can move the timebase, the part state, the plan or an output mode. -/
def Instr.movesClock : Instr → Bool
  | .deviceReset _ | .bootEnd _ | .setPeriod _ | .setCommitLine _ | .setStrobe _ | .setGenlock _ | .resync _
  | .dormant _ _ | .wake _ _ _ | .lineEnd _ _ | .dsync | .wakeIn _ => true
  | _ => false

theorem exec_keepsClock {c : Instr} (hc : Instr.movesClock c = false) (s : State) : s.KeepsClock (exec c s) := by
  cases c with
  | deviceReset | bootEnd | setPeriod | setCommitLine | setStrobe | setGenlock | resync | dormant | wake | lineEnd
  | dsync | wakeIn => cases hc
  | claim p =>
    simp only [exec, execClaim]
    exact serve_keepsClock s p fun r => onSlot_keepsClock _ _ _ _ rfl (claimSlot_clock _ _ _)
  | seize p =>
    simp only [exec, execSeize]
    exact serve_keepsClock s p fun r => onSlot_keepsClock _ _ _ _ rfl (seizeSlot_clock _ _ _)
  | release p =>
    simp only [exec, execRelease]
    exact serve_keepsClock s p fun r => onSlot_keepsClock _ _ _ _ rfl (releaseSlot_clock _ _ _)
  | edit p =>
    simp only [exec, execEdit]
    exact serve_keepsClock s p fun r => onSlot_keepsClock _ _ _ _ rfl (editSlot_clock _ _ _)
  | force p =>
    simp only [exec, execForce]
    exact serve_keepsClock s p fun r => onSlot_keepsClock _ _ _ _ rfl (forceSlot_clock _ _ _)
  | readLayer p =>
    simp only [exec, execReadLayer]
    exact serve_keepsClock s p fun r => onSlot_keepsClock _ _ _ _ rfl fun i => rfl
  | free p =>
    simp only [exec, execFree]
    refine serve_keepsClock s p fun r => ?_
    split
    · exact State.keepsClock_next rfl
    · exact State.keepsClock_next (freeRegion_clock _ _ _ _)
  | openLoad p =>
    simp only [exec, execOpenLoad]
    refine serve_keepsClock s p fun r => ?_
    split
    · exact State.keepsClock_next rfl
    · exact State.keepsClock_next (openLoadRegion_clock _ _ _ _)
  | loadData p =>
    simp only [exec, execLoadData]
    refine serve_keepsClock s p fun r => ?_
    split
    · exact State.keepsClock_next rfl
    · split_ifs
      iterate 5 exact State.keepsClock_next rfl
      · exact State.keepsClock_fault _ _
      iterate 2 exact State.keepsClock_next rfl
  | identify | readSignals | readMarkers | readRegions | cameraStatus | eccClear | clearMarks | resetPort | subscribe
  | discard | commit | alloc | setInput | speed | setSpeedBands | setVirtual | unmark | setPalette | run | quiet
  | cameraRestart | storeFitting | abortLoad | mark | setNear =>
    simp only [exec, execIdentify, execReadSignals, execReadMarkers, execReadRegions, execCameraStatus, execEccClear,
      execClearMarks, execResetPort, execSubscribe, execDiscard, execCommit, execAlloc, execSetInput, execSpeed,
      execSetSpeedBands, execSetVirtual, execUnmark, execSetPalette, execRun, execQuiet, execCameraRestart,
      execStoreFitting, execAbortLoad, execMark, execSetNear]
    refine serve_keepsClock s _ fun r => ?_
    repeat' split
    all_goals exact State.keepsClock_next (by simp)
  | transactionEnd p bytes => exact execTransactionEnd_keepsClock s p bytes
  | storeTimerExpiry => exact State.keepsClock_next s.storeTimerExpiry_clock
  | powerOffExpiry k => exact State.keepsClock_next (s.powerOffExpiry_clock k)
  | inputRawChange n level => exact State.keepsClock_next (s.inputEvent_clock (.rawChange n level))
  | debounceExpiry n => exact State.keepsClock_next (s.inputEvent_clock (.debounceExpiry n))
  | speedAgeExpiry => exact State.keepsClock_next s.speedAgeExpiry_clock
  | verificationEnd us => exact State.keepsClock_next (s.verificationEnd_clock us)
  | receiveTimeout => exact State.keepsClock_next s.receiveTimeout_clock
  | bootStart => exact State.keepsClock_next rfl
  | transactionStart | unknownKind | storeEnd | frameStart | cameraLine | frameEnd =>
    simp only [exec, execTransactionStart, execUnknownKind, execStoreEnd, execFrameStart, execCameraLine, execFrameEnd]
    repeat' split
    all_goals exact State.keepsClock_next (by simp)

end Sys2Proof.Machine

/-! The timebase, the part state and the output modes over one step (R49 to R66, R142, R158, R159, R174): every way they
can move, and the two invariants that follow. -/

namespace Sys2Proof.Machine

/-! ## The settings requests and DSYNC (R55 to R59) -/

/-- What a request or a pulse that reaches a running or held timebase can make of it (R54 to R59, R62). -/
inductive Timebase.Adjusts (f : Timebase) : Timebase → Prop
  | same : f.Adjusts f
  | period (v : Nat) (h736 : 736 ≤ v) (h1023 : v ≤ 1023) (hcommit : f.commitLine < v) (hphase : f.phase < v)
      (hstrobes : ∀ k : Fin 4, f.strobes[k] < v) : f.Adjusts { f with stagedPeriod := v }
  | commitLine (v : Nat) (h720 : 720 ≤ v) (hp : v < f.period) (hs : v < f.stagedPeriod) :
      f.Adjusts { f with commitLine := v }
  | strobe (k : Fin 4) (v : Nat) (hp : v < f.period) (hs : v < f.stagedPeriod) :
      f.Adjusts { f with strobes := f.strobes.set k v }
  | genlock (on : Bool) (v : Nat) (hp : v < f.period) (hs : v < f.stagedPeriod) : f.Adjusts (f.withGenlock on v)
  | resync : f.Adjusts { f with resyncDue := true }
  | dsync : f.Adjusts f.dsync

theorem Timebase.below_iff (f : Timebase) (v : Nat) : f.below v = true ↔ v < f.period ∧ v < f.stagedPeriod := by
  simp only [Timebase.below, Bool.and_eq_true, decide_eq_true_eq]

/-- The check of SET_PERIOD, as R55 states it. -/
theorem Timebase.periodFits_iff (f : Timebase) (v : Nat) :
    ¬ (v < 736 ∨ 1023 < v ∨ v ≤ f.commitLine ∨ v ≤ f.phase
      ∨ f.strobes.toList.any (fun x => decide (v ≤ x)) = true) ↔
    736 ≤ v ∧ v ≤ 1023 ∧ f.commitLine < v ∧ f.phase < v ∧ ∀ k : Fin 4, f.strobes[k] < v := by
  simp only [vector_any, decide_eq_true_eq, not_or, not_exists, not_lt, not_le]

/-- The check of SET_COMMIT_LINE, as R56 states it. -/
theorem Timebase.commitLineFits_iff (f : Timebase) (v : Nat) :
    ¬ (v < 720 ∨ 1022 < v ∨ f.below v = false) ↔ 720 ≤ v ∧ v ≤ 1022 ∧ v < f.period ∧ v < f.stagedPeriod := by
  rw [← f.below_iff]
  simp only [not_or, not_lt, Bool.not_eq_false]

/-- A genlock setting touches the phase, genlock's state and the two counts (R58). -/
theorem Timebase.withGenlock_keeps (f : Timebase) (on : Bool) (v : Nat) : ∃ state missed good,
    f.withGenlock on v = { f with genlockOn := on, phase := v, genlock := state, missed := missed, good := good } := by
  unfold Timebase.withGenlock
  dsimp only
  split_ifs <;> exact ⟨_, _, _, rfl⟩

/-- A DSYNC touches genlock's state, the counts and the load due (R59, R63). -/
theorem Timebase.dsync_keeps (f : Timebase) : ∃ state good, f.dsync = { f with
    missed := 0, lastSlip := f.slip, dsyncDue := true, dsyncSinceTop := true, genlock := state, good := good } := by
  unfold Timebase.dsync
  dsimp only
  split_ifs <;> exact ⟨_, _, rfl⟩

/-- An adjustment keeps the relation of R50. -/
theorem Timebase.Adjusts.good {f g : Timebase} (h : f.Adjusts g) (hf : f.Good) : g.Good := by
  obtain ⟨hline, hp1, hp2, hs1, hs2, hc0, hc1, hc2, hstrobes, hph1, hph2, hheld⟩ := hf
  cases h with
  | same => exact ⟨hline, hp1, hp2, hs1, hs2, hc0, hc1, hc2, hstrobes, hph1, hph2, hheld⟩
  | period v h736 h1023 hcommit hphase hv =>
    exact ⟨hline, hp1, hp2, h736, h1023, hc0, hc1, hcommit, fun k => ⟨(hstrobes k).1, hv k⟩, hph1, hphase, hheld⟩
  | commitLine v h720 hp hs =>
    exact ⟨hline, hp1, hp2, hs1, hs2, h720, hp, hs, hstrobes, hph1, hph2, hheld⟩
  | strobe k v hp hs =>
    refine ⟨hline, hp1, hp2, hs1, hs2, hc0, hc1, hc2, fun j => ?_, hph1, hph2, hheld⟩
    rw [vectorSet_get]
    split
    · exact ⟨hp, hs⟩
    · exact hstrobes j
  | genlock on v hp hs =>
    obtain ⟨state, missed, good, e⟩ := f.withGenlock_keeps on v
    rw [e]
    exact ⟨hline, hp1, hp2, hs1, hs2, hc0, hc1, hc2, hstrobes, hp, hs, hheld⟩
  | resync => exact ⟨hline, hp1, hp2, hs1, hs2, hc0, hc1, hc2, hstrobes, hph1, hph2, hheld⟩
  | dsync =>
    obtain ⟨state, good, e⟩ := f.dsync_keeps
    rw [e]
    exact ⟨hline, hp1, hp2, hs1, hs2, hc0, hc1, hc2, hstrobes, hph1, hph2, hheld⟩

theorem Timebase.Adjusts.run {f g : Timebase} (h : f.Adjusts g) : g.run = f.run := by
  cases h with
  | genlock on v hp hs =>
    obtain ⟨_, _, _, e⟩ := f.withGenlock_keeps on v
    rw [e]
  | dsync =>
    obtain ⟨_, _, e⟩ := f.dsync_keeps
    rw [e]
  | _ => rfl

/-! ## Every way the clock moves in one step -/

/-- One step of the clock. -/
inductive Clock.Moves (c : Clock) : Clock → Prop
  /-- A request or a pulse taken by the timebase, or nothing. -/
  | adjust (f : Timebase) (h : c.ftb.Adjusts f) : c.Moves { c with ftb := f }
  /-- A device reset (R175). -/
  | reset : c.Moves ⟨Timebase.atReset, .boot, none, .off, .off⟩
  /-- The start of the timebase into RUN, with the settings in force or a fitting record's (R65, R66). -/
  | start (f : Timebase) (plan : Option FramePlan) (output : OutputMode) (recorder : RecorderMode)
      (h : f = c.ftb ∨ ∃ x : FittedRecord, x.settingsGood = true ∧ f = c.ftb.fit x) :
      c.Moves ⟨f.start.top true, .run, plan, output, recorder⟩
  /-- DORMANT entry (R66, R159). -/
  | hold : c.Moves ⟨c.ftb.hold, .dormant, none, .off, .off⟩
  /-- The end of a line (R51, R52, R174). -/
  | line (f : Timebase) (part : PartState) (plan : Option FramePlan) (output : OutputMode) (recorder : RecorderMode)
      (hrun : c.ftb.run = .running)
      (hf : f = if c.ftb.arrival = 0 then (c.ftb.moveTo c.ftb.arrival).top false else c.ftb.moveTo c.ftb.arrival)
      (hpart : part = c.part ∨ part = .run ∨ part = .quiet) : c.Moves ⟨f, part, plan, output, recorder⟩

theorem Clock.Moves.same (c : Clock) : c.Moves c := .adjust c.ftb .same

section Moves

variable (s : State) (p : Port)

theorem acceptTimebase_adjusts {u : State} {f : Timebase} (r : Request) (hu : u.clock = s.clock) (h : s.ftb.Adjusts f) :
    NextClock s.clock.Moves (acceptTimebase p r u f) := by
  refine nextClock_next ?_
  have e : ((u.setFtb f).done p r f.report).clock = { u.clock with ftb := f } := rfl
  rw [e, hu]
  exact .adjust f h

/-- A settings request that is answered with no change of the timebase. -/
theorem badField_moves (r : Request) (i : Byte) : NextClock s.clock.Moves (.next ((s.taken p).badField p r i)) :=
  nextClock_next (.same s.clock)

theorem exec_setPeriod_moves : NextClock s.clock.Moves (exec (.setPeriod p) s) := by
  simp only [exec, execSetPeriod]
  refine serve_nextClock s p (.same _) fun r => ?_
  split
  · exact badField_moves s p r _
  · rename_i h
    obtain ⟨h736, h1023, hc, hph, hst⟩ := (s.ftb.periodFits_iff _).mp h
    exact acceptTimebase_adjusts s p r rfl (.period _ h736 h1023 hc hph hst)

theorem exec_setCommitLine_moves : NextClock s.clock.Moves (exec (.setCommitLine p) s) := by
  simp only [exec, execSetCommitLine]
  refine serve_nextClock s p (.same _) fun r => ?_
  split
  · exact badField_moves s p r _
  · rename_i h
    obtain ⟨h720, -, hp, hs⟩ := (s.ftb.commitLineFits_iff _).mp h
    exact acceptTimebase_adjusts s p r rfl (.commitLine _ h720 hp hs)

theorem exec_setStrobe_moves : NextClock s.clock.Moves (exec (.setStrobe p) s) := by
  simp only [exec, execSetStrobe]
  refine serve_nextClock s p (.same _) fun r => ?_
  split
  · exact badField_moves s p r _
  · split
    · exact badField_moves s p r _
    · rename_i k _ h
      obtain ⟨hp, hs⟩ := (s.ftb.below_iff _).mp (by simpa using h)
      exact acceptTimebase_adjusts s p r rfl (.strobe k _ hp hs)

theorem exec_setGenlock_moves : NextClock s.clock.Moves (exec (.setGenlock p) s) := by
  simp only [exec, execSetGenlock]
  refine serve_nextClock s p (.same _) fun r => ?_
  split
  · exact badField_moves s p r _
  · split
    · exact badField_moves s p r _
    · rename_i on _ h
      obtain ⟨hp, hs⟩ := (s.ftb.below_iff _).mp (by simpa using h)
      exact acceptTimebase_adjusts s p r rfl (.genlock on _ hp hs)

theorem exec_resync_moves : NextClock s.clock.Moves (exec (.resync p) s) := by
  simp only [exec, execResync]
  exact serve_nextClock s p (.same _) fun r => nextClock_next (.adjust _ .resync)

theorem exec_dsync_moves : NextClock s.clock.Moves (exec .dsync s) := by
  simp only [exec, execDsync]
  split_ifs
  · exact nextClock_next (.same _)
  all_goals exact nextClock_next (.adjust _ .dsync)

/-! The start of the timebase. -/

theorem State.startRun_clock (out : Surroundings) : ∃ plan output recorder,
    (s.startRun out).clock = ⟨s.ftb.start.top true, .run, plan, output, recorder⟩ := by
  obtain ⟨hstc, -, -, -, hftb, -⟩ := s.startRun_keeps out
  exact ⟨_, _, _, by rw [State.clock, hstc, hftb]⟩

theorem State.wakeUp_clock (meets : Waking) : ∃ plan output recorder,
    (s.wakeUp meets).clock = ⟨s.ftb.start.top true, .run, plan, output, recorder⟩ := by
  obtain ⟨c, h, -⟩ := State.inputEvents_only meets.inputs ((s.setScn s.scn.wake).moveTo .run)
  rw [State.wakeUp, h]
  exact State.startRun_clock _ _

/-- What settling the record can do to the timebase, the signals' block and the cameras: nothing, or what a record
whose settings are good sets (R65, R68, R93, R182). -/
theorem State.settleFitting_cases :
    (s.settleFitting.ftb = s.ftb ∧ s.settleFitting.scn = s.scn ∧ s.settleFitting.cams = s.cams)
    ∨ ∃ x : FittedRecord, x.settingsGood = true ∧ s.settleFitting.ftb = s.ftb.fit x
      ∧ s.settleFitting.scn = { s.scn with
          inputs := Vector.ofFn (fun n => s.scn.inputs[n].fit x.inputs[n])
          stopThreshold := x.stop
          slowThreshold := x.slow }
      ∧ s.settleFitting.cams = s.cams.fit x := by
  unfold State.settleFitting
  split
  · exact .inl ⟨rfl, rfl, rfl⟩
  · exact .inl ⟨rfl, rfl, rfl⟩
  · split
    · exact .inl ⟨rfl, rfl, rfl⟩
    · rename_i x _
      split_ifs with hgood hlayers
      · exact .inl ⟨rfl, rfl, rfl⟩
      · exact .inl ⟨rfl, rfl, rfl⟩
      · exact .inr ⟨x, by simpa using hgood, rfl, rfl, rfl⟩

@[simp] theorem State.announce_clock (c : Cause) : (s.announce c).clock = s.clock := rfl

theorem exec_bootEnd_moves (out : Surroundings) : NextClock s.clock.Moves (exec (.bootEnd out) s) := by
  simp only [exec, execBootEnd]
  split
  · obtain ⟨plan, output, recorder, h⟩ :=
      (s.settleFitting.setScn s.settleFitting.scn.endBoot).startRun_clock out
    refine nextClock_next ?_
    rw [State.endBoot, State.announce_clock, h]
    refine .start _ _ _ _ ?_
    obtain ⟨hftb, -⟩ | ⟨x, hx, hftb, -⟩ := s.settleFitting_cases
    · exact .inl hftb
    · exact .inr ⟨x, hx, hftb⟩
  · exact nextClock_next (.same _)

theorem State.wakeUp_moves {u : State} (hu : u.ftb = s.ftb) (meets : Waking) :
    s.clock.Moves (u.wakeUp meets).clock := by
  obtain ⟨plan, output, recorder, h⟩ := u.wakeUp_clock meets
  rw [h, hu]
  exact .start _ _ _ _ (.inl rfl)

theorem exec_wake_moves (meets : Waking) (replyFirst : Bool) :
    NextClock s.clock.Moves (exec (.wake p meets replyFirst) s) := by
  simp only [exec, execWake]
  refine serve_nextClock s p (.same _) fun r => ?_
  split_ifs <;> refine nextClock_next ?_
  · rw [State.done_clock, State.taken_clock]
    exact .same _
  · rw [State.announce_clock]
    exact State.wakeUp_moves s (u := (s.taken p).done p r []) rfl meets
  · rw [State.done_clock, State.announce_clock]
    exact State.wakeUp_moves s (u := s.taken p) rfl meets

theorem exec_wakeIn_moves (meets : Waking) : NextClock s.clock.Moves (exec (.wakeIn meets) s) := by
  simp only [exec, execWakeIn]
  split_ifs <;> refine nextClock_next ?_
  · rw [State.announce_clock]
    exact State.wakeUp_moves s rfl meets
  · exact .same _

/-! DORMANT entry. -/

theorem State.enterDormant_clock : s.enterDormant.clock = ⟨s.ftb.hold, .dormant, none, .off, .off⟩ := by
  simp [State.clock, State.enterDormant, State.setMarkers, Composer.enterDormant]

theorem exec_dormant_moves (replyFirst : Bool) : NextClock s.clock.Moves (exec (.dormant p replyFirst) s) := by
  simp only [exec, execDormant]
  refine serve_nextClock s p (.same _) fun r => ?_
  split_ifs
  · exact nextClock_next (.same _)
  · exact nextClock_next (.same _)
  · refine nextClock_next ?_
    have h : ((s.taken p).enterDormant.answerAndAnnounce replyFirst p ⟨r.tag, r.kind, .done, 0#8, []⟩
        .dormantRequest).clock = (s.taken p).enterDormant.clock := by cases replyFirst <;> rfl
    rw [h, State.enterDormant_clock]
    exact .hold

/-! The end of a line. -/

/-- The tests at BLANK leave the part state, or take it to RUN or to QUIET (R176, R177). -/
theorem State.blankTest_part (b : Bool) : (s.blankTest b).stc.part = s.stc.part
    ∨ (s.blankTest b).stc.part = .run ∨ (s.blankTest b).stc.part = .quiet := by
  unfold State.blankTest
  split
  · unfold State.entryTest
    repeat' split
    · exact .inl rfl
    · exact .inl rfl
    · exact .inl rfl
    · exact .inr (.inr (by simp [State.enterQuiet]))
  · unfold State.exitTest
    split
    · exact .inl rfl
    · exact .inr (.inl (by simp))
  · exact .inl rfl
  · exact .inl rfl

theorem State.blankAndCommit_part (o : LineOrder) : (s.blankAndCommit o).stc.part = s.stc.part
    ∨ (s.blankAndCommit o).stc.part = .run ∨ (s.blankAndCommit o).stc.part = .quiet := by
  have blank_part : ∀ u : State, u.stc.part = s.stc.part → (u.blank o).stc.part = s.stc.part
      ∨ (u.blank o).stc.part = .run ∨ (u.blank o).stc.part = .quiet := by
    intro u hu
    unfold State.blank
    split
    · exact hu ▸ u.ageStep.blankTest_part o.replyFirst
    · exact hu ▸ u.blankTest_part o.replyFirst
  rw [State.blankAndCommit_eq]
  split_ifs
  · exact blank_part _ (by simp)
  · simpa using blank_part s rfl
  · exact blank_part s rfl
  · simp
  · exact .inl rfl

theorem State.lineEvents_part (a b : Bool) (o : LineOrder) : (s.lineEvents a b o).stc.part = s.stc.part
    ∨ (s.lineEvents a b o).stc.part = .run ∨ (s.lineEvents a b o).stc.part = .quiet := by
  by_cases h : s.ftb.line = 0
  · exact .inl (by rw [(s.lineEvents_top_keeps a b o h).1])
  · rw [s.lineEvents_of_ne_zero _ _ _ h]
    split
    · simpa using s.canvasLine.strobe.blankAndCommit_part o
    · simpa using s.canvasLine.blankAndCommit_part o

theorem State.lineEvents_ftb (a b : Bool) (o : LineOrder) : (s.lineEvents a b o).ftb =
    if s.ftb.line = 0 then s.ftb.top a else s.ftb := by
  by_cases h : s.ftb.line = 0
  · rw [(s.lineEvents_top_keeps a b o h).2.2.2.1, if_pos h]
  · rw [s.lineEvents_of_ne_zero _ _ _ h, if_neg h]
    split <;> simp

theorem exec_lineEnd_moves (out : Surroundings) (o : LineOrder) :
    NextClock s.clock.Moves (exec (.lineEnd out o) s) := by
  by_cases h : s.ftb.run = .held
  · simp only [exec, execLineEnd, if_pos h]
    exact nextClock_next (.same _)
  · have hrun : s.ftb.run = .running := by cases hr : s.ftb.run <;> simp_all
    rw [exec_lineEnd_of_running out o s hrun]
    exact nextClock_next (.line _ _ _ _ _ hrun ((s.arrived out).lineEvents_ftb false out.recHold o)
      ((s.arrived out).lineEvents_part false out.recHold o))

/-- What any command does to the clock. -/
theorem exec_moves (c : Instr) : NextClock s.clock.Moves (exec c s) := by
  by_cases hc : Instr.movesClock c = false
  · intro t ht
    rw [exec_keepsClock hc s t ht]
    exact .same _
  · cases c with
    | deviceReset campop => exact nextClock_next .reset
    | bootEnd out => exact exec_bootEnd_moves s out
    | setPeriod p => exact exec_setPeriod_moves s p
    | setCommitLine p => exact exec_setCommitLine_moves s p
    | setStrobe p => exact exec_setStrobe_moves s p
    | setGenlock p => exact exec_setGenlock_moves s p
    | resync p => exact exec_resync_moves s p
    | dormant p replyFirst => exact exec_dormant_moves s p replyFirst
    | wake p meets replyFirst => exact exec_wake_moves s p meets replyFirst
    | lineEnd out o => exact exec_lineEnd_moves s out o
    | dsync => exact exec_dsync_moves s
    | wakeIn meets => exact exec_wakeIn_moves s meets
    | _ => exact absurd rfl hc

/-! A millisecond of the part's own clock (log 2). -/

theorem State.tickInput_clock (n : Fin 8) : (s.tickInput n).clock = s.clock := by
  unfold State.tickInput
  dsimp only
  repeat' split
  · rfl
  · exact s.inputEvent_clock (.debounceExpiry n)
  · rfl

theorem State.tickSpeed_clock : s.tickSpeed.clock = s.clock := by
  unfold State.tickSpeed
  repeat' split
  all_goals simp

theorem State.tickCamera_clock (k : Fin 4) : (s.tickCamera k).clock = s.clock := by
  unfold State.tickCamera
  dsimp only
  repeat' split
  all_goals simp

theorem State.tickReceive_clock : s.tickReceive.clock = s.clock := by
  unfold State.tickReceive
  repeat' split
  all_goals simp

theorem State.tickVerify_clock : s.tickVerify.clock = s.clock := by
  unfold State.tickVerify
  repeat' split
  all_goals simp

theorem State.tickStore_clock : s.tickStore.clock = s.clock := by
  unfold State.tickStore
  repeat' split
  all_goals simp

theorem foldl_clock {α : Type} {f : State → α → State} (h : ∀ u x, (f u x).clock = u.clock) (l : List α) :
    ∀ s : State, (l.foldl f s).clock = s.clock := by
  induction l with
  | nil => exact fun _ => rfl
  | cons x l ih => exact fun s => (ih (f s x)).trans (h s x)

theorem State.tick_clock : s.tick.clock = s.clock := by
  unfold State.tick
  split
  · rfl
  · dsimp only
    rw [State.tickStore_clock, State.tickVerify_clock, State.tickReceive_clock, foldl_clock State.tickCamera_clock,
      State.tickSpeed_clock, foldl_clock State.tickInput_clock]

end Moves

/-- What any step does to the clock. -/
theorem step_moves {s t : State} (h : step s = .next t) : s.clock.Moves t.clock := by
  unfold step at h
  split at h
  · cases h
    rw [State.tick_clock]
    exact .same _
  · rename_i c rest _
    exact exec_moves (s.setPending rest) c t h

/-! ## The relation of R50 -/

theorem Timebase.atReset_good : Timebase.atReset.Good := by
  unfold Timebase.atReset
  decide

/-- A good record's settings and a counter at 0 are in the relation of R50 (R65). -/
theorem Timebase.fit_start_good {x : FittedRecord} (hx : x.settingsGood = true) (f : Timebase) :
    (f.fit x).start.Good := by
  have strobes_all : x.strobes.toList.all (fun y => decide (y < x.period)) = true ↔
      ∀ k : Fin 4, x.strobes[k] < x.period := by
    rw [← Bool.not_eq_false, ← Bool.not_eq_true', List.not_all_eq_any_not, vector_any]
    simp
  simp only [FittedRecord.settingsGood, FittedRecord.timebaseGood, Bool.and_eq_true, strobes_all,
    decide_eq_true_eq] at hx
  obtain ⟨-, ⟨⟨⟨⟨⟨⟨h736, h1023⟩, h720⟩, hc⟩, hst⟩, hph⟩, -⟩⟩ := hx
  have h0 : 0 < x.period := by omega
  exact ⟨h0, h736, h1023, h736, h1023, h720, hc, hc,
    fun k => ⟨hst k, hst k⟩, hph, hph, fun _ => rfl⟩

theorem Timebase.start_good {f : Timebase} (h : f.Good) : f.start.Good := by
  obtain ⟨hline, hp1, hp2, hs1, hs2, hc0, hc1, hc2, hstrobes, hph1, hph2, -⟩ := h
  have h0 : 0 < f.period := by omega
  exact ⟨h0, hp1, hp2, hs1, hs2, hc0, hc1, hc2, hstrobes, hph1, hph2, fun _ => rfl⟩

theorem Timebase.hold_good {f : Timebase} (h : f.Good) : f.hold.Good := by
  obtain ⟨hline, hp1, hp2, hs1, hs2, hc0, hc1, hc2, hstrobes, hph1, hph2, -⟩ := h
  have h0 : 0 < f.period := by omega
  exact ⟨h0, hp1, hp2, hs1, hs2, hc0, hc1, hc2, hstrobes, hph1, hph2, fun _ => rfl⟩

/-- A TOP changes the frame number, the active period, genlock's state and the counts (R52, R63). -/
theorem Timebase.top_keeps (f : Timebase) (starting : Bool) : ∃ missed good state, f.top starting = { f with
    frame := f.frame + 1#16, period := f.stagedPeriod, dsyncSinceTop := false, missed := missed, good := good
    genlock := state } := by
  unfold Timebase.top
  dsimp only
  split_ifs <;> exact ⟨_, _, _, rfl⟩

/-- At a TOP, the counter at 0, the staged period can take over (R52). -/
theorem Timebase.top_good {f : Timebase} (h : f.Good) (h0 : f.line = 0) (starting : Bool) : (f.top starting).Good := by
  obtain ⟨hline, hp1, hp2, hs1, hs2, hc0, hc1, hc2, hstrobes, hph1, hph2, hheld⟩ := h
  obtain ⟨_, _, _, e⟩ := f.top_keeps starting
  rw [e]
  have hline : f.line < f.stagedPeriod := by omega
  exact ⟨hline, hs1, hs2, hs1, hs2, hc0, hc2, hc2, fun k => ⟨(hstrobes k).2, (hstrobes k).2⟩, hph2, hph2,
    hheld⟩

/-- The value the counter takes lies below the period (R51, R60). -/
theorem Timebase.arrival_lt {f : Timebase} (h : f.Good) : f.arrival < f.period := by
  obtain ⟨hline, hp1, -, -, -, -, -, -, -, hph1, -⟩ := h
  unfold Timebase.arrival Timebase.nextValue
  split_ifs <;> omega

theorem Timebase.moveTo_arrival_good {f : Timebase} (h : f.Good) (hrun : f.run = .running) :
    (f.moveTo f.arrival).Good := by
  have harr := Timebase.arrival_lt h
  obtain ⟨-, hp1, hp2, hs1, hs2, hc0, hc1, hc2, hstrobes, hph1, hph2, -⟩ := h
  exact ⟨harr, hp1, hp2, hs1, hs2, hc0, hc1, hc2, hstrobes, hph1, hph2, fun hh => by simp [Timebase.moveTo, hrun] at hh⟩

/-- Every move of the clock keeps the relation of R50. -/
theorem Clock.Moves.good {c d : Clock} (h : c.Moves d) (hc : c.ftb.Good) : d.ftb.Good := by
  cases h with
  | adjust f h => exact h.good hc
  | reset => exact Timebase.atReset_good
  | start f plan output recorder h =>
    obtain rfl | ⟨x, hx, rfl⟩ := h
    · exact Timebase.top_good (Timebase.start_good hc) rfl true
    · exact Timebase.top_good (Timebase.fit_start_good hx c.ftb) rfl true
  | hold => exact Timebase.hold_good hc
  | line f part plan output recorder hrun hf hpart =>
    have hmoved := Timebase.moveTo_arrival_good hc hrun
    subst hf
    dsimp only
    split
    · rename_i h0
      exact Timebase.top_good hmoved h0 false
    · exact hmoved

/-- Settles O5: the clock moves in one of five ways (`step_moves`), and each keeps the relation
(`Clock.Moves.good`). -/
theorem everyStepKeepsTimebase : Obligations.EveryStepKeepsTimebase :=
  fun _ _ hs h => (step_moves h).good hs

/-! ## The outputs by part state -/

theorem Timebase.top_run (f : Timebase) (starting : Bool) : (f.top starting).run = f.run := by
  obtain ⟨_, _, _, e⟩ := f.top_keeps starting
  rw [e]

/-- The relation of R49, R158, R159 and R174 between the timebase, the part state and the outputs. -/
def Clock.OutputGood (c : Clock) : Prop :=
  (c.ftb.run = .running ↔ c.part = .run ∨ c.part = .quiet)
  ∧ (c.part = .boot ∨ c.part = .dormant → c.output = .off ∧ c.recorder = .off ∧ c.plan = none)

theorem State.outputGood_iff (s : State) : s.OutputGood ↔ s.clock.OutputGood := Iff.rfl

/-- Every move of the clock keeps that relation. -/
theorem Clock.Moves.outputGood {c d : Clock} (h : c.Moves d) (hc : c.OutputGood) : d.OutputGood := by
  obtain ⟨hrun_iff, hoff⟩ := hc
  cases h with
  | adjust f h => exact ⟨by rw [h.run]; exact hrun_iff, hoff⟩
  | reset => exact ⟨by simp [Timebase.atReset], fun _ => ⟨rfl, rfl, rfl⟩⟩
  | start f plan output recorder h => exact ⟨by simp [Timebase.top_run, Timebase.start], by simp⟩
  | hold => exact ⟨by simp [Timebase.hold], fun _ => ⟨rfl, rfl, rfl⟩⟩
  | line f part plan output recorder hrun hf hpart =>
    have frun : f.run = .running := by
      rw [hf, ← hrun]
      split
      · rw [Timebase.top_run, Timebase.moveTo]
      · rw [Timebase.moveTo]
    have on : part = .run ∨ part = .quiet := by
      obtain rfl | h := hpart
      · exact hrun_iff.mp hrun
      · exact h
    refine ⟨iff_of_true frun on, fun hsilent => ?_⟩
    obtain rfl | rfl := on <;> simp at hsilent

/-- Settles O13: the clock moves in one of five ways (`step_moves`), and each keeps the relation
(`Clock.Moves.outputGood`). -/
theorem everyStepKeepsOutputStates : Obligations.EveryStepKeepsOutputStates := fun s t hs h =>
  t.outputGood_iff.mpr ((step_moves h).outputGood (s.outputGood_iff.mp hs))

end Sys2Proof.Machine

/-! The timebase's requests and DSYNC (R54 to R64): what each accepts, writes and answers. -/

namespace Sys2Proof.Machine

/-! ## The report (R54, R187) -/

theorem Timebase.report_eq (f : Timebase) : f.report = le 2 f.line ++ le 2 f.frame.toNat ++ le 2 f.period
    ++ le 2 f.stagedPeriod ++ le 2 f.commitLine ++ le 2 f.strobes[0] ++ le 2 f.strobes[1] ++ le 2 f.strobes[2]
    ++ le 2 f.strobes[3] ++ [flag f.genlockOn] ++ le 2 f.phase
    ++ [match f.genlock with | .free => 0#8 | .hunting => 1#8 | .locked => 2#8, byte f.missed, byte f.good]
    ++ le 2 f.lastSlip := by
  have strobes : f.strobes.toList.flatMap (le 2) =
      le 2 f.strobes[0] ++ le 2 f.strobes[1] ++ le 2 f.strobes[2] ++ le 2 f.strobes[3] := by
    have order : List.finRange 4 = [0, 1, 2, 3] := by decide
    rw [vector_toList_eq_map, order]
    simp only [List.map_cons, List.map_nil, List.flatMap_cons, List.flatMap_nil, List.append_nil, List.append_assoc]
    rfl
  have state : byte f.genlock.number = match f.genlock with | .free => 0#8 | .hunting => 1#8 | .locked => 2#8 := by
    cases f.genlock <;> rfl
  rw [Timebase.report, strobes, state, frameBytes]
  simp only [List.append_assoc]

/-! ## The settings requests (R55 to R58) -/

section Requests

variable (s : State) (p : Port) {r : Request}

/-- An accepted setting is written and answered DONE with the report after it (R54). -/
theorem acceptTimebase_taken (f : Timebase) :
    acceptTimebase p r (s.taken p) f = .next ((s.setFtb f).replied p r .done 0#8 f.report) := by
  rw [acceptTimebase, State.taken_setFtb, State.taken_done]

theorem exec_setPeriod_of_reaches (h : s.Reaches p .setPeriod r) : exec (.setPeriod p) s =
    if 736 ≤ r.num 0 2 ∧ r.num 0 2 ≤ 1023 ∧ s.ftb.commitLine < r.num 0 2 ∧ s.ftb.phase < r.num 0 2
        ∧ ∀ k : Fin 4, s.ftb.strobes[k] < r.num 0 2 then
      .next ((s.setFtb { s.ftb with stagedPeriod := r.num 0 2 }).replied p r .done 0#8
        { s.ftb with stagedPeriod := r.num 0 2 }.report)
    else .next (s.replied p r .badField 0x01#8 []) := by
  rw [← ite_not]
  simp only [exec, execSetPeriod, serve_of_reaches s p h, State.taken_ftb, acceptTimebase_taken, State.taken_badField,
    ← s.ftb.periodFits_iff, not_not]

theorem exec_setCommitLine_of_reaches (h : s.Reaches p .setCommitLine r) : exec (.setCommitLine p) s =
    if 720 ≤ r.num 0 2 ∧ r.num 0 2 ≤ 1022 ∧ r.num 0 2 < s.ftb.period ∧ r.num 0 2 < s.ftb.stagedPeriod then
      .next ((s.setFtb { s.ftb with commitLine := r.num 0 2 }).replied p r .done 0#8
        { s.ftb with commitLine := r.num 0 2 }.report)
    else .next (s.replied p r .badField 0x02#8 []) := by
  rw [← ite_not]
  simp only [exec, execSetCommitLine, serve_of_reaches s p h, State.taken_ftb, acceptTimebase_taken,
    State.taken_badField, ← s.ftb.commitLineFits_iff, not_not]

/-- The check of a strobe line or a phase against both periods (R57, R58). -/
theorem Timebase.ite_below {α : Sort*} (f : Timebase) (v : Nat) (x y : α) :
    (if f.below v = false then x else y) = if v < f.period ∧ v < f.stagedPeriod then y else x := by
  simp only [← f.below_iff]
  cases f.below v <;> rfl

theorem exec_setStrobe_of_reaches (h : s.Reaches p .setStrobe r) : exec (.setStrobe p) s =
    match cameraOf (r.arg 0).toNat with
    | none => .next (s.replied p r .badField 0x03#8 [])
    | some k =>
      if r.num 1 2 < s.ftb.period ∧ r.num 1 2 < s.ftb.stagedPeriod then
        .next ((s.setFtb { s.ftb with strobes := s.ftb.strobes.set k (r.num 1 2) }).replied p r .done 0#8
          { s.ftb with strobes := s.ftb.strobes.set k (r.num 1 2) }.report)
      else .next (s.replied p r .badField 0x04#8 []) := by
  simp only [exec, execSetStrobe, serve_of_reaches s p h, State.taken_ftb, acceptTimebase_taken, State.taken_badField,
    Timebase.ite_below] <;> rfl

theorem exec_setGenlock_of_reaches (h : s.Reaches p .setGenlock r) : exec (.setGenlock p) s =
    match flagOf (r.arg 0) with
    | none => .next (s.replied p r .badField 0x05#8 [])
    | some on =>
      if r.num 1 2 < s.ftb.period ∧ r.num 1 2 < s.ftb.stagedPeriod then
        .next ((s.setFtb (s.ftb.withGenlock on (r.num 1 2))).replied p r .done 0#8
          (s.ftb.withGenlock on (r.num 1 2)).report)
      else .next (s.replied p r .badField 0x06#8 []) := by
  simp only [exec, execSetGenlock, serve_of_reaches s p h, State.taken_ftb, acceptTimebase_taken, State.taken_badField,
    Timebase.ite_below] <;> rfl

theorem exec_resync_of_reaches (h : s.Reaches p .resync r) : exec (.resync p) s =
    .next ((s.setFtb { s.ftb with resyncDue := true }).replied p r .done 0#8 (le 2 s.ftb.slip ++ s.ftb.report)) := by
  simp only [exec, execResync, serve_of_reaches s p h, State.taken_ftb, State.taken_setFtb, State.taken_done]
  rfl

end Requests

theorem cameraOf_eq_none {n : Nat} (h : 3 < n) : cameraOf n = none := dif_neg (by omega)

theorem cameraOf_val (k : Fin 4) : cameraOf k.val = some k := dif_pos k.isLt

theorem flagOf_eq_none {b : Byte} (h : 1 < b.toNat) : flagOf b = none := by
  rw [flagOf, if_neg (by rintro rfl; simp at h), if_neg (by rintro rfl; simp at h)]

/-- Settles O39, by one equation for each request. -/
theorem timebaseSettingsAreChecked : Obligations.TimebaseSettingsAreChecked := by
  refine ⟨Timebase.report_eq, fun p s r v w hv hw => ⟨fun h => ?_, fun h => ?_, fun h => ?_, fun h => ?_⟩⟩
  all_goals
    obtain rfl : v = r.num 0 2 := hv
    obtain rfl : w = r.num 1 2 := hw
  · rw [exec_setPeriod_of_reaches s p h]
    exact ⟨fun fits => if_pos fits, fun fails => if_neg fails⟩
  · rw [exec_setCommitLine_of_reaches s p h]
    exact ⟨fun fits => if_pos fits, fun fails => if_neg fails⟩
  · rw [exec_setStrobe_of_reaches s p h]
    refine ⟨fun h3 => ?_, fun k hk => ?_⟩
    · rw [cameraOf_eq_none h3]
    · rw [hk, cameraOf_val]
      exact ⟨fun fits => if_pos fits, fun fails => if_neg fails⟩
  · rw [exec_setGenlock_of_reaches s p h]
    refine ⟨fun h1 => ?_, fun on hon => ?_⟩
    · rw [flagOf_eq_none h1]
    · rw [hon, flagOf_flag]
      refine ⟨fun fails => if_neg fails, fun fits f hf => ?_⟩
      obtain rfl : f = s.ftb.withGenlock on (r.num 1 2) := hf
      exact if_pos fits

/-! ## DSYNC and the slip (R59, R60, R63) -/

section Dsync

variable (s : State) (f : Timebase)

theorem Timebase.takesDsync_iff :
    f.takesDsync = true ↔ f.run = .running ∧ f.genlockOn = true ∧ f.dsyncDue = false := by
  simp only [Timebase.takesDsync, Bool.and_eq_true, decide_eq_true_eq, Bool.not_eq_true', and_assoc]

/-- A pulse whose load slips by more than 2 (R63). -/
theorem Timebase.dsync_of_slip (h : 2 < f.slip) : f.dsync =
    { f with missed := 0, lastSlip := f.slip, dsyncDue := true, dsyncSinceTop := true, good := 0 } := by
  simp only [Timebase.dsync, if_neg (Nat.not_le.mpr h)]

/-- A pulse whose load slips by at most 2: it counts as good, and the second one locks (R63). -/
theorem Timebase.dsync_of_close (h : f.slip ≤ 2) : f.dsync = { f with
    missed := 0, lastSlip := f.slip, dsyncDue := true, dsyncSinceTop := true, good := min 2 (f.good + 1)
    genlock := if f.genlock = .hunting ∧ min 2 (f.good + 1) = 2 then .locked else f.genlock } := by
  simp only [Timebase.dsync, if_pos h]

theorem exec_dsync_ignored (h : s.ftb.run = .held ∨ s.ftb.genlockOn = false ∨ s.ftb.dsyncDue = true) :
    exec .dsync s = .next s := by
  have ignored : s.ftb.takesDsync = false := by
    rw [← Bool.not_eq_true, s.ftb.takesDsync_iff]
    rintro ⟨hrun, hon, hdue⟩
    simp [hrun, hon, hdue] at h
  simp only [exec, execDsync, if_pos ignored]

theorem exec_dsync_taken (h : s.ftb.takesDsync = true) : exec .dsync s =
    if 2 < s.ftb.slip then .next ((s.setFtb s.ftb.dsync).raiseAll .syncSlip 0 0)
    else if s.ftb.genlock = .hunting ∧ s.ftb.dsync.genlock = .locked then
      .next ((s.setFtb s.ftb.dsync).raiseAll .genlockAcquired 0 0)
    else .next (s.setFtb s.ftb.dsync) := by
  change execDsync s = _
  rw [execDsync, if_neg (by simp [h])]
  rfl

/-- The slip is the distance to PH around the counter's circle, the shorter way (R60). -/
theorem Timebase.slip_eq (hline : f.line < f.period) (n d : Nat)
    (hn : n = if f.line + 1 = f.period then 0 else f.line + 1)
    (hd : (d : Int) = if (f.phase : Int) - n < 0 then (f.phase : Int) - n + f.period else (f.phase : Int) - n) :
    f.slip = if d ≤ f.period - d then d else f.period - d := by
  have next : f.nextValue = n := by
    rw [hn, Timebase.nextValue]
    split_ifs <;> omega
  have distance : f.loadDistance = d := by
    rw [Timebase.loadDistance, next]
    split_ifs at hd ⊢ <;> omega
  rw [Timebase.slip, distance, Nat.min_def]

end Dsync

/-- Settles O40. -/
theorem resyncAndDsyncMakeOneLoad : Obligations.ResyncAndDsyncMakeOneLoad := by
  refine ⟨fun p s r h => exec_resync_of_reaches s p h, fun s g hg => ⟨exec_dsync_ignored s, fun hrun hon hdue => ?_,
    fun hline _ => s.ftb.slip_eq hline⟩⟩
  rw [exec_dsync_taken s (s.ftb.takesDsync_iff.mpr ⟨hrun, hon, hdue⟩)]
  refine ⟨fun hslip => ?_, fun hslip hhunting h2 => ?_, fun hslip hstays => ?_⟩
  · rw [if_pos hslip, s.ftb.dsync_of_slip hslip]
  · have locks : s.ftb.genlock = .hunting ∧ min 2 (s.ftb.good + 1) = 2 := ⟨hhunting, hg ▸ h2⟩
    rw [if_neg (Nat.not_lt.mpr hslip), s.ftb.dsync_of_close hslip, if_pos locks, if_pos ⟨hhunting, rfl⟩, locks.2]
  · have stays : ¬ (s.ftb.genlock = .hunting ∧ min 2 (s.ftb.good + 1) = 2) := by
      rw [← hg]
      tauto
    rw [if_neg (Nat.not_lt.mpr hslip), s.ftb.dsync_of_close hslip, if_neg stays, ← hg,
      if_neg (fun h => by simp [h.1] at h)]

end Sys2Proof.Machine

/-! The start of the timebase into RUN (R65, R66, R82, R93, R101, R175, R179): the end of BOOT and the wake. -/

namespace Sys2Proof.Machine

/-! ## A camera at the first TOP of RUN (R74, R82) -/

theorem CameraLink.enterRun_not_idle (x : CameraLink) : x.enterRun.link ≠ .idle := by
  unfold CameraLink.enterRun
  split
  · simp
  · assumption

theorem CameraLink.first_not_idle (x : CameraLink) : x.enterRun.planRequest.1.link ≠ .idle :=
  fun h => x.enterRun_not_idle ((CameraLink.planRequest_idle _).mp h)

/-- An IDLE camera becomes STARTING and takes its first plan request; without a READY frame that is a miss. -/
theorem CameraLink.first_of_idle {x : CameraLink} (h : x.link = .idle) :
    x.enterRun.planRequest.1 = (CameraLink.planRequest { x with
      link := .starting, miss := 0, fresh := 0, starting := 0, power := decide (x.powerOff = none) }).1
    ∧ ((∀ (i : Fin 3) f, x.slots[i] ≠ .ready f) → x.enterRun.planRequest.1 = { x with
      link := .starting, miss := 1, fresh := 0, starting := if x.powerOff = none then 1 else 0
      power := decide (x.powerOff = none) }) := by
  rw [CameraLink.enterRun_idle h]
  exact ⟨rfl, fun hslots => CameraLink.planRequest_first hslots _⟩

section StartRun

variable (s : State)

/-- The plan and the recorder mode of a TOP: the view is that of the signals as they stand (R87, R142, R157). -/
theorem State.fireTop_plan_signals (a b : Bool) : ∃ plan, (s.fireTop a b).cmp.plan = some plan
    ∧ plan.frame = (s.ftb.top a).frame ∧ plan.signals = s.scn.view := by
  simp only [State.fireTop, State.takePlan_cmp]
  exact ⟨_, rfl, by simp [State.planNow], by simp [State.planNow]⟩

/-- The Composer after the start of the timebase (R142, R157). -/
theorem State.startRun_composer (out : Surroundings) (hc : s.ftb.commitLine ≠ 0) :
    (s.startRun out).cmp.recorder = (if out.recHold then .hold else .send)
    ∧ ∃ plan, (s.startRun out).cmp.plan = some plan ∧ plan.frame = (s.startRun out).ftb.frame
      ∧ ∀ n : Fin 18, plan.signals[n] = s.scn.signal n := by
  have top : s.startRun out = ((s.readyToRun out).fireTop true out.recHold).canvasLine.strobe := by
    rw [s.startRun_eq out, State.lineEvents_top _ _ _ _ (s.readyToRun_line out) (by simpa [Timebase.start] using hc)]
  obtain ⟨plan, hplan, hframe, hsignals⟩ := (s.readyToRun out).fireTop_plan_signals true out.recHold
  rw [top]
  refine ⟨?_, plan, by simpa using hplan, by simpa using hframe, fun n => ?_⟩
  · simp [recorderModeFor]
  · rw [hsignals, Conditioner.view_get, State.readyToRun_scn]

end StartRun

/-! ## The end of BOOT (R93, R175, R182) -/

section EndBoot

variable (s : State)

theorem Input.endBoot_settled (x : Input) : x.endBoot.settled = true := by
  unfold Input.endBoot
  split
  · assumption
  · rfl

/-- An input that BOOT finds unsettled ends it at its raw level, its timer stopped, whatever a record sets (R93). -/
theorem Input.endBoot_unsettled {x : Input} (h : x.settled = false) :
    x.endBoot.conditioned = x.raw ∧ x.endBoot.timer = none := by
  rw [Input.endBoot, if_neg (by simp [h])]
  exact ⟨rfl, rfl⟩

theorem Input.fit_endBoot_unsettled {x : Input} (f : FittedInput) (h : x.settled = false) :
    (x.fit f).endBoot.conditioned = x.raw ∧ (x.fit f).endBoot.timer = none := by
  rw [Input.fit, if_pos h]
  split
  · exact ⟨rfl, rfl⟩
  · exact Input.endBoot_unsettled (x := { x with
      polarity := (polarityOf f.polarity).getD .activeHigh
      debounce := f.debounce
      mask := (flagOf f.mask).getD false
      timer := some f.debounce }) h

theorem Conditioner.endBoot_input (c : Conditioner) (n : Fin 8) : c.endBoot.inputs[n] = c.inputs[n].endBoot :=
  ofFn_get _ n

theorem State.settleFitting_input {n : Fin 8} (h : s.scn.inputs[n].settled = false) :
    s.settleFitting.scn.inputs[n].endBoot.conditioned = s.scn.inputs[n].raw
    ∧ s.settleFitting.scn.inputs[n].endBoot.timer = none := by
  obtain ⟨-, hscn, -⟩ | ⟨x, -, -, hscn, -⟩ := s.settleFitting_cases
  · rw [hscn]
    exact Input.endBoot_unsettled h
  · rw [hscn, ofFn_get]
    exact Input.fit_endBoot_unsettled _ h

theorem State.settleFitting_frame : s.settleFitting.ftb.frame = s.ftb.frame := by
  obtain ⟨hftb, -⟩ | ⟨x, -, hftb, -⟩ := s.settleFitting_cases
  · rw [hftb]
  · rw [hftb, Timebase.fit]

/-- A camera's link stands by the population, before the record is settled and after (R67, R68). -/
theorem State.settleFitting_link {k : Fin 4}
    (h : s.cams.links[k].link = if s.cams.population[k] then .idle else .absent) :
    s.settleFitting.cams.links[k] = { s.cams.links[k] with
      link := if s.settleFitting.cams.population[k] then .idle else .absent } := by
  obtain ⟨-, -, hcams⟩ | ⟨x, -, -, -, hcams⟩ := s.settleFitting_cases
  · rw [hcams, ← h]
  · rw [hcams, Cameras.fit, ofFn_get]

/-- The state that BOOT's end starts the timebase from: the record and the inputs settled (R93, R182). -/
def State.booted : State := s.settleFitting.setScn s.settleFitting.scn.endBoot

theorem exec_bootEnd_of_boot (out : Surroundings) (hpart : s.stc.part = .boot) (hreset : s.pins.resetLow = false) :
    exec (.bootEnd out) s = .next ((s.booted.startRun out).raiseAll .stateChanged 1 1) := by
  obtain ⟨hstc, -⟩ := s.booted.startRun_keeps out
  change execBootEnd out s = _
  rw [execBootEnd, if_pos ⟨hpart, hreset⟩]
  change Host.Outcome.next ((s.booted.startRun out).announce .bootEnd) = _
  rw [State.announce, hstc]
  rfl

end EndBoot

/-- Settles O18: what the start of the timebase leaves (`State.startRun_keeps`) of the state that settling the record
and the inputs gives (`State.settleFitting_cases`). -/
theorem bootEndEntersRunWithTop : Obligations.BootEndEntersRunWithTop := by
  intro out s hpart hreset
  obtain ⟨hstc, hscn, -, -, hftb, hrsync, houtput, -, hplan, hlinks, -⟩ := s.booted.startRun_keeps out
  rw [Timebase.start_top] at hftb
  have links : ∀ k : Fin 4, (s.booted.startRun out).cams.links[k] =
      (s.settleFitting.cams.links[k].enterRun).planRequest.1 := hlinks
  have population : (s.booted.startRun out).cams.population = s.settleFitting.cams.population :=
    (s.booted.startRun_population out).1
  have inputs : ∀ n : Fin 8, (s.booted.startRun out).scn.inputs[n] = s.settleFitting.scn.inputs[n].endBoot := by
    intro n
    rw [hscn]
    exact Conditioner.endBoot_input _ n
  refine ⟨_, exec_bootEnd_of_boot s out hpart hreset, by rw [hstc], by rw [hftb], by rw [hftb], ?_, by rw [hftb],
    hrsync, houtput, hplan, fun n => ?_, fun n hn => ?_, fun k => ?_, fun k x hx hlink => ⟨fun habsent => ?_,
    fun hpresent => ?_⟩⟩
  · rw [hftb]
    exact congrArg (· + 1#16) s.settleFitting_frame
  · rw [inputs]
    exact Input.endBoot_settled _
  · rw [inputs]
    exact s.settleFitting_input hn
  · rw [links]
    exact CameraLink.first_not_idle _
  all_goals
    subst hx
    rw [links, s.settleFitting_link hlink, ← population]
  · rw [habsent]
    exact CameraLink.enterRun_planRequest_absent rfl
  · rw [hpresent]
    exact CameraLink.first_of_idle rfl

/-! ## The wake (R101, R179) -/

section Wake

variable (s : State)

theorem State.changeInput_same {n : Fin 8} {y : Input} (h : y.conditioned = s.scn.inputs[n].conditioned) :
    s.changeInput n y = s.setScn (s.scn.setInput n y) := if_pos h

theorem State.changeInput_moved {n : Fin 8} {y : Input} (h : y.conditioned ≠ s.scn.inputs[n].conditioned) :
    s.changeInput n y = s.setScn ((s.scn.setInput n y).noteWake s.stc.part n y.mask) := if_neg h

/-- The input events do not see the ports (R90). -/
theorem State.inputEvent_setPorts (x : PerPort PortState) (e : InputEvent) :
    (s.setPorts x).inputEvent e = (s.inputEvent e).setPorts x := by
  have change_input : ∀ (n : Fin 8) (y : Input),
      (s.setPorts x).changeInput n y = (s.changeInput n y).setPorts x := by
    intro n y
    by_cases h : y.conditioned = s.scn.inputs[n].conditioned
    · rw [State.changeInput_same (s.setPorts x) h, State.changeInput_same s h]
      rfl
    · rw [State.changeInput_moved (s.setPorts x) h, State.changeInput_moved s h]
      rfl
  cases e with
  | rawChange n level => exact change_input n _
  | debounceExpiry n =>
    refine Eq.trans ?_ (apply_ite (State.setPorts · x) _ _ _).symm
    rw [← change_input]
    rfl

theorem State.inputEvents_setPorts (x : PerPort PortState) (l : List InputEvent) :
    ∀ s : State, l.foldl State.inputEvent (s.setPorts x) = (l.foldl State.inputEvent s).setPorts x := by
  induction l with
  | nil => exact fun _ => rfl
  | cons e l ih => exact fun s => by rw [List.foldl_cons, State.inputEvent_setPorts, ih, List.foldl_cons]

/-- A DORMANT part at its wake, before the input events that come with it (R101). -/
def State.waking : State :=
  (s.setScn { s.scn with wakeRecord := s.scn.wakePending, wakePending := [] }).setStc ⟨.run, none, false⟩

/-- The state that a wake starts the timebase from: in RUN, its input events taken (R101, R179). -/
def State.awake (meets : Waking) : State := meets.inputs.foldl State.inputEvent s.waking

theorem State.wakeUp_setPorts (x : PerPort PortState) (meets : Waking) :
    (s.setPorts x).wakeUp meets = ((s.awake meets).setPorts x).startRun meets.out := by
  rw [State.awake, ← State.inputEvents_setPorts]
  rfl

/-- The input events of a wake change the signals' block alone; they add nothing to the wake-pending set. -/
theorem State.awake_eq (meets : Waking) : ∃ c, s.awake meets = s.waking.setScn c
    ∧ c.wakePending = [] ∧ c.wakeRecord = s.scn.wakePending := by
  obtain ⟨c, h, hpending, hrecord⟩ := State.inputEvents_only meets.inputs s.waking
  exact ⟨c, h, hpending (by simp [State.waking]), hrecord⟩

/-- What a wake leaves, whatever has been posted before it (R63, R66, R74, R82, R101, R142, R157, R158). -/
structure State.WokenFrom (meets : Waking) (t : State) : Prop where
  stc : t.stc = ⟨.run, none, false⟩
  ftb : t.ftb = { s.ftb with
    line := 0, run := .running, frame := s.ftb.frame + 1#16, period := s.ftb.stagedPeriod, dsyncSinceTop := false }
  rsync : t.links.rsync = true
  output : t.cmp.output = .picture
  recorder : t.cmp.recorder = if meets.out.recHold then .hold else .send
  plan : ∃ plan, t.cmp.plan = some plan ∧ plan.frame = t.ftb.frame ∧ ∀ n, plan.signals[n] = t.scn.signal n
  scn : t.scn = (s.awake meets).scn
  wakeRecord : t.scn.wakeRecord = s.scn.wakePending
  wakePending : t.scn.wakePending = []
  links : ∀ k : Fin 4, t.cams.links[k] = (s.cams.links[k].enterRun).planRequest.1

theorem State.wakeUp_wokenFrom (x : PerPort PortState) (meets : Waking) (hc : 720 ≤ s.ftb.commitLine) :
    s.WokenFrom meets ((s.setPorts x).wakeUp meets) ∧ (s.setPorts x).Raised ((s.setPorts x).wakeUp meets) := by
  obtain ⟨c, hawake, hpending, hrecord⟩ := s.awake_eq meets
  have hcommit : ((s.awake meets).setPorts x).ftb.commitLine ≠ 0 := by
    rw [hawake]
    exact Nat.ne_of_gt (by omega : 0 < s.ftb.commitLine)
  obtain ⟨hrecorder, hplan⟩ := ((s.awake meets).setPorts x).startRun_composer meets.out hcommit
  obtain ⟨hstc, hscn, -, -, hftb, hrsync, houtput, -, -, hlinks, hraised⟩ :=
    ((s.awake meets).setPorts x).startRun_keeps meets.out
  obtain ⟨-, hraised⟩ := hraised hcommit
  rw [s.wakeUp_setPorts x meets]
  have scn_eq : ((s.awake meets).setPorts x).scn = c := by rw [hawake]; rfl
  refine ⟨⟨hstc, ?_, hrsync, houtput, hrecorder, ?_, hscn, ?_, ?_, fun k => ?_⟩, ?_⟩
  · rw [hftb, Timebase.start_top, hawake]
    rfl
  · rw [hscn]
    exact hplan
  · rw [hscn, scn_eq, hrecord]
  · rw [hscn, scn_eq, hpending]
  · rw [hlinks, hawake]
    rfl
  · exact State.Raised.trans (State.Raised.of_ports (t := (s.awake meets).setPorts x) rfl) hraised

variable (p : Port) {r : Request}

theorem exec_wake_of_reaches (meets : Waking) (replyFirst : Bool) (h : s.Reaches p .wake r) :
    exec (.wake p meets replyFirst) s =
      if s.stc.part ≠ .dormant then .next (s.replied p r .done 0#8 [])
      else if replyFirst then .next (((s.replied p r .done 0#8 []).wakeUp meets).announce .wakeRequest)
      else .next ((((s.taken p).wakeUp meets).announce .wakeRequest).post p ⟨r.tag, r.kind, .done, 0#8, []⟩) := by
  change execWake p meets replyFirst s = _
  rw [execWake, serve_of_reaches s p h]
  simp only [State.taken_done, State.taken_stc]
  rfl

/-- STATE_CHANGED after a wake has subject 1, RUN (R180). -/
theorem State.WokenFrom.announce {s t : State} {meets : Waking} (h : s.WokenFrom meets t) (c : Cause) :
    t.announce c = t.raiseAll .stateChanged 1 c.number := by
  rw [State.announce, h.stc]
  rfl

end Wake

/-- Settles O59: what a wake leaves of a DORMANT part (`State.wakeUp_wokenFrom`), whether its reply is posted before or
after it. -/
theorem wakeEntersRunWithTop : Obligations.WakeEntersRunWithTop := by
  intro s a meets woken ha hwoken
  obtain rfl : a = s.waking := ha
  have woken_of : ∀ {t : State}, s.WokenFrom meets t → woken t := by
    intro t h
    rw [hwoken, h.ftb, h.scn]
    refine ⟨h.stc, rfl, rfl, rfl, rfl, h.rsync, rfl, rfl, rfl, rfl, rfl, rfl, rfl, rfl, rfl, h.output, h.recorder, ?_,
      rfl, h.scn ▸ h.wakeRecord, h.scn ▸ h.wakePending, fun k x hx => ?_⟩
    · have plan := h.plan
      rwa [h.ftb, h.scn] at plan
    · subst hx
      rw [h.links]
      exact ⟨CameraLink.first_not_idle _, CameraLink.enterRun_planRequest_absent, CameraLink.first_of_idle⟩
  refine ⟨fun p r h => ⟨fun hpart replyFirst => ?_, fun hpart hc => ⟨?_, ?_⟩⟩, fun hpart => ?_, fun hpart hc => ?_,
    fun n level => ⟨rfl, rfl⟩⟩
  · rw [exec_wake_of_reaches s p meets replyFirst h, if_pos hpart]
  · obtain ⟨hfrom, hraised⟩ := s.wakeUp_wokenFrom (s.replied p r .done 0#8 []).ports meets hc
    obtain ⟨hrequests, hreplies, -⟩ := hraised p
    refine ⟨(s.replied p r .done 0#8 []).wakeUp meets, ?_, woken_of hfrom, hrequests.trans ?_, hreplies.trans ?_⟩
    · rw [exec_wake_of_reaches s p meets true h, if_neg (not_not.mpr hpart), if_pos rfl]
      exact congrArg Host.Outcome.next (hfrom.announce _)
    · simp [State.replied]
    · simp [State.replied]
  · obtain ⟨hfrom, hraised⟩ := s.wakeUp_wokenFrom (s.taken p).ports meets hc
    obtain ⟨hrequests, hreplies, -⟩ := hraised p
    refine ⟨(s.taken p).wakeUp meets, ?_, woken_of hfrom, hrequests.trans ?_, hreplies.trans ?_⟩
    · rw [exec_wake_of_reaches s p meets false h, if_neg (not_not.mpr hpart), if_neg Bool.false_ne_true]
      exact congrArg (fun u : State => Host.Outcome.next (u.post p ⟨r.tag, r.kind, .done, 0#8, []⟩)) (hfrom.announce _)
    · simp
    · simp
  · change execWakeIn meets s = _
    rw [execWakeIn, if_neg hpart]
  · obtain ⟨hfrom, -⟩ := s.wakeUp_wokenFrom s.ports meets hc
    refine ⟨s.wakeUp meets, ?_, woken_of hfrom⟩
    change execWakeIn meets s = _
    rw [execWakeIn, if_pos hpart]
    exact congrArg Host.Outcome.next (hfrom.announce _)

end Sys2Proof.Machine

/-! The part-state requests (R176 to R178): RUN, QUIET, and DORMANT with what DORMANT entry leaves. -/

namespace Sys2Proof.Machine

/-! ## Replies and alerts read the ports and the frame number alone (R164, R167) -/

theorem State.raiseAll_ports_congr {s t : State} (hp : s.ports = t.ports) (hf : s.ftb.frame = t.ftb.frame)
    (c : AlertCode) (a b : Nat) : (s.raiseAll c a b).ports = (t.raiseAll c a b).ports := by
  simp only [State.raiseAll, State.raiseTo, State.modPort, State.alertNow, State.setPorts_ports, State.setPorts_ftb,
    hp, hf]

theorem State.post_ports_congr {s t : State} (h : s.ports = t.ports) (p : Port) (r : Reply) :
    (s.post p r).ports = (t.post p r).ports := by
  simp only [State.post, State.modPort, State.setPorts_ports, h]

section Requests

variable (s : State) (p : Port) {r : Request}

theorem exec_run_of_reaches (h : s.Reaches p .run r) : exec (.run p) s =
    if s.stc.part = .quiet then .next ((s.setStc { s.stc with runRequest := true }).replied p r .done 0#8 [])
    else match s.stc.entry with
      | some e => .next ((s.refuseEntry e .runRequest).replied p r .done 0#8 [])
      | none => .next (s.replied p r .done 0#8 []) := by
  have refused : ∀ e c, (s.taken p).refuseEntry e c = (s.refuseEntry e c).taken p := fun e c => by
    simp only [State.refuseEntry, State.taken_stc, State.taken_setStc, State.taken_post]
  change execRun p s = _
  rw [execRun, serve_of_reaches s p h]
  simp only [State.taken_stc, State.taken_setStc, State.taken_done, refused] <;> rfl

theorem exec_quiet_of_reaches (h : s.Reaches p .quiet r) : exec (.quiet p) s =
    if s.stc.part = .quiet then .next ((s.setStc { s.stc with runRequest := false }).replied p r .done 0#8 [])
    else if s.stc.entry.isSome then .next (s.replied p r .busy 0#8 [])
    else .next ((s.setStc { s.stc with entry := some ⟨p, r.tag⟩ }).taken p) := by
  change execQuiet p s = _
  rw [execQuiet, serve_of_reaches s p h]
  simp only [State.taken_stc, State.taken_setStc, State.taken_done, State.taken_refuse]

/-- The work that refuses DORMANT (R178). -/
theorem State.workStands_iff : s.workStands = true ↔
    (∃ q, s.ltb.sets.get q ≠ none ∨ s.ovm.jobs.get q ≠ none) ∨ s.fst.store ≠ none ∨ s.stc.runRequest = true := by
  have ports : ∀ P : Port → Prop, (∃ q, P q) ↔ P .body ∨ P .detect ∨ P .cab := fun P =>
    ⟨fun ⟨q, h⟩ => by cases q <;> simp [h], fun h => by rcases h with h | h | h <;> exact ⟨_, h⟩⟩
  simp only [State.workStands, Bool.or_eq_true, Option.isSome_iff_ne_none, ports, PerPort.get_body, PerPort.get_detect,
    PerPort.get_cab]
  tauto

end Requests

theorem Cameras.mapLinks_population (c : Cameras) (f : CameraLink → CameraLink) :
    (c.mapLinks f).population = c.population ∧ (c.mapLinks f).source = c.source := ⟨rfl, rfl⟩

/-! ## DORMANT entry, block by block (R66, R84, R103, R120, R159) -/

section EnterDormant

variable (s : State)

@[simp] theorem State.enterDormant_ports : s.enterDormant.ports = s.ports := by
  simp [State.enterDormant, State.setMarkers]
@[simp] theorem State.enterDormant_ltb : s.enterDormant.ltb = s.ltb := by simp [State.enterDormant, State.setMarkers]
@[simp] theorem State.enterDormant_ftb : s.enterDormant.ftb = s.ftb.hold := by
  simp [State.enterDormant, State.setMarkers]
@[simp] theorem State.enterDormant_cams : s.enterDormant.cams = s.cams.mapLinks CameraLink.enterDormant := by
  simp [State.enterDormant, State.setMarkers]
@[simp] theorem State.enterDormant_scn : s.enterDormant.scn = { s.scn with
    near := false, stale := true, age := none, wakePending := [], wakeRecord := [] } := by
  simp [State.enterDormant, State.setMarkers, Conditioner.enterDormant, anyNear]
@[simp] theorem State.enterDormant_mkm : s.enterDormant.mkm = { s.mkm with markers := [] } := by
  simp [State.enterDormant, State.setMarkers]
@[simp] theorem State.enterDormant_ovm : s.enterDormant.ovm = s.ovm := by simp [State.enterDormant, State.setMarkers]
@[simp] theorem State.enterDormant_cmp : s.enterDormant.cmp =
    ⟨none, s.cmp.palette, false, .off, .off, [], false⟩ := by
  simp [State.enterDormant, State.setMarkers, Composer.enterDormant]
@[simp] theorem State.enterDormant_stc : s.enterDormant.stc = ⟨.dormant, none, false⟩ := rfl
@[simp] theorem State.enterDormant_fst : s.enterDormant.fst = s.fst := by simp [State.enterDormant, State.setMarkers]
theorem State.enterDormant_links : s.enterDormant.links =
    ((s.setLinks LinkOutputs.silent).sendMetadata true).links := rfl

/-- A metadata record is sent, or there is none to send (R156). -/
theorem State.metadata_cases : (s.cmp.recorder ≠ .send ∨ s.cmp.plan = none ∨ s.cmp.metadataSent = true)
    ∨ ∃ plan, s.cmp.recorder = .send ∧ s.cmp.plan = some plan ∧ s.cmp.metadataSent = false := by
  cases hp : s.cmp.plan with
  | none => exact .inl (.inr (.inl rfl))
  | some plan =>
    by_cases hr : s.cmp.recorder = .send
    · cases hm : s.cmp.metadataSent with
      | true => exact .inl (.inr (.inr rfl))
      | false => exact .inr ⟨plan, hr, rfl, rfl⟩
    · exact .inl (.inl hr)

/-- Sending the metadata record does not see that the request has been taken. -/
theorem State.taken_sendMetadata (p : Port) (early : Bool) :
    (s.taken p).sendMetadata early = (s.sendMetadata early).taken p := by
  obtain h | ⟨plan, hr, hp, hm⟩ := s.metadata_cases
  · rw [State.sendMetadata_silent s early h, State.sendMetadata_silent (s.taken p) early h]
  · rw [State.sendMetadata_sends s early plan hr hp hm, State.sendMetadata_sends (s.taken p) early plan hr hp hm]
    rfl

/-- DORMANT entry does not see that the request has been taken. -/
theorem State.taken_enterDormant (p : Port) : (s.taken p).enterDormant = s.enterDormant.taken p := by
  rw [State.enterDormant, State.taken_setLinks, State.taken_sendMetadata]
  rfl

/-- The links at DORMANT entry carry no line, and the metadata record of a frame cut off (R156, R159). -/
theorem State.enterDormant_metadata :
    (∀ plan, s.cmp.recorder = .send → s.cmp.plan = some plan → s.cmp.metadataSent = false →
      s.enterDormant.links.metadata = some (plan.metadata s.cmp.stopped true))
    ∧ (s.cmp.recorder ≠ .send ∨ s.cmp.plan = none ∨ s.cmp.metadataSent = true →
      s.enterDormant.links.metadata = none) := by
  rw [State.enterDormant_links]
  refine ⟨fun plan hr hp hm => ?_, fun h => ?_⟩
  · rw [State.sendMetadata_sends (s.setLinks LinkOutputs.silent) true plan hr hp hm]
    rfl
  · rw [State.sendMetadata_silent (s.setLinks LinkOutputs.silent) true h]
    rfl

theorem State.enterDormant_no_line : s.enterDormant.links.display = .nothing
    ∧ s.enterDormant.links.recorder = .nothing ∧ s.enterDormant.links.rsync = false := by
  rw [State.enterDormant_links]
  simp [LinkOutputs.silent]

/-- The ports after DORMANT entry: the reply and STATE_CHANGED, in the order taken, and nothing else (R168, R180). -/
theorem State.enterDormant_answer_ports (p : Port) (r : Request) (replyFirst : Bool) :
    ((s.enterDormant.taken p).answerAndAnnounce replyFirst p ⟨r.tag, r.kind, .done, 0#8, []⟩ .dormantRequest).ports =
      (if replyFirst then (s.replied p r .done 0#8 []).raiseAll .stateChanged 3 6
        else (s.raiseAll .stateChanged 3 6).replied p r .done 0#8 []).ports := by
  have entered : (s.enterDormant.taken p).ports = (s.taken p).ports := by
    rw [← State.taken_enterDormant, State.enterDormant_ports]
  cases replyFirst
  · have announced : ((s.enterDormant.taken p).announce .dormantRequest).ports =
        ((s.raiseAll .stateChanged 3 6).taken p).ports := by
      rw [← State.taken_raiseAll]
      exact State.raiseAll_ports_congr entered (by simp [Timebase.hold]) _ _ _
    rw [if_neg Bool.false_ne_true, ← State.taken_answer]
    exact State.post_ports_congr announced _ _
  · rw [if_pos rfl, ← State.taken_answer]
    exact State.raiseAll_ports_congr (State.post_ports_congr entered _ _) (by simp [Timebase.hold]) _ _ _

theorem exec_dormant_of_reaches (p : Port) {r : Request} (replyFirst : Bool)
    (h : s.Reaches p .dormant r) : exec (.dormant p replyFirst) s =
    if s.stc.part = .run then .next (s.replied p r .wrongState 0#8 [])
    else if s.workStands then .next (s.replied p r .busy 0#8 [])
    else .next ((s.enterDormant.taken p).answerAndAnnounce replyFirst p ⟨r.tag, r.kind, .done, 0#8, []⟩
      .dormantRequest) := by
  change execDormant p replyFirst s = _
  rw [execDormant, serve_of_reaches s p h]
  simp only [State.taken_stc, State.taken_refuse, State.taken_enterDormant]
  rfl

end EnterDormant

/-- Settles O58, by one equation for each request (`exec_run_of_reaches`, `exec_quiet_of_reaches`,
`exec_dormant_of_reaches`) and what DORMANT entry leaves block by block. -/
theorem partStateRequests : Obligations.PartStateRequests := by
  refine fun p s r => ⟨fun h => ?_, fun h => ?_, fun replyFirst h => ?_⟩
  · rw [exec_run_of_reaches s p h]
    refine ⟨fun hrun hentry => ?_, fun e hrun hentry => ?_, fun hquiet => if_pos hquiet⟩
    · simp [hrun, hentry]
    · rw [if_neg (by simp [hrun])]
      simp only [hentry]
      rfl
  · rw [exec_quiet_of_reaches s p h]
    refine ⟨fun hrun hentry => ?_, fun hrun hentry => ?_, fun hquiet => if_pos hquiet⟩
    · rw [if_neg (by simp [hrun]), if_neg (by simp [hentry])]
    · rw [if_neg (by simp [hrun]), if_pos (Option.isSome_iff_ne_none.mpr hentry)]
  · rw [exec_dormant_of_reaches s p replyFirst h]
    refine ⟨fun hrun => if_pos hrun, fun hquiet => ?_⟩
    have quiet : ¬ s.stc.part = .run := by simp [hquiet]
    rw [if_neg quiet]
    refine ⟨fun hwork => if_pos (s.workStands_iff.mpr hwork), fun hports hstore hrequest => ?_⟩
    have idle : ¬ s.workStands = true := by simp [s.workStands_iff, hports, hstore, hrequest]
    rw [if_neg idle]
    refine ⟨_, rfl, ?_⟩
    rw [s.enterDormant_answer_ports p r]
    obtain ⟨hsent, hsilent⟩ := s.enterDormant_metadata
    obtain ⟨hdisplay, hrecorder, hrsync⟩ := s.enterDormant_no_line
    obtain ⟨hpopulation, hsource⟩ := s.cams.mapLinks_population CameraLink.enterDormant
    simpa [Timebase.hold, hpopulation, hsource, hdisplay, hrecorder, hrsync, CameraLink.enterDormant, -Fin.getElem_fin]
      using ⟨hsent, hsilent⟩

end Sys2Proof.Machine

/-! LINE_END and the counter (R51, R52, R63, R64, R147, R156 to R158): a value other than 0, and the TOP at 0. -/

namespace Sys2Proof.Machine

/-! ## The value the counter takes (R51) -/

theorem Timebase.arrival_eq (f : Timebase) : f.arrival =
    if f.dsyncDue = true ∨ f.resyncDue = true then f.phase
    else if f.line + 1 < f.period then f.line + 1 else 0 := by
  simp only [Timebase.arrival, Timebase.nextValue, Bool.or_eq_true]

theorem exec_lineEnd_of_held (out : Surroundings) (o : LineOrder) (s : State) (h : s.ftb.run = .held) :
    exec (.lineEnd out o) s = .next s := by
  change execLineEnd out o s = _
  rw [execLineEnd, if_pos h]

section OffTop

variable (s : State) (starting recHold : Bool) (o : LineOrder)

/-- At a value other than 0 no RSYNC is pulsed and no pin is read (R52, R157). -/
theorem State.lineEvents_off_top (h : s.ftb.line ≠ 0) :
    (s.lineEvents starting recHold o).links.rsync = s.links.rsync
    ∧ (s.lineEvents starting recHold o).pins = s.pins := by
  rw [s.lineEvents_of_ne_zero _ _ _ h]
  split <;> simp

/-- At a value other than 0 the plan, the modes, the palette and the overflow state stay (R142, R146, R157, R158). -/
theorem State.lineEvents_off_top_composer (h : s.ftb.line ≠ 0) :
    (s.lineEvents starting recHold o).cmp.plan = s.cmp.plan
    ∧ (s.lineEvents starting recHold o).cmp.output = s.cmp.output
    ∧ (s.lineEvents starting recHold o).cmp.recorder = s.cmp.recorder
    ∧ (s.lineEvents starting recHold o).cmp.palette = s.cmp.palette
    ∧ (s.lineEvents starting recHold o).cmp.overflow = s.cmp.overflow := by
  rw [s.lineEvents_of_ne_zero _ _ _ h]
  split <;> simp

end OffTop

/-! ## The timebase's part of a TOP (R52, R63) -/

/-- A TOP that counts a missing sync, or does not. -/
theorem Timebase.top_eq (f : Timebase) {missing lost : Bool} {missed : Nat}
    (hmissing : missing = (f.genlockOn && !f.dsyncSinceTop))
    (hmissed : missed = if missing then min 3 (f.missed + 1) else f.missed)
    (hlost : lost = (missing && decide (f.genlock = .locked) && decide (missed = 3))) :
    f.top false = { f with
      frame := f.frame + 1#16, period := f.stagedPeriod, dsyncSinceTop := false, missed := missed
      good := if missing then 0 else f.good
      genlock := if lost then .hunting else f.genlock } := by
  have misses : f.missesSync false = missing := by
    rw [hmissing, Timebase.missesSync]
    simp
  rw [Timebase.top, misses, hlost, hmissed]
  cases missing <;> simp

/-- GENLOCK_LOST is raised exactly if LOCKED becomes HUNTING (R63, R64). -/
theorem State.timebaseTop_eq (s : State) {missing lost : Bool} {missed : Nat}
    (hmissing : missing = (s.ftb.genlockOn && !s.ftb.dsyncSinceTop))
    (hmissed : missed = if missing then min 3 (s.ftb.missed + 1) else s.ftb.missed)
    (hlost : lost = (missing && decide (s.ftb.genlock = .locked) && decide (missed = 3))) : s.timebaseTop false =
    if lost then (s.setFtb (s.ftb.top false)).raiseAll .genlockLost 0 0 else s.setFtb (s.ftb.top false) := by
  have raised : (s.ftb.genlock = .locked ∧ (s.ftb.top false).genlock = .hunting) ↔ lost = true := by
    rw [s.ftb.top_eq hmissing hmissed hlost]
    cases lost with
    | true => simpa using (by simpa [and_assoc] using hlost.symm : _ ∧ s.ftb.genlock = .locked ∧ _).2.1
    | false => simp +contextual
  simp only [State.timebaseTop, State.setFtb_ftb, raised]

/-! ## The ports at a TOP (R64, R76, R146) -/

/-- The two states hold the same records and would stamp an alert with the same frame number. -/
def State.SamePorts (s t : State) : Prop := s.ports = t.ports ∧ s.ftb.frame = t.ftb.frame

theorem State.SamePorts.raiseAll {s t : State} (h : s.SamePorts t) (c : AlertCode) (a b : Nat) :
    (s.raiseAll c a b).SamePorts (t.raiseAll c a b) := ⟨State.raiseAll_ports_congr h.1 h.2 c a b, h.2⟩

/-- One camera's plan request raises its alert, or none (R76). -/
theorem State.planRequest_samePorts (s : State) (k : Fin 4) :
    (∀ code, s.cams.links[k].planRequest.2 = some code → (s.planRequest k).SamePorts (s.raiseAll code k.val 0))
    ∧ (s.cams.links[k].planRequest.2 = none → (s.planRequest k).SamePorts s) := by
  refine ⟨fun code h => ?_, fun h => ?_⟩
  · simp only [State.planRequest, h]
    exact State.SamePorts.raiseAll (s := s.setLink k _) ⟨rfl, rfl⟩ code k.val 0
  · simp only [State.planRequest, h]
    exact ⟨rfl, rfl⟩

theorem State.SamePorts.trans {s t u : State} (h : s.SamePorts t) (k : t.SamePorts u) : s.SamePorts u :=
  ⟨h.1.trans k.1, h.2.trans k.2⟩

/-- The plan requests tell what `told` says of each camera in turn (R76; log 11). -/
theorem State.planRequests_samePorts {s : State} {told : Nat → State} (h0 : s.SamePorts (told 0))
    (some_told : ∀ (k : Fin 4) code, s.cams.links[k].planRequest.2 = some code →
      told (k.val + 1) = (told k.val).raiseAll code k.val 0)
    (none_told : ∀ k : Fin 4, s.cams.links[k].planRequest.2 = none → told (k.val + 1) = told k.val) :
    s.planRequests.SamePorts (told 4) := by
  have next : ∀ (k : Fin 4) (u : State), u.SamePorts (told k.val) → u.cams.links[k] = s.cams.links[k] →
      (u.planRequest k).SamePorts (told (k.val + 1)) := by
    intro k u hu hk
    obtain ⟨some_raised, none_raised⟩ := u.planRequest_samePorts k
    cases h : s.cams.links[k].planRequest.2 with
    | some code =>
      rw [some_told k code h]
      exact (some_raised code (hk ▸ h)).trans (hu.raiseAll code k.val 0)
    | none =>
      rw [none_told k h]
      exact (none_raised (hk ▸ h)).trans hu
  have first := next 0 s h0 rfl
  have second := next 1 _ first (by simp only [State.planRequest_link]; rfl)
  have third := next 2 _ second (by simp only [State.planRequest_link]; rfl)
  exact next 3 _ third (by simp only [State.planRequest_link]; rfl)

/-! ## A whole TOP (R52, R142, R147, R156 to R158) -/

section Top

variable (s : State) (starting recHold : Bool)

/-- The state whose timebase and cameras a TOP moves: the frame before is closed, RSYNC pulsed and REC_HOLD taken
(R52, R156, R157). -/
def State.openTop : State :=
  ((s.sendMetadata true).setLinks { (s.sendMetadata true).links with rsync := true }).setPins
    { (s.sendMetadata true).pins with recHold := recHold }

theorem State.fireTop_eq : s.fireTop starting recHold =
    (((s.openTop recHold).timebaseTop starting).planRequests).takePlan recHold := rfl

@[simp] theorem State.openTop_ports : (s.openTop recHold).ports = s.ports := by simp [State.openTop]
@[simp] theorem State.openTop_ftb : (s.openTop recHold).ftb = s.ftb := by simp [State.openTop]
@[simp] theorem State.openTop_cams : (s.openTop recHold).cams = s.cams := by simp [State.openTop]

/-- The plan taken is the one of the state that the TOP leaves (R142). -/
theorem State.takePlan_planNow (b : Bool) : (s.takePlan b).planNow = s.planNow := by
  simp [State.planNow, State.takePlan_cmp]

theorem State.fireTop_cmp : (s.fireTop starting recHold).cmp =
    ⟨some (s.fireTop starting recHold).planNow, s.cmp.palette,
      decide (0 < (s.fireTop starting recHold).planNow.leftOut), outputModeFor s.stc.part,
      recorderModeFor s.stc.part recHold, [], false⟩ := by
  simp only [State.fireTop, State.takePlan_planNow, State.takePlan_cmp]
  simp

theorem State.fireTop_pins : (s.fireTop starting recHold).pins = { s.pins with recHold := recHold } := by
  simp [State.fireTop]

theorem State.fireTop_population : (s.fireTop starting recHold).cams.population = s.cams.population
    ∧ (s.fireTop starting recHold).cams.source = s.cams.source := by
  simp [State.fireTop, State.planRequests, State.planRequest_population]

theorem State.fireTop_links : (s.fireTop starting recHold).links =
    { (s.sendMetadata true).links with rsync := true } := by
  simp [State.fireTop]

/-- The alerts of a TOP: what the timebase and the cameras raise, then PLAN_OVERFLOW (R146; log 11). -/
theorem State.fireTop_ports {t : State}
    (h : ((s.openTop recHold).timebaseTop starting).planRequests.SamePorts t) :
    (s.fireTop starting recHold).ports =
      (if 0 < (s.fireTop starting recHold).planNow.leftOut ∧ s.cmp.overflow = false then
        t.raiseAll .planOverflow 0 0 else t).ports := by
  have overflow : ((s.openTop recHold).timebaseTop starting).planRequests.cmp.overflow = s.cmp.overflow := by
    simp [State.openTop]
  rw [State.fireTop_eq, State.takePlan_planNow]
  generalize ((s.openTop recHold).timebaseTop starting).planRequests = u at h overflow
  rw [State.takePlan, ← overflow]
  split
  · exact (State.SamePorts.raiseAll (s := u.setCmp _) h _ _ _).1
  · exact h.1

/-- A plan request makes no camera active or idle, and leaves its power-off timer (R74, R75). -/
theorem CameraLink.planRequest_takesFrames (x : CameraLink) : x.planRequest.1.takesFrames = x.takesFrames := by
  have counted : x.countRequest.powerOff = x.powerOff := by
    unfold CameraLink.countRequest
    dsimp only
    split <;> split <;> rfl
  unfold CameraLink.planRequest
  split
  · rename_i active
    unfold CameraLink.moveAfterRequest CameraLink.takesFrames
    rw [x.countRequest_link, active]
    repeat' split
    all_goals simp_all [LinkState.isActive, x.countRequest_link]
  · rfl

end Top

/-! ## LINE_END at 0 -/

section LineEndTop

variable (out : Surroundings) (o : LineOrder) (s : State)

@[simp] theorem State.arrived_pending : (s.arrived out).pending = s.pending := rfl

/-- A LINE_END that takes 0: the TOP fires, line 0 is drawn and the strobes of value 0 fire (R51). -/
theorem exec_lineEnd_top (hrun : s.ftb.run = .running) (h0 : s.ftb.arrival = 0) (hc : 720 ≤ s.ftb.commitLine) :
    exec (.lineEnd out o) s = .next ((((s.arrived out).fireTop false out.recHold).drawLine 0).setLinks
      { (((s.arrived out).fireTop false out.recHold).drawLine 0).links with
        strobed := Vector.ofFn ((s.arrived out).fireTop false out.recHold).strobes }) := by
  have line : ((s.arrived out).fireTop false out.recHold).ftb.line = 0 := by
    obtain ⟨_, _, _, e⟩ := (s.arrived out).ftb.top_keeps false
    rw [State.fireTop_ftb, e]
    exact h0
  have drawn := ((s.arrived out).fireTop false out.recHold).canvasLine_drawn (by rw [line]; decide)
  rw [line, if_neg (by decide)] at drawn
  rw [exec_lineEnd_of_running out o s hrun, State.lineEvents_top _ _ _ _ h0 (Nat.ne_of_gt (by
    rw [State.arrived_commitLine]; omega)), State.canvasLine_strobe, drawn]

end LineEndTop

/-- Settles O41: away from 0 by `State.lineEvents_off_top`, at 0 by `exec_lineEnd_top` and what a TOP leaves block by
block, its alerts by `State.fireTop_ports`. -/
theorem lineEndMovesCounter : Obligations.LineEndMovesCounter := by
  refine fun out order s => ⟨exec_lineEnd_of_held out order s, fun hrun v hv => ?_⟩
  have arrival : s.ftb.arrival = v := s.ftb.arrival_eq.trans hv.symm
  refine ⟨fun hne => ⟨_, exec_lineEnd_of_running out order s hrun, ?_⟩,
    fun h0 hc missing lost missed f hmissing hmissed hlost hf told htold0 htold => ?_⟩
  · have line : (s.arrived out).ftb.line ≠ 0 := by rwa [State.arrived_line, arrival]
    obtain ⟨hrsync, hpins⟩ := (s.arrived out).lineEvents_off_top false out.recHold order line
    refine ⟨?_, hrsync, ?_⟩
    · rw [State.lineEvents_ftb, if_neg line, State.arrived_ftb, arrival, Timebase.moveTo]
    · obtain ⟨hplan, houtput, hrecorder, hpalette, hoverflow⟩ :=
        (s.arrived out).lineEvents_off_top_composer false out.recHold order line
      exact ⟨hplan, houtput, hrecorder, hpalette, hoverflow, hpins⟩
  · rw [h0] at arrival
    have moved : (s.arrived out).ftb = s.ftb.moveTo 0 := by rw [State.arrived_ftb, arrival]
    have ftb : (s.arrived out).ftb.top false = f := by
      rw [hf, moved, Timebase.top_eq (s.ftb.moveTo 0) hmissing hmissed hlost]
      rfl
    have told_timebase : (((s.arrived out).openTop out.recHold).timebaseTop false).SamePorts (told 0) := by
      rw [htold0, State.timebaseTop_eq (missing := missing) (lost := lost) (missed := missed) _
        (by rw [State.openTop_ftb, moved]; exact hmissing) (by rw [State.openTop_ftb, moved]; exact hmissed)
        (by rw [State.openTop_ftb, moved]; exact hlost), State.openTop_ftb, ftb]
      have same : ((s.arrived out).openTop out.recHold).setFtb f |>.SamePorts (s.setFtb f) := ⟨by simp, rfl⟩
      cases lost
      · exact same
      · exact same.raiseAll _ _ _
    have told_cameras : (((s.arrived out).openTop out.recHold).timebaseTop false).planRequests.SamePorts (told 4) := by
      refine State.planRequests_samePorts told_timebase (fun k code h => ?_) (fun k h => ?_)
      all_goals
        rw [State.timebaseTop_cams, State.openTop_cams, State.arrived_cams] at h
        rw [htold k, h]
    obtain ⟨hpopulation, hsource⟩ := (s.arrived out).fireTop_population false out.recHold
    refine ⟨(s.arrived out).fireTop false out.recHold, by rw [State.fireTop_ftb, ftb], by simp, by simp, by simp,
      by simp, by simp, by simp, by simp, State.fireTop_pins _ _ _, hpopulation, hsource,
      fun k => State.fireTop_link _ _ _ k, ?_, State.fireTop_ports _ _ _ told_cameras, ?_, ?_, by simp,
      fun plan hr hp hm => ?_, fun hsilent => ?_, _, exec_lineEnd_top out order s hrun arrival hc, fun k => ?_⟩
    · rw [State.fireTop_cmp, State.arrived_stc]
      cases s.stc.part <;> rfl
    · rw [State.fireTop_links]
      simp [LinkOutputs.silent]
    · rw [State.fireTop_links]
      simp [LinkOutputs.silent]
    · rw [State.fireTop_links, State.sendMetadata_sends (s.arrived out) true plan hr hp hm]
      rfl
    · rw [State.fireTop_links, State.sendMetadata_silent (s.arrived out) true hsilent]
      rfl
    · rw [ofFn_get, State.strobes, State.fireTop_link, CameraLink.planRequest_takesFrames, Bool.and_eq_true,
        CameraLink.takesFrames_iff, decide_eq_true_eq, State.fireTop_ftb, ftb, hf]
      rfl

end Sys2Proof.Machine

/-! QUIET entry and exit, tested at BLANK (R53, R82, R83, R174, R176, R177). -/

namespace Sys2Proof.Machine

/-! ## What the ports are told -/

/-- Replies posted and alerts raised: a change of the ports alone, made from the ports and the frame number alone
(R164, R167). -/
structure State.Tells (told : State → State) : Prop where
  only_ports : ∀ u, told u = u.setPorts (told u).ports
  same_ports : ∀ {u v : State}, u.SamePorts v → (told u).ports = (told v).ports

theorem State.tells_id : State.Tells id := ⟨fun _ => rfl, fun h => h.1⟩

theorem State.tells_post (p : Port) (r : Reply) : State.Tells (fun u => u.post p r) :=
  ⟨fun _ => rfl, fun h => State.post_ports_congr h.1 p r⟩

theorem State.tells_raiseAll (c : AlertCode) (a b : Nat) : State.Tells (fun u => u.raiseAll c a b) :=
  ⟨fun _ => rfl, fun h => State.raiseAll_ports_congr h.1 h.2 c a b⟩

theorem State.Tells.samePorts {told : State → State} (h : State.Tells told) {u v : State} (k : u.SamePorts v) :
    (told u).SamePorts (told v) := by
  refine ⟨h.same_ports k, ?_⟩
  rw [h.only_ports u, h.only_ports v]
  exact k.2

theorem State.Tells.comp {f g : State → State} (hf : State.Tells f) (hg : State.Tells g) :
    State.Tells (fun u => f (g u)) := by
  refine ⟨fun u => ?_, fun k => hf.same_ports (hg.samePorts k)⟩
  rw [hf.only_ports (g u), hg.only_ports u]
  rfl

/-! ## The test of a state (R174) -/

section BlankTest

variable (s : State) (replyFirst : Bool)

/-- In RUN with no entry pending, in BOOT and in DORMANT nothing is tested. -/
theorem State.blankTest_untested (h : s.stc.part = .run → s.stc.entry = none)
    (hq : s.stc.part ≠ .quiet) : s.blankTest replyFirst = s := by
  unfold State.blankTest
  cases hp : s.stc.part with
  | run => simp only [State.entryTest, h hp]
  | quiet => exact absurd hp hq
  | boot => rfl
  | dormant => rfl

/-- A pending entry is refused unless stopped, and by a safety condition (R176). -/
theorem State.blankTest_refuses {e : PendingEntry} (hp : s.stc.part = .run) (he : s.stc.entry = some e)
    (h : s.scn.stopped = false ∨ s.safetyCondition = true) : s.blankTest replyFirst =
      s.refuseEntry e (if s.scn.stopped = false then .notStopped else .safetyCondition) := by
  simp only [State.blankTest, hp, State.entryTest, he]
  by_cases hs : s.scn.stopped = false
  · rw [if_pos hs, if_pos hs]
  · rw [if_neg hs, if_neg hs, if_pos (h.resolve_left hs)]

/-- A pending entry is taken while stopped with no safety condition (R176, R83). -/
theorem State.blankTest_enters {e : PendingEntry} (hp : s.stc.part = .run) (he : s.stc.entry = some e)
    (hs : s.scn.stopped = true) (h : ¬ s.safetyCondition = true) :
    s.blankTest replyFirst = s.enterQuiet e replyFirst := by
  simp only [State.blankTest, hp, State.entryTest, he]
  rw [if_neg (by simp [hs]), if_neg h]

/-- QUIET is left for the first cause that applies (R177, R82). -/
theorem State.blankTest_leaves {c : Cause} (hp : s.stc.part = .quiet) (h : s.exitCause = some c) :
    s.blankTest replyFirst = ((s.moveTo .run).setCams (s.cams.mapLinks CameraLink.enterRun)).announce c := by
  simp only [State.blankTest, hp, State.exitTest, h]

theorem State.blankTest_stays (hp : s.stc.part = .quiet) (h : s.exitCause = none) : s.blankTest replyFirst = s := by
  simp only [State.blankTest, hp, State.exitTest, h]

theorem State.enterQuiet_stc (e : PendingEntry) : (s.enterQuiet e replyFirst).stc = ⟨.quiet, none, false⟩ := by
  simp [State.enterQuiet, State.moveTo]

theorem State.enterQuiet_cams (e : PendingEntry) :
    (s.enterQuiet e replyFirst).cams = s.cams.mapLinks CameraLink.enterQuiet := by
  simp [State.enterQuiet]

/-- QUIET entry answers the pending QUIET and announces, in the order taken (R168, R176). -/
def State.tellEntry (e : PendingEntry) (u : State) : State :=
  if replyFirst then (u.post e.port ⟨e.tag, 0x71#8, .done, 0#8, []⟩).raiseAll .stateChanged 2 2
  else (u.raiseAll .stateChanged 2 2).post e.port ⟨e.tag, 0x71#8, .done, 0#8, []⟩

theorem State.tells_tellEntry (e : PendingEntry) : State.Tells (State.tellEntry replyFirst e) := by
  cases replyFirst
  · exact (State.tells_post _ _).comp (State.tells_raiseAll _ _ _)
  · exact (State.tells_raiseAll _ _ _).comp (State.tells_post _ _)

theorem State.enterQuiet_ports (e : PendingEntry) :
    (s.enterQuiet e replyFirst).ports = (s.tellEntry replyFirst e).ports := by
  cases replyFirst <;> rfl

end BlankTest

/-- The links on QUIET entry: an active camera is IDLE with its slots FREE (R83). -/
theorem CameraLink.enterQuiet_eq (x : CameraLink) : x.enterQuiet =
    if x.link ∈ [LinkState.starting, .locked, .lost] then { x with
      link := .idle, slots := #v[.free, .free, .free], miss := 0, fresh := 0, starting := 0
      power := x.powerOff.isNone } else x := by
  have active : x.link.isActive = true ↔ x.link ∈ [LinkState.starting, .locked, .lost] := by
    cases x.link <;> simp [LinkState.isActive]
  simp only [CameraLink.enterQuiet, active]
  rfl

/-! ## BLANK and COMMIT do not see the links -/

section Links

variable (s : State) (l : LinkOutputs) (o : LineOrder)

theorem State.setLinks_resolveSet (p : Port) : (s.setLinks l).resolveSet p = (s.resolveSet p).setLinks l := by
  simp only [State.resolveSet, State.setLinks_ltb, State.setLinks_cams, State.setLinks_ovm, State.setLinks_ftb]
  cases s.ltb.sets.get p with
  | none => rfl
  | some x => dsimp only; split <;> rfl

theorem State.setLinks_commitEvent : (s.setLinks l).commitEvent = s.commitEvent.setLinks l := by
  simp only [State.commitEvent, State.setLinks_resolveSet]

theorem State.setLinks_blankTest (b : Bool) : (s.setLinks l).blankTest b = (s.blankTest b).setLinks l := by
  have safety : (s.setLinks l).safetyCondition = s.safetyCondition := rfl
  have cause : (s.setLinks l).exitCause = s.exitCause := rfl
  simp only [State.blankTest, State.entryTest, State.exitTest, safety, cause, State.setLinks_stc, State.setLinks_scn]
  cases s.stc.part with
  | run =>
    dsimp only
    cases s.stc.entry with
    | none => rfl
    | some e =>
      dsimp only
      split_ifs
      · rfl
      · rfl
      · cases b <;> rfl
  | quiet =>
    dsimp only
    cases s.exitCause <;> rfl
  | boot => rfl
  | dormant => rfl

theorem State.setLinks_blank : (s.setLinks l).blank o = (s.blank o).setLinks l := by
  unfold State.blank
  split
  · exact State.setLinks_blankTest s.ageStep l _
  · rw [State.setLinks_blankTest]
    rfl

theorem State.setLinks_blankAndCommit : (s.setLinks l).blankAndCommit o = (s.blankAndCommit o).setLinks l := by
  simp only [State.blankAndCommit_eq, State.setLinks_ftb, State.setLinks_blank, State.setLinks_commitEvent]
  split_ifs <;> rfl

end Links

/-! ## LINE_END at 720 -/

section AtBlank

variable (out : Surroundings) (o : LineOrder) (s : State)

/-- The state that BLANK finds: a COMMIT of the same value may have gone before (R53). -/
def State.beforeBlank : State :=
  if s.ftb.commitLine = 720 ∧ o.commitFirst = true then (s.arrived out).commitEvent else s.arrived out

/-- The state that the State Controller tests: the markers may have aged before (R113, R174). -/
def State.tested : State := if o.agingFirst then (s.beforeBlank out o).ageStep else s.beforeBlank out o

theorem State.beforeBlank_keeps : (s.beforeBlank out o).stc = s.stc ∧ (s.beforeBlank out o).cams = s.cams
    ∧ (s.beforeBlank out o).scn = s.scn ∧ (s.beforeBlank out o).mkm = s.mkm
    ∧ (s.beforeBlank out o).ftb = s.ftb.moveTo s.ftb.arrival := by
  unfold State.beforeBlank
  split <;> simp

theorem State.beforeBlank_ltb : (s.beforeBlank out o).ltb =
    if s.ftb.commitLine = 720 ∧ o.commitFirst = true then s.commitEvent.ltb else s.ltb := by
  unfold State.beforeBlank
  split
  · exact (s.arrived_commitEvent out).2
  · rfl

theorem State.tested_keeps : (s.tested out o).stc = s.stc ∧ (s.tested out o).cams = s.cams
    ∧ (s.tested out o).ltb = (s.beforeBlank out o).ltb := by
  obtain ⟨stc, cams, _, _, _⟩ := s.beforeBlank_keeps out o
  unfold State.tested
  split <;> simp [stc, cams]

theorem State.tested_scn : (s.tested out o).scn =
    if o.agingFirst then { s.scn with near := anyNear (ageMarkers s.mkm.markers) } else s.scn := by
  obtain ⟨_, _, scn, mkm, _⟩ := s.beforeBlank_keeps out o
  unfold State.tested
  split
  · rw [← scn, ← mkm]
    rfl
  · exact scn

theorem State.tested_stopped : (s.tested out o).scn.stopped = s.scn.stopped := by
  rw [State.tested_scn]
  split <;> rfl

/-- Testing before the markers age or after, the ports, the part state and the cameras are as the test leaves
them (R113, R174). -/
theorem State.blank_tested : ((s.beforeBlank out o).blank o).ports = ((s.tested out o).blankTest o.replyFirst).ports
    ∧ ((s.beforeBlank out o).blank o).stc = ((s.tested out o).blankTest o.replyFirst).stc
    ∧ ((s.beforeBlank out o).blank o).cams = ((s.tested out o).blankTest o.replyFirst).cams := by
  unfold State.blank State.tested
  split
  · exact ⟨rfl, rfl, rfl⟩
  · simp

theorem State.tested_samePorts : (s.tested out o).SamePorts (s.beforeBlank out o) := by
  unfold State.tested
  split <;> exact ⟨rfl, rfl⟩

/-- The ports once the test at 720 has told what it tells: COMMIT is at another value, before it or after it
(R36, R53). -/
def State.afterBlank (told : State → State) : State :=
  if s.ftb.commitLine ≠ 720 then told s
  else if o.commitFirst then told s.commitEvent else (told s).commitEvent

/-- A LINE_END that takes 720: the part state and the cameras are the test's, and the ports are told what the test
tells (R36, R53). -/
theorem exec_lineEnd_at_blank (hrun : s.ftb.run = .running) (h720 : s.ftb.arrival = 720) {told : State → State}
    (tells : State.Tells told)
    (htold : ((s.tested out o).blankTest o.replyFirst).ports = (told (s.tested out o)).ports) :
    ∃ t, exec (.lineEnd out o) s = .next t
      ∧ t.stc = ((s.tested out o).blankTest o.replyFirst).stc
      ∧ t.cams = ((s.tested out o).blankTest o.replyFirst).cams
      ∧ t.ports = (s.afterBlank o told).ports := by
  refine ⟨_, exec_lineEnd_of_running out o s hrun, ?_⟩
  have strobed : ∃ l, (s.arrived out).lineEvents false out.recHold o =
      ((s.arrived out).blankAndCommit o).setLinks l := by
    rw [(s.arrived out).lineEvents_blanking _ _ _ (by rw [State.arrived_line]; omega)]
    split
    · exact ⟨_, State.setLinks_blankAndCommit _ _ _⟩
    · exact ⟨_, rfl⟩
  obtain ⟨l, hl⟩ := strobed
  rw [hl, State.setLinks_stc, State.setLinks_cams, State.setLinks_ports, State.blankAndCommit_eq, State.arrived_line,
    State.arrived_commitLine, if_pos h720, h720]
  obtain ⟨ports, stc, cams⟩ := s.blank_tested out o
  have told_before : ((s.beforeBlank out o).blank o).ports = (told (s.beforeBlank out o)).ports :=
    (ports.trans htold).trans (tells.same_ports (s.tested_samePorts out o))
  unfold State.afterBlank
  have told_arrived : (told (s.arrived out)).ports = (told s).ports := tells.same_ports ⟨rfl, rfl⟩
  by_cases hc : s.ftb.commitLine = 720
  · rw [if_pos hc.symm, if_neg (not_not.mpr hc)]
    cases hfirst : o.commitFirst
    · have before : s.beforeBlank out o = s.arrived out := by simp [State.beforeBlank, hfirst]
      rw [before] at told_before stc cams
      rw [if_neg Bool.false_ne_true, if_neg Bool.false_ne_true, State.commitEvent_stc, State.commitEvent_cams]
      refine ⟨stc, cams, (State.commitEvent_reads (told_before.trans told_arrived) ?_ ?_ ?_ ?_).1⟩
      all_goals rw [tells.only_ports s]
      · simp
      · rw [State.blank_presence]
        rfl
      · rw [State.blank_ovm]
        exact (Overlay.suffer_keeps _ _).1
      · rw [State.blank_ftb]
        rfl
    · have before : s.beforeBlank out o = (s.arrived out).commitEvent := by simp [State.beforeBlank, hfirst, hc]
      rw [before] at told_before stc cams
      rw [if_pos rfl, if_pos rfl]
      refine ⟨stc, cams, told_before.trans (tells.same_ports ⟨(s.arrived_commitEvent out).1, ?_⟩)⟩
      simp [Timebase.moveTo]
  · have before : s.beforeBlank out o = s.arrived out := by simp [State.beforeBlank, hc]
    rw [before] at told_before stc cams
    rw [if_neg (Ne.symm hc), if_pos hc]
    exact ⟨stc, cams, told_before.trans told_arrived⟩

/-! The outcomes of the test. -/

/-- The answer to a pending entry that is refused (R176). -/
def State.tellRefusal (stopped : Bool) (e : PendingEntry) (u : State) : State :=
  u.post e.port ⟨e.tag, 0x71#8, .refusedCondition, 0#8, [if stopped = false then 0x03#8 else 0x04#8]⟩

/-- The alert of leaving QUIET (R177, R180). -/
def State.tellExit (c : Cause) (u : State) : State := u.raiseAll .stateChanged 1 c.number

/-- A test that changes nothing tells nothing. -/
theorem exec_lineEnd_of_untested (hrun : s.ftb.run = .running) (h720 : s.ftb.arrival = 720)
    (h : (s.tested out o).blankTest o.replyFirst = s.tested out o) : ∃ t, exec (.lineEnd out o) s = .next t
      ∧ t.stc = s.stc ∧ t.cams = s.cams ∧ t.ports = (s.afterBlank o id).ports := by
  obtain ⟨stc, cams, _⟩ := s.tested_keeps out o
  obtain ⟨t, run, tstc, tcams, ports⟩ := exec_lineEnd_at_blank out o s hrun h720 State.tells_id (congrArg _ h)
  rw [h] at tstc tcams
  exact ⟨t, run, tstc.trans stc, tcams.trans cams, ports⟩

/-- QUIET is entered (R83, R176). -/
theorem exec_lineEnd_enters (hrun : s.ftb.run = .running) (h720 : s.ftb.arrival = 720) {e : PendingEntry}
    (hp : s.stc.part = .run) (he : s.stc.entry = some e) (hs : s.scn.stopped = true)
    (h : ¬ (s.tested out o).safetyCondition = true) : ∃ t, exec (.lineEnd out o) s = .next t
      ∧ t.stc = ⟨.quiet, none, false⟩ ∧ t.cams = s.cams.mapLinks CameraLink.enterQuiet
      ∧ t.ports = (s.afterBlank o (State.tellEntry o.replyFirst e)).ports := by
  obtain ⟨stc, cams, _⟩ := s.tested_keeps out o
  have enters := (s.tested out o).blankTest_enters o.replyFirst (stc ▸ hp) (stc ▸ he)
    ((s.tested_stopped out o).trans hs) h
  obtain ⟨t, run, tstc, tcams, ports⟩ := exec_lineEnd_at_blank out o s hrun h720 (State.tells_tellEntry _ e)
    ((congrArg State.ports enters).trans ((s.tested out o).enterQuiet_ports _ e))
  rw [enters, State.enterQuiet_stc] at tstc
  rw [enters, State.enterQuiet_cams, cams] at tcams
  exact ⟨t, run, tstc, tcams, ports⟩

/-- A pending entry is refused (R176). -/
theorem exec_lineEnd_refuses (hrun : s.ftb.run = .running) (h720 : s.ftb.arrival = 720) {e : PendingEntry}
    (hp : s.stc.part = .run) (he : s.stc.entry = some e)
    (h : s.scn.stopped = false ∨ (s.tested out o).safetyCondition = true) :
    ∃ t, exec (.lineEnd out o) s = .next t ∧ t.stc = { s.stc with entry := none } ∧ t.cams = s.cams
      ∧ t.ports = (s.afterBlank o (State.tellRefusal s.scn.stopped e)).ports := by
  obtain ⟨stc, cams, _⟩ := s.tested_keeps out o
  have stopped := s.tested_stopped out o
  have refuses := (s.tested out o).blankTest_refuses o.replyFirst (stc ▸ hp) (stc ▸ he) (stopped.symm ▸ h)
  obtain ⟨t, run, tstc, tcams, ports⟩ := exec_lineEnd_at_blank out o s hrun h720
    (told := State.tellRefusal s.scn.stopped e) (State.tells_post _ _)
    (by rw [refuses, stopped]; cases s.scn.stopped <;> rfl)
  rw [refuses, State.refuseEntry, State.post_stc, State.setStc_stc, stc] at tstc
  rw [refuses, State.refuseEntry, State.post_cams, State.setStc_cams, cams] at tcams
  exact ⟨t, run, tstc, tcams, ports⟩

/-- QUIET is left for a cause (R82, R177). -/
theorem exec_lineEnd_leaves (hrun : s.ftb.run = .running) (h720 : s.ftb.arrival = 720) {c : Cause}
    (hp : s.stc.part = .quiet) (h : (s.tested out o).exitCause = some c) :
    ∃ t, exec (.lineEnd out o) s = .next t ∧ t.stc = ⟨.run, none, false⟩
      ∧ t.cams = s.cams.mapLinks CameraLink.enterRun
      ∧ t.ports = (s.afterBlank o (State.tellExit c)).ports := by
  obtain ⟨stc, cams, _⟩ := s.tested_keeps out o
  have leaves := (s.tested out o).blankTest_leaves o.replyFirst (stc ▸ hp) h
  obtain ⟨t, run, tstc, tcams, ports⟩ := exec_lineEnd_at_blank out o s hrun h720
    (told := State.tellExit c) (State.tells_raiseAll _ _ _) (by rw [leaves]; rfl)
  rw [leaves] at tstc tcams
  exact ⟨t, run, tstc, by simpa [cams] using tcams, ports⟩

end AtBlank

/-- The safety condition of the state tested, on the table and the signals that the two orders leave (R53, R176). -/
theorem State.tested_safetyCondition (out : Surroundings) (o : LineOrder) (s : State) {scn : Conditioner}
    {table : LayerTable} (hscn : (s.tested out o).scn = scn) (htable : (s.tested out o).ltb = table) :
    (s.tested out o).safetyCondition = true ↔ ∃ i : Fin 24, table.slots[i].owner ≠ .none
      ∧ table.slots[i].active.enabled = true ∧ table.slots[i].active.cls = .safety
      ∧ table.slots[i].active.condition ≠ []
      ∧ ∀ x ∈ table.slots[i].active.condition, scn.signal x.signal = x.level := by
  rw [State.safetyCondition_iff, hscn, htable]

/-- Settles O43: `exec_lineEnd_at_blank` brings the statement to the test of one state, whose outcomes are
`exec_lineEnd_enters`, `exec_lineEnd_refuses`, `exec_lineEnd_leaves` and `exec_lineEnd_of_untested`. -/
theorem quietIsTestedAtBlank : Obligations.QuietIsTestedAtBlank := by
  intro out order s hrun h720 aged scn table haged hscn htable safety hsafety
  obtain ⟨stc, _, ltb⟩ := s.tested_keeps out order
  have stopped := s.tested_stopped out order
  have tested_scn : (s.tested out order).scn = scn := by
    rw [State.tested_scn, hscn, haged]
    rfl
  have safe : (s.tested out order).safetyCondition = true ↔ safety :=
    (s.tested_safetyCondition out order tested_scn
      (ltb.trans ((s.beforeBlank_ltb out order).trans htable.symm))).trans hsafety.symm
  have untested := exec_lineEnd_of_untested out order s hrun h720
  cases hpart : s.stc.part with
  | boot | dormant =>
    obtain ⟨t, run, _, _, ports⟩ :=
      untested (State.blankTest_untested _ _ (by simp [stc, hpart]) (by simp [stc, hpart]))
    exact ⟨t, id, run, ports, by simp, by simp, by simp⟩
  | run =>
    cases hentry : s.stc.entry with
    | none =>
      obtain ⟨t, run, tstc, tcams, ports⟩ :=
        untested (State.blankTest_untested _ _ (by simp [stc, hentry]) (by simp [stc, hpart]))
      exact ⟨t, id, run, ports, fun _ _ => ⟨tstc, tcams, rfl⟩, by simp, by simp⟩
    | some e =>
      by_cases h : s.scn.stopped = true ∧ ¬ safety
      · obtain ⟨t, run, tstc, tcams, ports⟩ :=
          exec_lineEnd_enters out order s hrun h720 hpart hentry h.1 (fun k => h.2 (safe.mp k))
        refine ⟨t, State.tellEntry order.replyFirst e, run, ports, by simp, fun e' _ he => ?_, by simp⟩
        obtain rfl := Option.some.inj he
        refine ⟨fun _ => ⟨tstc, fun k y hy => ?_, rfl⟩, fun k => absurd h (by grind)⟩
        rw [tcams, Cameras.mapLinks_link, ← hy, CameraLink.enterQuiet_eq]
      · have refused : s.scn.stopped = false ∨ safety := by grind
        obtain ⟨t, run, tstc, tcams, ports⟩ :=
          exec_lineEnd_refuses out order s hrun h720 hpart hentry (by rwa [safe])
        refine ⟨t, State.tellRefusal s.scn.stopped e, run, ports, by simp, fun e' _ he => ?_, by simp⟩
        obtain rfl := Option.some.inj he
        exact ⟨fun k => absurd k h, fun _ => ⟨tstc, tcams, rfl⟩⟩
  | quiet =>
    have cause : (s.tested out order).exitCause = if s.scn.stopped = false then some .notStopped
        else if (s.tested out order).safetyCondition then some .safetyCondition
        else if s.stc.runRequest then some .runRequest else none := by
      rw [State.exitCause, stopped, stc]
    cases hc : (s.tested out order).exitCause with
    | none =>
      obtain ⟨t, run, tstc, tcams, ports⟩ := untested (State.blankTest_stays _ _ (by simp [stc, hpart]) hc)
      exact ⟨t, id, run, ports, by simp, by simp, fun _ => ⟨by grind, fun _ _ _ => ⟨tstc, tcams, rfl⟩⟩⟩
    | some c =>
      obtain ⟨t, run, tstc, tcams, ports⟩ := exec_lineEnd_leaves out order s hrun h720 hpart hc
      have told : ∀ d, c = d → State.tellExit c = fun u : State => u.raiseAll .stateChanged 1 d.number :=
        fun d h => h ▸ rfl
      rw [hc] at cause
      refine ⟨t, State.tellExit c, run, ports, by simp, by simp, fun _ =>
        ⟨fun _ => ⟨tstc, fun k y hy => ?_, fun h => told .notStopped ?_, fun h k => told .safetyCondition ?_,
          fun h k => told .runRequest ?_⟩, by grind⟩⟩
      · rw [tcams, Cameras.mapLinks_link, ← hy]
        rfl
      all_goals grind

end Sys2Proof.Machine

/-! The Camera Links (chapter 4): what each operation finds in the slots of a link, and what it makes of them. -/

namespace Sys2Proof.Machine

/-! ## What a link's slots hold (R69) -/

section Slots

/-- The one position of which a search finds something is what it finds. -/
theorem findSome_finRange_of_only {n : Nat} {β : Type} {f : Fin n → Option β} {i : Fin n} {b : β} (hi : f i = some b)
    (others : ∀ j, j ≠ i → f j = none) : (List.finRange n).findSome? f = some b := by
  cases h : (List.finRange n).findSome? f with
  | none =>
    rw [List.findSome?_eq_none_iff.mp h i (List.mem_finRange i)] at hi
    cases hi
  | some c =>
    obtain ⟨j, -, hj⟩ := List.exists_of_findSome?_eq_some h
    by_cases hji : j = i
    · rw [← hi, ← hj, hji]
    · rw [others j hji] at hj
      cases hj

/-- The lowest position that passes is the one a search finds. -/
theorem find_finRange_of_lowest {n : Nat} {P : Fin n → Bool} {i : Fin n} (hi : P i = true)
    (below : ∀ j, j < i → P j = false) : (List.finRange n).find? P = some i := by
  refine List.find?_eq_some_iff_getElem.mpr ⟨hi, i.val, by simp, by simp, fun j hj => ?_⟩
  simpa using below ⟨j, hj.trans i.isLt⟩ hj

variable {x : CameraLink} {i : Fin 3}

theorem CameraLink.writing_eq_none (h : ∀ (i : Fin 3) q ls, x.slots[i] ≠ .writing q ls) : x.writing = none := by
  refine List.findSome?_eq_none_iff.mpr fun i _ => ?_
  split
  · rename_i hi
    exact absurd hi (h i _ _)
  · rfl

theorem CameraLink.slot_not_writing (h : x.writing = none) (i : Fin 3) (q : Word16) (ls : List CameraLine) :
    x.slots[i] ≠ .writing q ls := by
  intro hi
  have hn := List.findSome?_eq_none_iff.mp h i (List.mem_finRange i)
  rw [hi] at hn
  cases hn

theorem CameraLink.slot_of_writing {q : Word16} {ls : List CameraLine} (h : x.writing = some (i, q, ls)) :
    x.slots[i] = .writing q ls := by
  obtain ⟨j, -, hj⟩ := List.exists_of_findSome?_eq_some h
  split at hj
  · cases hj
    assumption
  · cases hj

theorem CameraLink.writing_of_only {q : Word16} {ls : List CameraLine} (hi : x.slots[i] = .writing q ls)
    (others : ∀ j : Fin 3, j ≠ i → ∀ q' ls', x.slots[j] ≠ .writing q' ls') : x.writing = some (i, q, ls) := by
  refine findSome_finRange_of_only (by rw [hi]) fun j hj => ?_
  split
  · rename_i hw
    exact absurd hw (others j hj _ _)
  · rfl

theorem CameraLink.heldSlot_eq_none (h : ∀ (i : Fin 3) f, x.slots[i] ≠ .held f) : x.heldSlot = none := by
  refine List.findSome?_eq_none_iff.mpr fun i _ => ?_
  split
  · rename_i hi
    exact absurd hi (h i _)
  · rfl

theorem CameraLink.heldSlot_of_only {f : CameraFrame} (hi : x.slots[i] = .held f)
    (only : ∀ (j : Fin 3) g, x.slots[j] = .held g → j = i) : x.heldSlot = some (i, f) := by
  refine findSome_finRange_of_only (by rw [hi]) fun j hj => ?_
  split
  · rename_i hw
    exact absurd (only j _ hw) hj
  · rfl

theorem CameraLink.readySlot_ne_none {f : CameraFrame} (hi : x.slots[i] = .ready f) : x.readySlot ≠ none := by
  intro h
  have hn := List.findSome?_eq_none_iff.mp h i (List.mem_finRange i)
  rw [hi] at hn
  cases hn

theorem CameraLink.lowestFree_of_lowest (hi : x.slots[i] = .free) (below : ∀ j : Fin 3, j < i → x.slots[j] ≠ .free) :
    x.lowestFree = some i :=
  find_finRange_of_lowest (decide_eq_true hi) fun j hj => decide_eq_false (below j hj)

end Slots

/-! ## One link of the four -/

section Link

variable (s : State) (k : Fin 4)

@[simp] theorem State.setLink_self : s.setLink k s.cams.links[k] = s := by
  rw [State.setLink, Fin.getElem_fin, Vector.set_getElem_self]
  rfl

theorem State.setLink_link (x : CameraLink) (j : Fin 4) :
    (s.setLink k x).cams.links[j] = if j = k then x else s.cams.links[j] := vectorSet_get _ _ _ _

/-- Power comes on at the timer's end if the camera is active, or IDLE in QUIET (R80). -/
theorem CameraLink.powerOn_eq (x : CameraLink) (part : PartState) : x.powerOn part = { x with
    powerOff := none
    power := x.power || decide (x.link ∈ [LinkState.starting, .locked, .lost])
      || decide (x.link = .idle ∧ part = .quiet) } := by
  have active : x.link.isActive = decide (x.link ∈ [LinkState.starting, .locked, .lost]) := by
    cases x.link <;> decide
  rw [CameraLink.powerOn, active, Bool.decide_and]

variable {s k}

theorem State.powerOffExpiry_of_stopped (h : s.cams.links[k].powerOff = none) : s.powerOffExpiry k = s := by
  rw [State.powerOffExpiry, h]
  rfl

theorem State.powerOffExpiry_of_running (h : s.cams.links[k].powerOff ≠ none) :
    s.powerOffExpiry k = s.setLink k (s.cams.links[k].powerOn s.stc.part) :=
  if_pos (Option.isSome_iff_ne_none.mpr h)

end Link

/-! ## Which slots a link can have together (R69) -/

section Apart

/-- No two slots are in the same state, but FREE ones. -/
def SlotsApart (v : Vector FrameSlot 3) : Prop :=
  ∀ i j : Fin 3, v[i] ≠ .free → v[i].number = v[j].number → i = j

@[simp] theorem FrameSlot.number_eq_zero (a : FrameSlot) : a.number = 0 ↔ a = .free := by
  cases a <;> simp [FrameSlot.number]

theorem FrameSlot.number_le (a : FrameSlot) : a.number ≤ 3 := by
  cases a <;> simp [FrameSlot.number]

theorem CameraLink.slotsIn_le_one_iff (x : CameraLink) (n : Nat) :
    x.slotsIn n ≤ 1 ↔ ∀ i j : Fin 3, x.slots[i].number = n → x.slots[j].number = n → i = j := by
  rw [CameraLink.slotsIn, ← List.toFinset_card_of_nodup ((List.nodup_finRange 3).filter _), Finset.card_le_one]
  simp
  grind

theorem CameraLink.good_iff (x : CameraLink) : x.Good ↔
    SlotsApart x.slots ∧ x.miss ≤ 3 ∧ x.fresh ≤ 2 ∧ x.starting ≤ 30 ∧ x.discards ≤ 255 := by
  have apart : SlotsApart x.slots ↔ x.slotsIn 1 ≤ 1 ∧ x.slotsIn 2 ≤ 1 ∧ x.slotsIn 3 ≤ 1 := by
    simp only [CameraLink.slotsIn_le_one_iff, SlotsApart, ne_eq, ← FrameSlot.number_eq_zero]
    constructor
    · intro h
      refine ⟨?_, ?_, ?_⟩ <;> exact fun i j hi hj => h i j (by omega) (by omega)
    · rintro ⟨h1, h2, h3⟩ i j hi hij
      have hle := x.slots[i].number_le
      obtain h | h | h : x.slots[i].number = 1 ∨ x.slots[i].number = 2 ∨ x.slots[i].number = 3 := by omega
      · exact h1 i j h (hij ▸ h)
      · exact h2 i j h (hij ▸ h)
      · exact h3 i j h (hij ▸ h)
  rw [apart]
  simp only [CameraLink.Good, and_assoc]

theorem SlotsApart.replicate_free : SlotsApart (Vector.replicate 3 FrameSlot.free) := by
  intro i j hi
  exact absurd (replicate_get _ i) hi

/-- A change of the state of every slot that brings no two together. -/
theorem SlotsApart.map {v : Vector FrameSlot 3} (hv : SlotsApart v) {f : FrameSlot → FrameSlot}
    (hf : ∀ a b, f a ≠ .free → (f a).number = (f b).number → a ≠ .free ∧ a.number = b.number) :
    SlotsApart (Vector.ofFn (fun i => f v[i])) := by
  intro i j
  rw [ofFn_get, ofFn_get]
  intro hi hij
  obtain ⟨hfree, hnumber⟩ := hf _ _ hi hij
  exact hv i j hfree hnumber

/-- A slot written, to a state that no other slot is in. -/
theorem SlotsApart.set {v : Vector FrameSlot 3} (hv : SlotsApart v) {i : Fin 3} {a : FrameSlot}
    (ha : a ≠ .free → ∀ j : Fin 3, j ≠ i → v[j].number ≠ a.number) : SlotsApart (v.set i a) := by
  intro j k
  rw [vectorSet_get, vectorSet_get]
  split_ifs with hj hk hk
  · exact fun _ _ => hj.trans hk.symm
  · exact fun hfree hnumber => absurd hnumber.symm (ha hfree k hk)
  · refine fun hfree hnumber => absurd hnumber (ha (fun h => hfree ?_) j hj)
    rwa [h, FrameSlot.number, FrameSlot.number_eq_zero] at hnumber
  · exact hv j k

end Apart

/-! ## Every change of a link keeps its relation (R69 to R84) -/

section KeepsGood

variable {x : CameraLink}

theorem CameraLink.atReset_good (present : Bool) : (CameraLink.atReset present).Good :=
  (CameraLink.good_iff _).mpr ⟨SlotsApart.replicate_free, Nat.zero_le _, Nat.zero_le _, Nat.zero_le _, Nat.zero_le _⟩

/-- The slots and counts are all that a link's relation reads. -/
theorem CameraLink.Good.of_eq {y : CameraLink} (h : x.Good) (hs : y.slots = x.slots) (hm : y.miss = x.miss)
    (hf : y.fresh = x.fresh) (ht : y.starting = x.starting) (hd : y.discards = x.discards) : y.Good := by
  rw [CameraLink.good_iff] at h ⊢
  rwa [hs, hm, hf, ht, hd]

theorem CameraLink.Good.setLinkState (h : x.Good) (l : LinkState) : CameraLink.Good { x with link := l } :=
  h.of_eq rfl rfl rfl rfl rfl

theorem CameraLink.Good.powerOn (h : x.Good) (part : PartState) : (x.powerOn part).Good :=
  h.of_eq rfl rfl rfl rfl rfl

theorem CameraLink.Good.enterDormant (h : x.Good) : x.enterDormant.Good := h.of_eq rfl rfl rfl rfl rfl

theorem CameraLink.Good.setPowerOff (h : x.Good) (a : Option Nat) : CameraLink.Good { x with powerOff := a } :=
  h.of_eq rfl rfl rfl rfl rfl

theorem CameraLink.Good.enterRun (h : x.Good) : x.enterRun.Good := by
  unfold CameraLink.enterRun
  split
  · obtain ⟨hslots, -, -, -, hdiscards⟩ := x.good_iff.mp h
    exact (CameraLink.good_iff _).mpr ⟨hslots, by simp, by simp, by simp, hdiscards⟩
  · exact h

theorem CameraLink.Good.enterQuiet (h : x.Good) : x.enterQuiet.Good := by
  unfold CameraLink.enterQuiet
  split
  · obtain ⟨-, -, -, -, hdiscards⟩ := x.good_iff.mp h
    exact (CameraLink.good_iff _).mpr ⟨SlotsApart.replicate_free, by simp, by simp, by simp, hdiscards⟩
  · exact h

theorem CameraLink.Good.restart (h : x.Good) : x.restart.Good := by
  obtain ⟨hslots, -, -, -, hdiscards⟩ := x.good_iff.mp h
  refine (CameraLink.good_iff _).mpr ⟨hslots.map ?_, by simp [CameraLink.restart], by simp [CameraLink.restart],
    by simp [CameraLink.restart], hdiscards⟩
  intro a b
  cases a <;> cases b <;> simp [FrameSlot.keepHeld, FrameSlot.number]

/-- A plan request that finds a READY slot (R74). -/
theorem CameraLink.countRequest_of_ready (h : x.readySlot ≠ none) : x.countRequest = { x with
    slots := Vector.ofFn (fun i => x.slots[i].handOver), miss := 0, fresh := min 2 (x.fresh + 1)
    starting := if x.link = .starting ∧ x.powerOff = none then x.starting + 1 else x.starting } := by
  unfold CameraLink.countRequest
  cases hr : x.readySlot with
  | none => exact absurd hr h
  | some a =>
    dsimp only
    split_ifs <;> rfl

/-- A plan request that finds none (R74). -/
theorem CameraLink.countRequest_of_missed (h : x.readySlot = none) : x.countRequest = { x with
    miss := min 3 (x.miss + 1), fresh := 0
    starting := if x.link = .starting ∧ x.powerOff = none then x.starting + 1 else x.starting } := by
  unfold CameraLink.countRequest
  rw [h]
  dsimp only
  split_ifs <;> rfl

/-- The move after the counts writes the state and the starting count, which stays below 30 while STARTING (R75). -/
theorem CameraLink.moveAfterRequest_shape (y : CameraLink) : ∃ l n, y.moveAfterRequest.1 = { y with
    link := l, starting := n } ∧ (n = 0 ∨ n = y.starting ∧ (y.link = .starting → n < 30)) := by
  have moved : y.link ≠ .starting → ∀ l, ∃ l' n, ({ y with link := l } : CameraLink) = { y with
      link := l', starting := n } ∧ (n = 0 ∨ n = y.starting ∧ (y.link = .starting → n < 30)) :=
    fun hl l => ⟨l, _, rfl, .inr ⟨rfl, fun h => absurd h hl⟩⟩
  unfold CameraLink.moveAfterRequest
  split
  case h_1 =>
    split_ifs with hfresh h30
    · exact ⟨_, _, rfl, .inl rfl⟩
    · exact ⟨_, _, rfl, .inl rfl⟩
    · exact ⟨_, _, rfl, .inr ⟨rfl, fun _ => Nat.lt_of_not_le h30⟩⟩
  case h_2 hlink | h_3 hlink => split_ifs <;> exact moved (by simp [hlink]) _
  case h_4 hlink | h_5 hlink => exact moved (by simp [hlink]) y.link

/-- The slots and counts with which a plan request's move begins (R74). -/
theorem CameraLink.Good.countRequest (h : x.Good) : SlotsApart x.countRequest.slots ∧ x.countRequest.miss ≤ 3
    ∧ x.countRequest.fresh ≤ 2 ∧ x.countRequest.discards ≤ 255
    ∧ (x.link ≠ .starting → x.countRequest.starting ≤ 30) := by
  obtain ⟨hslots, hmiss, hfresh, hstarting, hdiscards⟩ := x.good_iff.mp h
  have counted : x.link ≠ .starting →
      (if x.link = .starting ∧ x.powerOff = none then x.starting + 1 else x.starting) ≤ 30 := by
    intro hl
    rwa [if_neg (fun h => hl h.1)]
  by_cases hr : x.readySlot = none
  · rw [CameraLink.countRequest_of_missed hr]
    exact ⟨hslots, Nat.min_le_left _ _, Nat.zero_le _, hdiscards, counted⟩
  · rw [CameraLink.countRequest_of_ready hr]
    refine ⟨hslots.map fun a b => ?_, Nat.zero_le _, Nat.min_le_left _ _, hdiscards, counted⟩
    cases a <;> cases b <;> simp [FrameSlot.handOver, FrameSlot.number]

theorem CameraLink.Good.planRequest (h : x.Good) : x.planRequest.1.Good := by
  unfold CameraLink.planRequest
  split
  · obtain ⟨hslots, hmiss, hfresh, hdiscards, hstarting⟩ := h.countRequest
    obtain ⟨l, n, e, hn⟩ := x.countRequest.moveAfterRequest_shape
    rw [e, CameraLink.good_iff]
    rw [x.countRequest_link] at hn
    refine ⟨hslots, hmiss, hfresh, ?_, hdiscards⟩
    obtain rfl | ⟨rfl, below⟩ := hn
    · exact Nat.zero_le _
    · by_cases hl : x.link = .starting
      · exact (below hl).le
      · exact hstarting hl
  · exact h

/-! The frames that arrive (R71, R72). -/

theorem CameraLink.Good.discarded (h : x.Good) {v : Vector FrameSlot 3} (hv : SlotsApart v) :
    CameraLink.Good { x.discard with slots := v } := by
  obtain ⟨-, hmiss, hfresh, hstarting, -⟩ := x.good_iff.mp h
  exact (CameraLink.good_iff _).mpr ⟨hv, hmiss, hfresh, hstarting, Nat.min_le_left _ _⟩

theorem CameraLink.Good.withSlots (h : x.Good) {v : Vector FrameSlot 3} (hv : SlotsApart v) :
    CameraLink.Good { x with slots := v } := by
  obtain ⟨-, hcounts⟩ := x.good_iff.mp h
  exact (CameraLink.good_iff _).mpr ⟨hv, hcounts⟩

/-- The slot being written goes on being written. -/
theorem SlotsApart.set_writing {v : Vector FrameSlot 3} (hv : SlotsApart v) {i : Fin 3} {q q' : Word16}
    {ls ls' : List CameraLine} (hi : v[i] = .writing q ls) : SlotsApart (v.set i (.writing q' ls')) := by
  refine hv.set fun _ j hj hnumber => hj (hv i j ?_ ?_).symm
  · rw [hi]
    simp
  · rw [hi, hnumber]
    rfl

theorem CameraLink.Good.frameStart (h : x.Good) (seq : Word16) : (x.frameStart seq).Good := by
  obtain ⟨hslots, -⟩ := x.good_iff.mp h
  unfold CameraLink.frameStart
  split
  · rename_i hw
    exact h.discarded (hslots.set_writing (CameraLink.slot_of_writing hw))
  · rename_i hw
    split
    · refine h.withSlots (hslots.set fun _ j _ hnumber => ?_)
      cases hj : x.slots[j] with
      | writing q ls => exact CameraLink.slot_not_writing hw j q ls hj
      | _ => rw [hj] at hnumber; cases hnumber
    · exact h

theorem CameraLink.Good.line (h : x.Good) (l : CameraLine) : (x.line l).Good := by
  obtain ⟨hslots, -⟩ := x.good_iff.mp h
  unfold CameraLink.line
  split
  · rename_i hw
    exact h.withSlots (hslots.set_writing (CameraLink.slot_of_writing hw))
  · exact h

theorem CameraLink.Good.frameEnd (h : x.Good) : x.frameEnd.Good := by
  obtain ⟨hslots, -⟩ := x.good_iff.mp h
  unfold CameraLink.frameEnd
  split
  · exact h
  · split
    · refine h.withSlots (SlotsApart.set (hslots.map fun a b => ?_) fun _ j _ => ?_)
      · cases a <;> cases b <;> simp [FrameSlot.dropReady, FrameSlot.number]
      · rw [ofFn_get]
        cases x.slots[j] <;> simp [FrameSlot.dropReady, FrameSlot.number]
    · exact h.discarded (hslots.set fun hfree => absurd rfl hfree)

end KeepsGood

end Sys2Proof.Machine

/-! One millisecond of the part's own clock (log 2): what it does to each timer, and what it leaves. -/

namespace Sys2Proof.Machine

/-! ## The debounce timers (R90) -/

/-- An input after a millisecond of its debounce timer. -/
def Input.tick (x : Input) : Input :=
  match x.timer with
  | none => x
  | some a => if a ≤ 1 then x.take else { x with timer := some (a - 1) }

/-- A camera link after a millisecond of its power-off timer in a part state (R80). -/
def CameraLink.tick (x : CameraLink) (part : PartState) : CameraLink :=
  match x.powerOff with
  | none => x
  | some a => if a ≤ 1 then x.powerOn part else { x with powerOff := some (a - 1) }

/-- A step that writes one position of a list of positions, taken once for each: every position in the list is
written once. -/
theorem foldl_pointwise {σ α : Type} {n : Nat} {f : σ → Fin n → σ} {v : σ → Fin n → α} {g : α → α} {C : σ → Prop}
    (keeps : ∀ u i, C u → C (f u i)) (writes : ∀ u i j, C u → v (f u i) j = if j = i then g (v u i) else v u j)
    {l : List (Fin n)} (hl : l.Nodup) (j : Fin n) :
    ∀ u, C u → v (l.foldl f u) j = if j ∈ l then g (v u j) else v u j := by
  induction l with
  | nil => exact fun u _ => (if_neg List.not_mem_nil).symm
  | cons i l ih =>
    obtain ⟨hi, hl⟩ := List.nodup_cons.mp hl
    intro u hu
    rw [List.foldl_cons, ih hl _ (keeps u i hu), writes u i j hu]
    by_cases hji : j = i
    · subst hji
      rw [if_neg hi, if_pos rfl, if_pos List.mem_cons_self]
    · simp only [hji, if_false, List.mem_cons, false_or]

section Inputs

variable (s : State)

theorem State.changeInput_input (n m : Fin 8) (y : Input) :
    (s.changeInput n y).scn.inputs[m] = if m = n then y else s.scn.inputs[m] := by
  have noted : ∀ c : Conditioner, (c.noteWake s.stc.part n y.mask).inputs = c.inputs := by
    intro c
    unfold Conditioner.noteWake
    split <;> rfl
  by_cases h : y.conditioned = s.scn.inputs[n].conditioned
  · rw [State.changeInput_same s h]
    exact vectorSet_get _ _ _ _
  · rw [State.changeInput_moved s h, State.setScn_scn, noted]
    exact vectorSet_get _ _ _ _

/-- A millisecond of one input's timer changes the inputs and the wake-pending set alone (R90, R100). -/
theorem State.tickInput_changes (n : Fin 8) : ∃ inputs pending,
    s.tickInput n = s.setScn { s.scn with inputs := inputs, wakePending := pending } := by
  unfold State.tickInput
  dsimp only
  split
  · exact ⟨s.scn.inputs, s.scn.wakePending, rfl⟩
  · split
    · unfold State.debounceExpiry
      dsimp only
      split
      · exact ⟨s.scn.inputs, s.scn.wakePending, rfl⟩
      · exact s.changeInput_changes _ _
    · exact ⟨_, s.scn.wakePending, rfl⟩

theorem State.tickInput_input {s : State} (hr : s.pins.resetLow = false) (n m : Fin 8) :
    (s.tickInput n).scn.inputs[m] = if m = n then s.scn.inputs[n].tick else s.scn.inputs[m] := by
  unfold State.tickInput Input.tick
  dsimp only
  cases ht : s.scn.inputs[n].timer with
  | none =>
    dsimp only
    split
    · rename_i h
      rw [h]
    · rfl
  | some a =>
    dsimp only
    by_cases ha : a ≤ 1
    · rw [if_pos ha, if_pos ha, State.debounceExpiry, ht, if_neg (by simp [hr]), State.changeInput_input]
    · rw [if_neg ha, if_neg ha]
      exact vectorSet_get _ _ _ _

/-- A millisecond of every debounce timer. -/
def State.tickInputs : State := (List.finRange 8).foldl State.tickInput s

theorem State.tickInputs_changes : ∃ inputs pending,
    s.tickInputs = s.setScn { s.scn with inputs := inputs, wakePending := pending } := by
  refine List.foldlRecOn (motive := fun u => ∃ inputs pending,
    u = s.setScn { s.scn with inputs := inputs, wakePending := pending }) _ _ ⟨s.scn.inputs, s.scn.wakePending, rfl⟩ ?_
  rintro _ ⟨inputs, pending, rfl⟩ n -
  obtain ⟨inputs', pending', h⟩ := State.tickInput_changes (s.setScn { s.scn with
    inputs := inputs, wakePending := pending }) n
  exact ⟨inputs', pending', h⟩

theorem State.tickInputs_input {s : State} (hr : s.pins.resetLow = false) (m : Fin 8) :
    s.tickInputs.scn.inputs[m] = s.scn.inputs[m].tick := by
  have all := foldl_pointwise (v := fun u m => u.scn.inputs[m]) (g := Input.tick)
    (C := fun u : State => u.pins.resetLow = false) (f := State.tickInput) (fun u i hu => ?_)
    (fun u i j hu => State.tickInput_input hu i j) (List.nodup_finRange 8) m s hr
  · rw [State.tickInputs]
    exact all.trans (if_pos (List.mem_finRange m))
  · obtain ⟨inputs, pending, h⟩ := u.tickInput_changes i
    rw [h]
    exact hu

end Inputs

/-! ## The speed-age timer (R97) -/

section Speed

variable {s : State}

theorem State.tickSpeed_of_stopped (h : s.scn.age = none) : s.tickSpeed = s := by
  rw [State.tickSpeed, h]

theorem State.tickSpeed_of_running {a : Nat} (h : s.scn.age = some a) (ha : 1 < a) :
    s.tickSpeed = s.setScn { s.scn with age := some (a - 1) } := by
  rw [State.tickSpeed, h]
  exact if_neg (Nat.not_le.mpr ha)

theorem State.tickSpeed_of_end {a : Nat} (h : s.scn.age = some a) (ha : a ≤ 1) :
    s.tickSpeed = (s.setScn { s.scn with stale := true, age := none }).raiseAll .speedStale 17 0 := by
  rw [State.tickSpeed, h]
  dsimp only
  rw [if_pos ha, State.speedAgeExpiry, h]
  rfl

/-- A millisecond of the speed-age timer: it is the speed that can go stale, and the ports that can be told. -/
theorem State.tickSpeed_spec (s : State) : ∃ c x, s.tickSpeed = (s.setScn c).setPorts x
    ∧ c.inputs = s.scn.inputs
    ∧ (s.scn.age = none → c.age = none ∧ c.stale = s.scn.stale)
    ∧ (∀ a, s.scn.age = some a → 1 < a → c.age = some (a - 1) ∧ c.stale = s.scn.stale)
    ∧ (∀ a, s.scn.age = some a → a ≤ 1 → c.age = none ∧ c.stale = true)
    ∧ ((∀ a, s.scn.age = some a → 1 < a) → x = s.ports) := by
  cases h : s.scn.age with
  | none =>
    rw [State.tickSpeed_of_stopped h]
    exact ⟨s.scn, s.ports, rfl, rfl, by simp [h]⟩
  | some a =>
    by_cases ha : 1 < a
    · rw [State.tickSpeed_of_running h ha]
      refine ⟨_, s.ports, (State.setPorts_self (s.setScn _)).symm, rfl, by simp, ?_, ?_, fun _ => rfl⟩
      · rintro _ ⟨⟩ -
        exact ⟨rfl, rfl⟩
      · rintro _ ⟨⟩ hle
        omega
    · rw [State.tickSpeed_of_end h (Nat.not_lt.mp ha)]
      refine ⟨{ s.scn with stale := true, age := none }, _, rfl, rfl, by simp, ?_, by simp,
        fun hall => absurd (hall a rfl) ha⟩
      rintro _ ⟨⟩ hlt
      exact absurd hlt ha

end Speed

/-! ## The power-off timers (R80) -/

section CameraTimers

variable (s : State)

theorem State.tickCamera_eq (k : Fin 4) : s.tickCamera k = s.setLink k (s.cams.links[k].tick s.stc.part) := by
  unfold State.tickCamera CameraLink.tick
  dsimp only
  cases h : s.cams.links[k].powerOff with
  | none => exact (s.setLink_self k).symm
  | some a =>
    dsimp only
    split
    · exact State.powerOffExpiry_of_running (by rw [h]; simp)
    · rfl

/-- A millisecond of every power-off timer. -/
def State.tickCameras : State := (List.finRange 4).foldl State.tickCamera s

theorem State.tickCameras_changes : ∃ c, s.tickCameras = s.setCams c := by
  refine List.foldlRecOn (motive := fun u => ∃ c, u = s.setCams c) _ _ ⟨s.cams, rfl⟩ ?_
  rintro _ ⟨c, rfl⟩ k -
  exact ⟨_, State.tickCamera_eq (s.setCams c) k⟩

theorem State.tickCameras_link (k : Fin 4) : s.tickCameras.cams.links[k] = s.cams.links[k].tick s.stc.part := by
  have all := foldl_pointwise (v := fun u k => u.cams.links[k]) (g := fun x => x.tick s.stc.part)
    (C := fun u : State => u.stc = s.stc) (f := State.tickCamera) (fun u i hu => ?_)
    (fun u i j hu => ?_) (List.nodup_finRange 4) k s rfl
  · rw [State.tickCameras]
    exact all.trans (if_pos (List.mem_finRange k))
  · rw [State.tickCamera_eq]
    exact hu
  · rw [State.tickCamera_eq, State.setLink_link, hu]

end CameraTimers

/-! ## The Load Engine's timers (R132, R134) -/

section JobTimers

variable {s : State} {p q : Port} {j k : Job}

theorem Job.isReceiving_iff (j : Job) : j.isReceiving = true ↔ ∃ a, j.state = .receiving a := by
  unfold Job.isReceiving
  cases j.state <;> simp

theorem Job.isVerifying_iff (j : Job) : j.isVerifying = true ↔ ∃ a tag, j.state = .verifying a tag := by
  unfold Job.isVerifying
  cases j.state <;> simp

/-- Where one job at most holds the place, a job that holds it and passes a test is the one found (R127). -/
theorem Overlay.firstJob_of_place {o : Overlay} (place : ∀ p q, o.holdsPlace p → o.holdsPlace q → p = q)
    {test : Job → Bool} (holds : ∀ k, test k = true → k.isSuspended = false) (hj : o.jobs.get p = some j)
    (ht : test j = true) : o.jobs.firstJob test = some (p, j) := by
  cases h : o.jobs.firstJob test with
  | none =>
    rw [PerPort.firstJob_none.mp h p j hj] at ht
    cases ht
  | some a =>
    obtain ⟨q, k⟩ := a
    obtain ⟨hk, hkt⟩ := PerPort.firstJob_some h
    obtain rfl := place q p ⟨k, hk, holds k hkt⟩ ⟨j, hj, holds j ht⟩
    rw [hk] at hj
    cases hj
    rfl

/-- Where one job at most holds the place, a job that holds it and fails a test leaves none to be found (R127). -/
theorem Overlay.firstJob_eq_none_of_place {o : Overlay} (place : ∀ p q, o.holdsPlace p → o.holdsPlace q → p = q)
    {test : Job → Bool} (holds : ∀ k, test k = true → k.isSuspended = false) (hj : o.jobs.get p = some j)
    (hp : j.isSuspended = false) (ht : test j = false) : o.jobs.firstJob test = none := by
  refine PerPort.firstJob_none.mpr fun q k hk => ?_
  by_contra hkt
  rw [Bool.not_eq_false] at hkt
  obtain rfl := place q p ⟨k, hk, holds k hkt⟩ ⟨j, hj, hp⟩
  rw [hk] at hj
  cases hj
  rw [ht] at hkt
  cases hkt

/-- Everything a millisecond can do to the RECEIVING job (R134). -/
theorem State.tickReceive_cases (s : State) : (s.ovm.jobs.firstJob Job.isReceiving = none ∧ s.tickReceive = s)
    ∨ ∃ p j a, s.ovm.jobs.firstJob Job.isReceiving = some (p, j) ∧ j.state = .receiving a
      ∧ s.tickReceive = if 1 < a then s.setOvm (s.ovm.setJob p (some { j with state := .receiving (a - 1) }))
        else (s.raiseTo p .loadTimeout j.region.val 0).endJob p j .empty := by
  unfold State.tickReceive
  cases h : s.ovm.jobs.firstJob Job.isReceiving with
  | none => exact .inl ⟨rfl, rfl⟩
  | some x =>
    obtain ⟨p, j⟩ := x
    obtain ⟨a, ha⟩ := (Job.isReceiving_iff j).mp (PerPort.firstJob_some h).2
    refine .inr ⟨p, j, a, rfl, ha, ?_⟩
    dsimp only
    rw [ha]
    dsimp only
    by_cases h1 : 1 < a
    · rw [if_pos h1, if_neg (Nat.not_le.mpr h1)]
    · rw [if_neg h1, if_pos (Nat.not_lt.mp h1), State.receiveTimeout, h]

/-- Everything a millisecond can do to the VERIFYING job (R132; log 2). -/
theorem State.tickVerify_cases (s : State) : (s.ovm.jobs.firstJob Job.isVerifying = none ∧ s.tickVerify = s)
    ∨ ∃ p j a tag, s.ovm.jobs.firstJob Job.isVerifying = some (p, j) ∧ j.state = .verifying a tag
      ∧ s.tickVerify = if 1 < a then s.setOvm (s.ovm.setJob p (some { j with state := .verifying (a - 1) tag }))
        else s.finishVerification p j tag [] := by
  unfold State.tickVerify
  cases h : s.ovm.jobs.firstJob Job.isVerifying with
  | none => exact .inl ⟨rfl, rfl⟩
  | some x =>
    obtain ⟨p, j⟩ := x
    obtain ⟨a, tag, ha⟩ := (Job.isVerifying_iff j).mp (PerPort.firstJob_some h).2
    refine .inr ⟨p, j, a, tag, rfl, ha, ?_⟩
    dsimp only
    rw [ha]
    dsimp only
    by_cases h1 : 1 < a
    · rw [if_pos h1, if_neg (Nat.not_le.mpr h1)]
    · rw [if_neg h1, if_pos (Nat.not_lt.mp h1), State.verificationEnd, h]
      dsimp only
      rw [ha]

/-- The end of verification changes Overlay Memory's block and the ports, and the job is gone (R132). -/
theorem State.finishVerification_shape (s : State) (p : Port) (j : Job) (tag : Tag) (us : List Upset) :
    ∃ o x, s.finishVerification p j tag us = (s.setOvm o).setPorts x ∧ o.jobs.get p = none := by
  unfold State.finishVerification
  dsimp only
  generalize verdict _ _ _ = w
  generalize ((s.ovm.suffer us).verifyWords _).1 = o
  have posted : ∃ x, (if j.answerOpen then (s.setOvm o).post p (loadReply tag w.2.1 w.2.2) else s.setOvm o)
      = (s.setOvm o).setPorts x := by
    split
    · exact ⟨_, rfl⟩
    · exact ⟨s.ports, rfl⟩
  obtain ⟨x, hx⟩ := posted
  rw [hx]
  obtain ⟨o', x', h, -, -, -, -, -, -, hjob, -⟩ := ((s.setOvm o).setPorts x).endJob_shape p j w.1
  exact ⟨o', x', h, hjob⟩

/-- A millisecond of the receive timer: Overlay Memory's block and the ports alone can change. -/
theorem State.tickReceive_shape (s : State) : ∃ o x, s.tickReceive = (s.setOvm o).setPorts x := by
  obtain ⟨-, h⟩ | ⟨p, j, a, -, -, h⟩ := s.tickReceive_cases
  · exact ⟨s.ovm, s.ports, h⟩
  · split at h
    · exact ⟨_, s.ports, h.trans (State.setPorts_self (s.setOvm _)).symm⟩
    · obtain ⟨o, x, e, -⟩ := (s.raiseTo p .loadTimeout j.region.val 0).endJob_shape p j .empty
      exact ⟨o, x, h.trans e⟩

theorem State.tickVerify_shape (s : State) : ∃ o x, s.tickVerify = (s.setOvm o).setPorts x := by
  obtain ⟨-, h⟩ | ⟨p, j, a, tag, -, -, h⟩ := s.tickVerify_cases
  · exact ⟨s.ovm, s.ports, h⟩
  · split at h
    · exact ⟨_, s.ports, h.trans (State.setPorts_self (s.setOvm _)).symm⟩
    · obtain ⟨o, x, e, -⟩ := s.finishVerification_shape p j tag []
      exact ⟨o, x, h.trans e⟩

/-- The end of a job makes no job VERIFYING (R130). -/
theorem State.endJob_verifying (c : RegionContent) (hk : (s.endJob p j c).ovm.jobs.get q = some k)
    (hv : k.isVerifying = true) : s.ovm.jobs.get q = some k := by
  have ended : ((s.ovm.setContent j.region c).setJob p none).jobs.get q = some k → s.ovm.jobs.get q = some k := by
    rw [Overlay.setJob_get]
    split
    · exact fun h => nomatch h
    · exact id
  unfold State.endJob at hk
  dsimp only at hk
  split at hk
  · exact ended hk
  · obtain ⟨-, e⟩ | ⟨r, i, -, -, -, e⟩ := (s.setOvm ((s.ovm.setContent j.region c).setJob p none)).resumeNext_cases
    · rw [e] at hk
      exact ended hk
    · rw [e, State.raiseTo_ovm, State.setOvm_ovm, Overlay.setJob_get] at hk
      split at hk
      · cases hk
        cases hv
      · exact ended hk

/-- A millisecond of the receive timer makes no job VERIFYING. -/
theorem State.tickReceive_verifying (hk : s.tickReceive.ovm.jobs.get q = some k) (hv : k.isVerifying = true) :
    s.ovm.jobs.get q = some k := by
  obtain ⟨-, h⟩ | ⟨p, j, a, -, -, h⟩ := s.tickReceive_cases <;> rw [h] at hk
  · exact hk
  · split at hk
    · rw [State.setOvm_ovm, Overlay.setJob_get] at hk
      split at hk
      · cases hk
        cases hv
      · exact hk
    · exact State.endJob_verifying (s := s.raiseTo p .loadTimeout j.region.val 0) _ hk hv

/-- Where one job at most holds the place, a millisecond comes off a RECEIVING job's time, and it is gone at its end
(R134). -/
theorem State.tickJobs_receiving (place : ∀ p q, s.ovm.holdsPlace p → s.ovm.holdsPlace q → p = q) {a : Nat}
    (hj : s.ovm.jobs.get p = some j) (ha : j.state = .receiving a) : s.tickReceive.tickVerify.ovm.jobs.get p =
      if 1 < a then some { j with state := .receiving (a - 1) } else none := by
  have hr : j.isReceiving = true := j.isReceiving_iff.mpr ⟨a, ha⟩
  obtain ⟨hp, hv⟩ := Job.receiving_place hr
  have found := Overlay.firstJob_of_place place (fun k hk => (Job.receiving_place hk).1) hj hr
  have unverified : s.tickReceive.tickVerify = s.tickReceive := by
    obtain ⟨-, h⟩ | ⟨q, k, b, tag, hk, -, -⟩ := s.tickReceive.tickVerify_cases
    · exact h
    · obtain ⟨hk, hkv⟩ := PerPort.firstJob_some hk
      have none_verifies := Overlay.firstJob_eq_none_of_place place (fun k hk => (Job.verifying_place hk).1) hj hp hv
      rw [PerPort.firstJob_none.mp none_verifies q k (State.tickReceive_verifying hk hkv)] at hkv
      cases hkv
  rw [unverified]
  obtain ⟨h, -⟩ | ⟨q, k, b, hk, hb, h⟩ := s.tickReceive_cases
  · rw [found] at h
    cases h
  · rw [found] at hk
    cases hk
    rw [ha] at hb
    cases hb
    rw [h]
    split
    · exact Overlay.setJob_get_self _ _ _
    · obtain ⟨o, x, e, -, -, -, -, -, -, gone, -⟩ :=
        (s.raiseTo p .loadTimeout j.region.val 0).endJob_shape p j .empty
      rw [e]
      exact gone

/-- The same for a VERIFYING job (R132; log 2). -/
theorem State.tickJobs_verifying (place : ∀ p q, s.ovm.holdsPlace p → s.ovm.holdsPlace q → p = q) {a : Nat} {tag : Tag}
    (hj : s.ovm.jobs.get p = some j) (ha : j.state = .verifying a tag) : s.tickReceive.tickVerify.ovm.jobs.get p =
      if 1 < a then some { j with state := .verifying (a - 1) tag } else none := by
  have hv : j.isVerifying = true := j.isVerifying_iff.mpr ⟨a, tag, ha⟩
  obtain ⟨hp, hr⟩ := Job.verifying_place hv
  have found := Overlay.firstJob_of_place place (fun k hk => (Job.verifying_place hk).1) hj hv
  have unreceived : s.tickReceive = s := by
    obtain ⟨-, h⟩ | ⟨q, k, b, hk, -, -⟩ := s.tickReceive_cases
    · exact h
    · rw [Overlay.firstJob_eq_none_of_place place (fun k hk => (Job.receiving_place hk).1) hj hp hr] at hk
      cases hk
  rw [unreceived]
  obtain ⟨h, -⟩ | ⟨q, k, b, tag', hk, hb, h⟩ := s.tickVerify_cases
  · rw [found] at h
    cases h
  · rw [found] at hk
    cases hk
    rw [ha] at hb
    cases hb
    rw [h]
    split
    · exact Overlay.setJob_get_self _ _ _
    · obtain ⟨o, x, e, gone⟩ := s.finishVerification_shape p j tag []
      rw [e]
      exact gone

/-- With no job's time at its end, a millisecond tells the ports nothing. -/
theorem State.tickJobs_ports (h : ∀ p j a, s.ovm.jobs.get p = some j →
    (j.state = .receiving a ∨ ∃ tag, j.state = .verifying a tag) → 1 < a) :
    s.tickReceive.tickVerify.ports = s.ports := by
  have received : s.tickReceive.ports = s.ports := by
    obtain ⟨-, e⟩ | ⟨p, j, a, hj, ha, e⟩ := s.tickReceive_cases <;> rw [e]
    rw [if_pos (h p j a (PerPort.firstJob_some hj).1 (.inl ha)), State.setOvm_ports]
  obtain ⟨-, e⟩ | ⟨p, j, a, tag, hj, ha, e⟩ := s.tickReceive.tickVerify_cases <;> rw [e]
  · exact received
  · obtain ⟨hj, hv⟩ := PerPort.firstJob_some hj
    rw [if_pos (h p j a (State.tickReceive_verifying hj hv) (.inr ⟨tag, ha⟩)), State.setOvm_ports, received]

end JobTimers

/-! ## The store timer (R183) -/

/-- A millisecond of the store timer: the store goes on, or is over with a bad check. -/
theorem State.tickStore_spec (s : State) : ∃ f x, s.tickStore = (s.setFst f).setPorts x
    ∧ (s.fst.store = none → f = s.fst)
    ∧ (∀ y, s.fst.store = some y → f = if 1 < y.timer then
        { s.fst with store := some { y with timer := y.timer - 1 } } else ⟨.spoiled, s.fst.status, none⟩)
    ∧ ((∀ y, s.fst.store = some y → 1 < y.timer) → x = s.ports) := by
  unfold State.tickStore State.storeTimerExpiry
  cases h : s.fst.store with
  | none => exact ⟨s.fst, s.ports, rfl, by simp⟩
  | some y =>
    dsimp only
    by_cases ht : 1 < y.timer
    · rw [if_neg (Nat.not_le.mpr ht)]
      refine ⟨_, s.ports, (State.setPorts_self (s.setFst _)).symm, by simp, ?_, fun _ => rfl⟩
      rintro _ ⟨⟩
      rw [if_pos ht]
    · rw [if_pos (Nat.not_lt.mp ht)]
      have ended : ∃ x, s.finishStore y false = (s.setFst ⟨.spoiled, s.fst.status, none⟩).setPorts x := by
        unfold State.finishStore
        simp only [Bool.false_eq_true, if_false]
        split
        · exact ⟨s.ports, (State.setPorts_self (s.setFst _)).symm⟩
        · exact ⟨_, rfl⟩
      obtain ⟨x, hx⟩ := ended
      refine ⟨_, x, hx, by simp, ?_, fun hall => absurd (hall y rfl) ht⟩
      rintro _ ⟨⟩
      rw [if_neg ht]

/-! ## The whole millisecond -/

theorem State.tick_of_reset_low {s : State} (h : s.pins.resetLow = true) : s.tick = s := if_pos h

theorem State.tick_of_reset_high {s : State} (h : s.pins.resetLow = false) :
    s.tick = s.tickInputs.tickSpeed.tickCameras.tickReceive.tickVerify.tickStore := by
  rw [State.tick, if_neg (by rw [h]; exact Bool.false_ne_true), State.tickCameras, State.tickInputs]

/-- What a millisecond makes of the signals' block: every debounce timer and the speed-age timer (R90, R97). -/
structure Conditioner.Ticked (c d : Conditioner) : Prop where
  inputs : ∀ n : Fin 8, d.inputs[n] = c.inputs[n].tick
  stopped : c.age = none → d.age = none ∧ d.stale = c.stale
  running : ∀ a, c.age = some a → 1 < a → d.age = some (a - 1) ∧ d.stale = c.stale
  expired : ∀ a, c.age = some a → a ≤ 1 → d.age = none ∧ d.stale = true

/-- What it makes of the jobs, where one at most holds the place (R132, R134). -/
def Overlay.Ticked (o u : Overlay) : Prop :=
  (∀ p q, o.holdsPlace p → o.holdsPlace q → p = q) → ∀ (p : Port) (j : Job), o.jobs.get p = some j →
    (∀ a, j.state = .receiving a →
      u.jobs.get p = if 1 < a then some { j with state := .receiving (a - 1) } else none)
    ∧ (∀ a tag, j.state = .verifying a tag →
      u.jobs.get p = if 1 < a then some { j with state := .verifying (a - 1) tag } else none)

/-- What it makes of the Fitting Store (R183). -/
def Fitting.Ticked (f g : Fitting) : Prop :=
  (f.store = none → g = f) ∧ ∀ y, f.store = some y → g = if 1 < y.timer then
    { f with store := some { y with timer := y.timer - 1 } } else ⟨.spoiled, f.status, none⟩

/-- No timer whose end tells a port is at its end (R97, R132, R134, R183). -/
def State.NoneAtEnd (s : State) : Prop :=
  (∀ a, s.scn.age = some a → 1 < a)
  ∧ (∀ p j a, s.ovm.jobs.get p = some j → (j.state = .receiving a ∨ ∃ tag, j.state = .verifying a tag) → 1 < a)
  ∧ ∀ y, s.fst.store = some y → 1 < y.timer

/-- The signals and the cameras after a millisecond; the ports can have been told of a stale speed (R80, R90, R97). -/
theorem State.tickCameras_spec {s : State} (h : s.pins.resetLow = false) : ∃ c k x,
    s.tickInputs.tickSpeed.tickCameras = ((s.setScn c).setCams k).setPorts x ∧ s.scn.Ticked c
    ∧ (∀ j : Fin 4, k.links[j] = s.cams.links[j].tick s.stc.part)
    ∧ ((∀ a, s.scn.age = some a → 1 < a) → x = s.ports) := by
  have inputs := State.tickInputs_input h
  obtain ⟨ins, pending, hi⟩ := s.tickInputs_changes
  rw [hi] at inputs ⊢
  obtain ⟨c, x, hs, unmoved, stopped, running, expired, quiet⟩ :=
    (s.setScn { s.scn with inputs := ins, wakePending := pending }).tickSpeed_spec
  obtain ⟨k, hk⟩ := State.tickCameras_changes ((s.setScn c).setPorts x)
  have links := State.tickCameras_link ((s.setScn c).setPorts x)
  rw [hk] at links
  refine ⟨c, k, x, ?_, ⟨fun n => ?_, stopped, running, expired⟩, links, quiet⟩
  · rw [hs]
    exact hk
  · rw [unmoved]
    exact inputs n

/-- What a millisecond does: the signals, the cameras, the jobs and the store as their timers make them, the ports told
only at the end of a timer, and all else as it was (log 2). -/
theorem State.tick_spec {s : State} (h : s.pins.resetLow = false) : ∃ c k o f x,
    s.tick = ((((s.setScn c).setCams k).setOvm o).setFst f).setPorts x ∧ s.scn.Ticked c
    ∧ (∀ j : Fin 4, k.links[j] = s.cams.links[j].tick s.stc.part) ∧ s.ovm.Ticked o ∧ s.fst.Ticked f
    ∧ (s.NoneAtEnd → x = s.ports) := by
  obtain ⟨c, k, x, hu, signals, links, quiet⟩ := State.tickCameras_spec h
  rw [State.tick_of_reset_high h, hu]
  have receiving := @State.tickJobs_receiving (((s.setScn c).setCams k).setPorts x)
  have verifying := @State.tickJobs_verifying (((s.setScn c).setCams k).setPorts x)
  have untold := @State.tickJobs_ports (((s.setScn c).setCams k).setPorts x)
  obtain ⟨o1, x1, h1⟩ := State.tickReceive_shape (((s.setScn c).setCams k).setPorts x)
  rw [h1] at receiving verifying untold ⊢
  obtain ⟨o, x2, h2⟩ := State.tickVerify_shape ((((((s.setScn c).setCams k).setPorts x).setOvm o1)).setPorts x1)
  rw [h2] at receiving verifying untold ⊢
  obtain ⟨f, x3, h3, none_stored, stored, unstored⟩ := State.tickStore_spec
    (((((((s.setScn c).setCams k).setPorts x).setOvm o1)).setPorts x1).setOvm o |>.setPorts x2)
  rw [h3]
  refine ⟨c, k, o, f, x3, rfl, signals, links, fun place p j hj => ⟨fun a ha => receiving place hj ha,
    fun a tag ha => verifying place hj ha⟩, ⟨none_stored, stored⟩, ?_⟩
  rintro ⟨hage, hjobs, hstore⟩
  exact (unstored hstore).trans ((untold hjobs).trans (quiet hage))

/-! The three ways of a timer. -/

theorem Input.tick_of_stopped {x : Input} (h : x.timer = none) : x.tick = x := by
  rw [Input.tick, h]

theorem Input.tick_of_some {x : Input} {a : Nat} (h : x.timer = some a) :
    x.tick = if a ≤ 1 then x.take else { x with timer := some (a - 1) } := by
  rw [Input.tick, h]

theorem CameraLink.tick_of_stopped {x : CameraLink} (h : x.powerOff = none) (part : PartState) : x.tick part = x := by
  rw [CameraLink.tick, h]

theorem CameraLink.tick_of_some {x : CameraLink} {a : Nat} (h : x.powerOff = some a) (part : PartState) :
    x.tick part = if a ≤ 1 then x.powerOn part else { x with powerOff := some (a - 1) } := by
  rw [CameraLink.tick, h]

/-- Settles O1: a command at the front is `exec`'s; with none, `State.tick_spec` says what each timer does. -/
theorem stepRunsFrontCommand : Obligations.StepRunsFrontCommand := by
  refine ⟨fun c rest s h => by rw [step, h],
    fun s h => ⟨s.tick, by rw [step, h], State.tick_of_reset_low, fun hr => ?_⟩⟩
  obtain ⟨c, k, o, f, x, ht, signals, links, jobs, ⟨none_stored, stored⟩, ports⟩ := State.tick_spec hr
  rw [ht]
  refine ⟨?_, signals.stopped, signals.running, signals.expired, ?_, fun hgood => ?_, none_stored, stored,
    fun hage hjobs hstore => ports ⟨hage, hjobs, hstore⟩, rfl, rfl, rfl, rfl, rfl, rfl, rfl, rfl⟩
  · rintro n _ rfl
    refine ⟨fun hx => (signals.inputs n).trans (Input.tick_of_stopped hx), fun a hx ha => ?_, fun a hx ha => ?_⟩
    · exact (signals.inputs n).trans ((Input.tick_of_some hx).trans (if_neg (Nat.not_le.mpr ha)))
    · exact (signals.inputs n).trans ((Input.tick_of_some hx).trans (if_pos ha))
  · rintro j _ rfl
    refine ⟨fun hx => (links j).trans (CameraLink.tick_of_stopped hx _), fun a hx ha => ?_, fun a hx ha => ?_⟩
    · exact (links j).trans ((CameraLink.tick_of_some hx _).trans (if_neg (Nat.not_le.mpr ha)))
    · exact (links j).trans ((CameraLink.tick_of_some hx _).trans ((if_pos ha).trans (CameraLink.powerOn_eq _ _)))
  · obtain ⟨-, -, ⟨-, -, place⟩, -⟩ := hgood
    exact jobs place

end Sys2Proof.Machine

/-! The Camera Links over one step (R69): no other command moves them, and every step keeps their relation. -/

namespace Sys2Proof.Machine

/-! ## The cameras of a next state -/

/-- A next state that an outcome answers has cameras of which `P` holds. -/
def NextCams (P : Cameras → Prop) (o : Outcome) : Prop := ∀ t, o = .next t → P t.cams

theorem nextCams_next {P : Cameras → Prop} {t : State} (h : P t.cams) : NextCams P (.next t) := by
  rintro _ ⟨⟩
  exact h

/-- A next state that an outcome answers has the cameras of `s`. -/
def State.KeepsCams (s : State) (o : Outcome) : Prop := NextCams (· = s.cams) o

theorem State.keepsCams_next {s t : State} (h : t.cams = s.cams) : s.KeepsCams (.next t) :=
  nextCams_next (P := (· = s.cams)) h

section OtherCommands

variable (s : State) (p : Port) (r : Request)

@[simp] theorem State.done_cams (v : List Byte) : (s.done p r v).cams = s.cams := rfl
@[simp] theorem State.refuse_cams (c : ResultCode) : (s.refuse p r c).cams = s.cams := rfl
@[simp] theorem State.badField_cams (i : Byte) : (s.badField p r i).cams = s.cams := rfl
@[simp] theorem State.dropRequest_cams : (s.dropRequest p).cams = s.cams := rfl
@[simp] theorem State.refuseEntry_cams (e : PendingEntry) (c : Cause) : (s.refuseEntry e c).cams = s.cams := rfl
@[simp] theorem State.setMarkers_cams (ms : List Marker) : (s.setMarkers ms).cams = s.cams := rfl

/-- What a request leaves of the cameras is what its block leaves (R164). -/
theorem serve_nextCams {P : Cameras → Prop} {kind : RequestKind} {block : Request → State → Outcome}
    (hs : P s.cams) (h : ∀ r, NextCams P (block r (s.taken p))) : NextCams P (serve kind p s block) := by
  intro t ht
  obtain ⟨-, hn⟩ | ⟨r, -, ⟨c, i, hn⟩ | ⟨-, -, -, hn⟩⟩ := serve_cases s p ht
  · cases hn; exact hs
  · cases hn; exact hs
  · exact h r t hn.symm

theorem serve_keepsCams {kind : RequestKind} {block : Request → State → Outcome}
    (h : ∀ r, s.KeepsCams (block r (s.taken p))) : s.KeepsCams (serve kind p s block) :=
  serve_nextCams s p rfl h

/-- A request for a slot moves no camera, if none is moved for any slot. -/
theorem onSlot_keepsCams {f : Fin 24 → State} {u : State} (hu : u.cams = s.cams) (h : ∀ i, (f i).cams = s.cams) :
    s.KeepsCams (onSlot p r u f) := by
  unfold onSlot
  split
  · exact State.keepsCams_next hu
  · exact State.keepsCams_next (h _)

theorem claimSlot_cams (i : Fin 24) : (claimSlot p r s i).cams = s.cams := by
  unfold claimSlot
  dsimp only
  repeat' split
  all_goals rfl

theorem seizeSlot_cams (i : Fin 24) : (seizeSlot p r s i).cams = s.cams := by
  unfold seizeSlot
  dsimp only
  repeat' split
  all_goals rfl

theorem releaseSlot_cams (i : Fin 24) : (releaseSlot p r s i).cams = s.cams := by
  unfold releaseSlot
  split <;> rfl

theorem editSlot_cams (i : Fin 24) : (editSlot p r s i).cams = s.cams := by
  unfold editSlot
  dsimp only
  repeat' split
  all_goals rfl

theorem forceSlot_cams (i : Fin 24) : (forceSlot p r s i).cams = s.cams := by
  unfold forceSlot
  dsimp only
  repeat' split
  all_goals rfl

theorem freeRegion_cams (g : Fin 16) : (freeRegion p r s g).cams = s.cams := by
  unfold freeRegion
  repeat' split
  all_goals rfl

theorem State.admitJob_cams (j : Job) : (s.admitJob p j).1.cams = s.cams := by
  unfold State.admitJob
  repeat' split
  all_goals rfl

theorem openLoadRegion_cams (g : Fin 16) : (openLoadRegion p r s g).cams = s.cams := by
  unfold openLoadRegion
  dsimp only
  repeat' split
  iterate 5 rfl
  exact State.admitJob_cams _ _ _

@[simp] theorem State.endJob_cams (j : Job) (c : RegionContent) : (s.endJob p j c).cams = s.cams := by
  obtain ⟨o, x, h, -⟩ := s.endJob_shape p j c
  rw [h]
  rfl

@[simp] theorem State.verificationEnd_cams (us : List Upset) : (s.verificationEnd us).cams = s.cams := by
  unfold State.verificationEnd State.finishVerification
  dsimp only
  repeat' split
  all_goals simp

@[simp] theorem State.receiveTimeout_cams : s.receiveTimeout.cams = s.cams := by
  unfold State.receiveTimeout
  split <;> simp

@[simp] theorem State.resetJob_cams : (s.resetJob p).cams = s.cams := by
  unfold State.resetJob
  repeat' split
  all_goals simp

@[simp] theorem State.resetBlocks_cams : (s.resetBlocks p).cams = s.cams := by
  unfold State.resetBlocks
  dsimp only
  rw [State.resetJob_cams, State.setFst_cams, State.setStc_cams]
  split <;> simp

@[simp] theorem State.raiseNear_cams (ts : List Nat) : ∀ s : State, (s.raiseNear ts).cams = s.cams := by
  induction ts with
  | nil => exact fun _ => rfl
  | cons t ts ih => exact fun s => ih (s.raiseAll .nearObject t 0)

@[simp] theorem State.inputEvent_cams (e : InputEvent) : (s.inputEvent e).cams = s.cams := by
  obtain ⟨c, h, -⟩ := s.inputEvent_only e
  rw [h]
  rfl

@[simp] theorem State.speedAgeExpiry_cams : s.speedAgeExpiry.cams = s.cams := by
  unfold State.speedAgeExpiry
  split <;> rfl

@[simp] theorem State.finishStore_cams (x : StoreInFlight) (good : Bool) : (s.finishStore x good).cams = s.cams := by
  unfold State.finishStore
  dsimp only
  repeat' split
  all_goals rfl

@[simp] theorem State.storeTimerExpiry_cams : s.storeTimerExpiry.cams = s.cams := by
  unfold State.storeTimerExpiry
  split <;> simp

theorem State.examine_cams (bytes : List Byte) : (s.examine p bytes).cams = s.cams := by
  unfold State.examine
  dsimp only
  repeat' split
  all_goals rfl

theorem execTransactionEnd_keepsCams (bytes : List Byte) : s.KeepsCams (execTransactionEnd p bytes s) := by
  unfold execTransactionEnd
  dsimp only
  repeat' split
  · exact State.keepsCams_next rfl
  · exact State.keepsCams_next rfl
  · exact State.keepsCams_next (State.examine_cams _ _ _)

theorem execLoadData_keepsCams : s.KeepsCams (execLoadData p s) := by
  refine serve_keepsCams s p fun r => ?_
  dsimp only
  repeat' split
  iterate 6 exact State.keepsCams_next rfl
  · rintro _ ⟨⟩
  · exact State.keepsCams_next rfl
  · exact State.keepsCams_next rfl

end OtherCommands

/-- The commands that can move a camera link. -/
def Instr.movesCams : Instr → Bool
  | .deviceReset _ | .bootEnd _ | .lineEnd _ _ | .wakeIn _ | .frameStart _ _ | .cameraLine _ _ | .frameEnd _
  | .powerOffExpiry _ | .cameraRestart _ | .dormant _ _ | .wake _ _ _ => true
  | _ => false

/-- Every other command leaves the cameras (R69). -/
theorem exec_keepsCams {c : Instr} (hc : Instr.movesCams c = false) (s : State) : s.KeepsCams (exec c s) := by
  cases c with
  | deviceReset | bootEnd | lineEnd | wakeIn | frameStart | cameraLine | frameEnd | powerOffExpiry | cameraRestart
  | dormant | wake => cases hc
  | claim p =>
    simp only [exec, execClaim]
    exact serve_keepsCams s p fun r => onSlot_keepsCams s p r rfl (claimSlot_cams _ p r)
  | seize p =>
    simp only [exec, execSeize]
    exact serve_keepsCams s p fun r => onSlot_keepsCams s p r rfl (seizeSlot_cams _ p r)
  | release p =>
    simp only [exec, execRelease]
    exact serve_keepsCams s p fun r => onSlot_keepsCams s p r rfl (releaseSlot_cams _ p r)
  | edit p =>
    simp only [exec, execEdit]
    exact serve_keepsCams s p fun r => onSlot_keepsCams s p r rfl (editSlot_cams _ p r)
  | force p =>
    simp only [exec, execForce]
    exact serve_keepsCams s p fun r => onSlot_keepsCams s p r rfl (forceSlot_cams _ p r)
  | readLayer p =>
    simp only [exec, execReadLayer]
    exact serve_keepsCams s p fun r => onSlot_keepsCams s p r rfl fun i => rfl
  | free p =>
    simp only [exec, execFree]
    refine serve_keepsCams s p fun r => ?_
    split
    · exact State.keepsCams_next rfl
    · exact State.keepsCams_next (freeRegion_cams _ p r _)
  | openLoad p =>
    simp only [exec, execOpenLoad]
    refine serve_keepsCams s p fun r => ?_
    split
    · exact State.keepsCams_next rfl
    · exact State.keepsCams_next (openLoadRegion_cams _ p r _)
  | loadData p => exact execLoadData_keepsCams s p
  | identify p | readSignals p | readMarkers p | readRegions p | cameraStatus p | eccClear p | clearMarks p | resync p
  | resetPort p | subscribe p | discard p | commit p | alloc p | setInput p | speed p | setSpeedBands p
  | setVirtual p | unmark p | setPalette p | run p | quiet p | storeFitting p | abortLoad p | mark p | setNear p
  | setPeriod p | setCommitLine p | setStrobe p | setGenlock p =>
    simp only [exec, acceptTimebase, execIdentify, execReadSignals, execReadMarkers, execReadRegions,
      execCameraStatus, execEccClear, execClearMarks, execResync, execResetPort, execSubscribe, execDiscard,
      execCommit, execAlloc, execSetInput, execSpeed, execSetSpeedBands, execSetVirtual, execUnmark,
      execSetPalette, execRun, execQuiet, execStoreFitting, execAbortLoad, execMark, execSetNear,
      execSetPeriod, execSetCommitLine, execSetStrobe, execSetGenlock]
    refine serve_keepsCams s p fun r => ?_
    repeat' split
    all_goals exact State.keepsCams_next (by simp)
  | transactionEnd p bytes => exact execTransactionEnd_keepsCams s p bytes
  | storeTimerExpiry => exact State.keepsCams_next s.storeTimerExpiry_cams
  | inputRawChange n level => exact State.keepsCams_next (s.inputEvent_cams (.rawChange n level))
  | debounceExpiry n => exact State.keepsCams_next (s.inputEvent_cams (.debounceExpiry n))
  | speedAgeExpiry => exact State.keepsCams_next s.speedAgeExpiry_cams
  | verificationEnd us => exact State.keepsCams_next (s.verificationEnd_cams us)
  | receiveTimeout => exact State.keepsCams_next s.receiveTimeout_cams
  | bootStart => exact State.keepsCams_next rfl
  | transactionStart | unknownKind | storeEnd | dsync =>
    simp only [exec, execTransactionStart, execUnknownKind, execStoreEnd, execDsync]
    repeat' split
    all_goals exact State.keepsCams_next (by simp)

/-! ## The commands that move the links (R68 to R84) -/

/-- Every link keeps its relation (R69). -/
def Cameras.Good (c : Cameras) : Prop := ∀ k : Fin 4, c.links[k].Good

theorem State.camerasGood_iff (s : State) : s.CamerasGood ↔ s.cams.Good := Iff.rfl

theorem Cameras.Good.mapLinks {c : Cameras} (h : c.Good) {f : CameraLink → CameraLink}
    (hf : ∀ x : CameraLink, x.Good → (f x).Good) : (c.mapLinks f).Good := by
  intro k
  rw [Cameras.mapLinks_link]
  exact hf _ (h k)

theorem State.setLink_good {s : State} (h : s.cams.Good) {k : Fin 4} {x : CameraLink} (hx : x.Good) :
    (s.setLink k x).cams.Good := by
  intro j
  rw [State.setLink_link]
  split
  · exact hx
  · exact h j

theorem Cameras.Good.fit {c : Cameras} (h : c.Good) (f : FittedRecord) : (c.fit f).Good := by
  intro k
  rw [Cameras.fit, ofFn_get]
  exact (h k).setLinkState _

section MovingCommands

variable {s : State} (h : s.cams.Good) (p : Port)

include h

theorem execCameraRestart_good : NextCams Cameras.Good (execCameraRestart p s) := by
  refine serve_nextCams s p h fun r => ?_
  split
  · exact nextCams_next h
  · rename_i k _
    dsimp only
    split_ifs
    · exact nextCams_next h
    · exact nextCams_next h
    · exact nextCams_next h
    · exact nextCams_next (State.setLink_good h (h k).restart)

theorem execFrameStart_good (k : Fin 4) (seq : Word16) : NextCams Cameras.Good (execFrameStart k seq s) := by
  unfold execFrameStart
  dsimp only
  split
  · exact nextCams_next h
  · exact nextCams_next (State.setLink_good h ((h k).frameStart seq))

theorem execCameraLine_good (k : Fin 4) (l : CameraLine) : NextCams Cameras.Good (execCameraLine k l s) := by
  unfold execCameraLine
  dsimp only
  split
  · exact nextCams_next h
  · exact nextCams_next (State.setLink_good h ((h k).line l))

theorem execFrameEnd_good (k : Fin 4) : NextCams Cameras.Good (execFrameEnd k s) := by
  unfold execFrameEnd
  dsimp only
  split
  · exact nextCams_next h
  · exact nextCams_next (State.setLink_good h (h k).frameEnd)

theorem State.powerOffExpiry_good (k : Fin 4) : (s.powerOffExpiry k).cams.Good := by
  unfold State.powerOffExpiry
  dsimp only
  split
  · exact State.setLink_good h ((h k).powerOn _)
  · exact h

/-- The start of the timebase takes each camera into RUN and asks it for its first plan (R74, R82). -/
theorem State.startRun_good (out : Surroundings) : (s.startRun out).cams.Good := by
  obtain ⟨-, -, -, -, -, -, -, -, -, links, -⟩ := s.startRun_keeps out
  intro k
  rw [links]
  exact (h k).enterRun.planRequest

theorem State.settleFitting_good : s.settleFitting.cams.Good := by
  obtain e | ⟨f, e⟩ := s.settleFitting_cams
  · rwa [e]
  · rw [e]
    exact h.fit f

theorem execBootEnd_good (out : Surroundings) : NextCams Cameras.Good (execBootEnd out s) := by
  unfold execBootEnd
  split
  · refine nextCams_next ?_
    rw [State.endBoot, State.announce_cams]
    refine State.startRun_good ?_ out
    rw [State.setScn_cams]
    exact State.settleFitting_good h
  · exact nextCams_next h

theorem State.wakeUp_good (meets : Waking) : (s.wakeUp meets).cams.Good := by
  obtain ⟨c, e, -⟩ := State.inputEvents_only meets.inputs ((s.setScn s.scn.wake).moveTo .run)
  rw [State.wakeUp, e]
  refine State.startRun_good ?_ meets.out
  rwa [State.setScn_cams, State.moveTo_cams, State.setScn_cams]

theorem execWake_good (meets : Waking) (replyFirst : Bool) : NextCams Cameras.Good (execWake p meets replyFirst s) := by
  refine serve_nextCams s p h fun r => ?_
  split_ifs
  · exact nextCams_next h
  · refine nextCams_next ?_
    rw [State.announce_cams]
    exact State.wakeUp_good (s := (s.taken p).done p r []) h meets
  · refine nextCams_next ?_
    rw [State.done_cams, State.announce_cams]
    exact State.wakeUp_good (s := s.taken p) h meets

theorem execWakeIn_good (meets : Waking) : NextCams Cameras.Good (execWakeIn meets s) := by
  unfold execWakeIn
  split
  · refine nextCams_next ?_
    rw [State.announce_cams]
    exact State.wakeUp_good h meets
  · exact nextCams_next h

theorem execDormant_good (replyFirst : Bool) : NextCams Cameras.Good (execDormant p replyFirst s) := by
  refine serve_nextCams s p h fun r => ?_
  split_ifs
  · exact nextCams_next h
  · exact nextCams_next h
  · refine nextCams_next ?_
    rw [State.answerAndAnnounce_cams, State.enterDormant_cams]
    exact Cameras.Good.mapLinks h fun _ hx => hx.enterDormant

theorem State.blankTest_good (b : Bool) : (s.blankTest b).cams.Good := by
  obtain e | e | e := s.blankTest_cams b <;> rw [e]
  · exact h
  · exact h.mapLinks fun _ hx => hx.enterQuiet
  · exact h.mapLinks fun _ hx => hx.enterRun

theorem State.blankAndCommit_good (o : LineOrder) : (s.blankAndCommit o).cams.Good := by
  have blank : ∀ u : State, u.cams.Good → (u.blank o).cams.Good := by
    intro u hu
    unfold State.blank
    split
    · exact State.blankTest_good (s := u.ageStep) hu _
    · exact State.blankTest_good hu _
  rw [State.blankAndCommit_eq]
  split_ifs
  · exact blank _ (by rwa [State.commitEvent_cams])
  · rw [State.commitEvent_cams]
    exact blank s h
  · exact blank s h
  · rwa [State.commitEvent_cams]
  · exact h

/-- The events of a counter value: a TOP asks each camera for a plan, a BLANK can take them into QUIET or RUN (R51). -/
theorem State.lineEvents_good (a b : Bool) (o : LineOrder) : (s.lineEvents a b o).cams.Good := by
  by_cases h0 : s.ftb.line = 0
  · obtain ⟨-, -, -, -, -, -, -, -, cams⟩ := s.lineEvents_top_keeps a b o h0
    intro k
    rw [cams, State.fireTop_link]
    exact (h k).planRequest
  · rw [s.lineEvents_of_ne_zero a b o h0]
    split
    · exact State.blankAndCommit_good (by rwa [State.strobe_cams, State.canvasLine_cams]) o
    · rw [State.strobe_cams]
      exact State.blankAndCommit_good (by rwa [State.canvasLine_cams]) o

theorem execLineEnd_good (out : Surroundings) (o : LineOrder) : NextCams Cameras.Good (execLineEnd out o s) := by
  unfold execLineEnd
  split
  · exact nextCams_next h
  · exact nextCams_next (State.lineEvents_good (s := s.arrived out) h false out.recHold o)

end MovingCommands

/-- Every command keeps every link's relation. -/
theorem exec_camerasGood (c : Instr) {s : State} (h : s.cams.Good) : NextCams Cameras.Good (exec c s) := by
  by_cases hc : Instr.movesCams c = false
  · intro t ht
    rw [exec_keepsCams hc s t ht]
    exact h
  · cases c with
    | deviceReset campop =>
      refine nextCams_next fun k => ?_
      rw [State.deviceReset, Cameras.atReset, ofFn_get]
      exact CameraLink.atReset_good _
    | bootEnd out => exact execBootEnd_good h out
    | lineEnd out o => exact execLineEnd_good h out o
    | wakeIn meets => exact execWakeIn_good h meets
    | frameStart k seq => exact execFrameStart_good h k seq
    | cameraLine k l => exact execCameraLine_good h k l
    | frameEnd k => exact execFrameEnd_good h k
    | powerOffExpiry k => exact nextCams_next (State.powerOffExpiry_good h k)
    | cameraRestart p => exact execCameraRestart_good h p
    | dormant p replyFirst => exact execDormant_good h p replyFirst
    | wake p meets replyFirst => exact execWake_good h p meets replyFirst
    | _ => exact absurd rfl hc

/-! ## A millisecond of the part's own clock (log 2) -/

theorem CameraLink.Good.tick {x : CameraLink} (h : x.Good) (part : PartState) : (x.tick part).Good := by
  unfold CameraLink.tick
  split
  · exact h
  · split
    · exact h.powerOn part
    · exact h.setPowerOff _

theorem State.tick_good {s : State} (h : s.cams.Good) : s.tick.cams.Good := by
  cases hr : s.pins.resetLow with
  | true => rwa [State.tick_of_reset_low hr]
  | false =>
    obtain ⟨c, k, o, f, x, ht, -, links, -⟩ := State.tick_spec hr
    rw [ht]
    intro j
    exact links j ▸ (h j).tick s.stc.part

/-- Settles O12: each link's relation over every command (`exec_camerasGood`) and over a millisecond of the part's own
clock (`State.tick_good`). -/
theorem everyStepKeepsFrameSlots : Obligations.EveryStepKeepsFrameSlots := by
  intro s t hs ht
  rw [State.camerasGood_iff] at hs ⊢
  unfold step at ht
  split at ht
  · cases ht
    exact State.tick_good hs
  · rename_i c rest _
    exact exec_camerasGood c (s := s.setPending rest) hs t ht

end Sys2Proof.Machine

/-! The Camera Links' events and requests (chapter 4): restart, arriving frames, power, and the plan request. -/

namespace Sys2Proof.Machine

/-! ## The plan request (R74 to R76) -/

section PlanRequest

variable {x y : CameraLink}

theorem LinkState.isActive_iff (l : LinkState) : l.isActive = true ↔ l ≠ .absent ∧ l ≠ .idle := by
  cases l <;> simp [LinkState.isActive]

theorem CameraLink.planRequest_of_inactive (h : x.link = .absent ∨ x.link = .idle) : x.planRequest = (x, none) :=
  if_neg (mt x.link.isActive_iff.mp (by tauto))

theorem CameraLink.planRequest_of_active (ha : x.link ≠ .absent) (hi : x.link ≠ .idle) :
    x.planRequest = x.countRequest.moveAfterRequest :=
  if_pos (x.link.isActive_iff.mpr ⟨ha, hi⟩)

/-- The counts leave the discards and the power, and count a request while STARTING with power on (R74). -/
theorem CameraLink.countRequest_keeps (x : CameraLink) : x.countRequest.discards = x.discards
    ∧ x.countRequest.power = x.power ∧ x.countRequest.powerOff = x.powerOff
    ∧ x.countRequest.starting =
      if x.link = .starting ∧ x.powerOff = none then x.starting + 1 else x.starting := by
  by_cases h : x.readySlot = none
  · rw [CameraLink.countRequest_of_missed h]
    exact ⟨rfl, rfl, rfl, rfl⟩
  · rw [CameraLink.countRequest_of_ready h]
    exact ⟨rfl, rfl, rfl, rfl⟩

/-- The move leaves all but the state and the starting count (R75). -/
theorem CameraLink.moveAfterRequest_keeps (y : CameraLink) : y.moveAfterRequest.1.slots = y.slots
    ∧ y.moveAfterRequest.1.miss = y.miss ∧ y.moveAfterRequest.1.fresh = y.fresh
    ∧ y.moveAfterRequest.1.discards = y.discards ∧ y.moveAfterRequest.1.power = y.power
    ∧ y.moveAfterRequest.1.powerOff = y.powerOff := by
  obtain ⟨l, n, e, -⟩ := y.moveAfterRequest_shape
  rw [e]
  exact ⟨rfl, rfl, rfl, rfl, rfl, rfl⟩

theorem CameraLink.moveAfterRequest_of_starting (h : y.link = .starting) : y.moveAfterRequest =
    if y.fresh = 2 then ({ y with link := .locked, starting := 0 }, some .cameraStarted)
    else if 30 ≤ y.starting then ({ y with link := .lost, starting := 0 }, some .cameraLost) else (y, none) := by
  rw [CameraLink.moveAfterRequest, h]

theorem CameraLink.moveAfterRequest_of_locked (h : y.link = .locked) : y.moveAfterRequest =
    if y.miss = 3 then ({ y with link := .lost }, some .cameraLost) else (y, none) := by
  rw [CameraLink.moveAfterRequest, h]

theorem CameraLink.moveAfterRequest_of_lost (h : y.link = .lost) : y.moveAfterRequest =
    if y.fresh = 2 then ({ y with link := .locked }, some .cameraBack) else (y, none) := by
  rw [CameraLink.moveAfterRequest, h]

/-- A READY frame is handed over: HELD, in place of the one held before (R74). -/
theorem CameraLink.countRequest_hands_over {i : Fin 3} {f : CameraFrame} (hi : x.slots[i] = .ready f) :
    (∀ j : Fin 3, x.countRequest.slots[j] = x.slots[j].handOver) ∧ x.countRequest.miss = 0
    ∧ x.countRequest.fresh = min 2 (x.fresh + 1) := by
  rw [CameraLink.countRequest_of_ready (CameraLink.readySlot_ne_none hi)]
  exact ⟨fun j => ofFn_get _ j, rfl, rfl⟩

theorem FrameSlot.handOver_not_ready (a : FrameSlot) (f : CameraFrame) : a.handOver ≠ .ready f := by
  cases a <;> simp [FrameSlot.handOver]

end PlanRequest

/-- Settles O55: the counts (`CameraLink.countRequest_hands_over`, `CameraLink.countRequest_of_missed`), then the move
by the state the camera is in. -/
theorem planRequestMovesLink : Obligations.PlanRequestMovesLink := by
  intro x y alert h
  obtain ⟨rfl, rfl⟩ : x.planRequest.1 = y ∧ x.planRequest.2 = alert := by
    rw [h]
    exact ⟨rfl, rfl⟩
  refine ⟨fun hin => ?_, fun ha hi => ?_⟩
  · rw [CameraLink.planRequest_of_inactive hin]
    exact ⟨rfl, rfl⟩
  · rw [CameraLink.planRequest_of_active ha hi]
    obtain ⟨hslots, hmiss, hfresh, hdiscards, hpower, htimer⟩ := x.countRequest.moveAfterRequest_keeps
    obtain ⟨kdiscards, kpower, ktimer, hstarting⟩ := x.countRequest_keeps
    have hlink := x.countRequest_link
    simp only [hslots, hmiss, hfresh]
    refine ⟨fun i f hready => ?_, fun hnone => ?_, fun n hn hl => ?_, fun hl => ?_, fun hl => ?_,
      hdiscards.trans kdiscards, hpower.trans kpower, htimer.trans ktimer⟩
    · obtain ⟨handed, kmiss, kfresh⟩ := CameraLink.countRequest_hands_over hready
      simp only [handed]
      exact ⟨by rw [hready]; rfl, fun j g hj => by rw [hj]; rfl, fun j q ls hj => by rw [hj]; rfl,
        fun j hj => by rw [hj]; rfl, fun j g => FrameSlot.handOver_not_ready _ g, kmiss, kfresh⟩
    · rw [CameraLink.countRequest_of_missed (CameraLink.readySlot_none hnone)]
      exact ⟨rfl, rfl, rfl⟩
    · have counted : x.countRequest.starting = n := by
        rw [hstarting, hn]
        simp only [hl, true_and]
      rw [CameraLink.moveAfterRequest_of_starting (hlink.trans hl), counted]
      refine ⟨fun h2 => ?_, fun h2 h30 => ?_, fun h2 h30 => ?_⟩
      · rw [if_pos h2]
        exact ⟨rfl, rfl, rfl⟩
      · rw [if_neg h2, if_pos h30]
        exact ⟨rfl, rfl, rfl⟩
      · rw [if_neg h2, if_neg (Nat.not_le.mpr h30)]
        exact ⟨hlink.trans hl, counted, rfl⟩
    · rw [CameraLink.moveAfterRequest_of_locked (hlink.trans hl)]
      exact ⟨fun h3 => by rw [if_pos h3]; exact ⟨rfl, rfl⟩, fun h3 => by rw [if_neg h3]; exact ⟨hlink.trans hl, rfl⟩⟩
    · rw [CameraLink.moveAfterRequest_of_lost (hlink.trans hl)]
      exact ⟨fun h2 => by rw [if_pos h2]; exact ⟨rfl, rfl⟩, fun h2 => by rw [if_neg h2]; exact ⟨hlink.trans hl, rfl⟩⟩

/-! ## CAMERA_RESTART, arriving frames and power (R71, R72, R79, R80) -/

section Frames

variable {x : CameraLink} {i : Fin 3} {q : Word16} {ls : List CameraLine}

theorem CameraLink.frameStart_of_writing (h : x.writing = some (i, q, ls)) (seq : Word16) : x.frameStart seq =
    { x with slots := x.slots.set i (.writing seq []), discards := min 255 (x.discards + 1) } := by
  rw [CameraLink.frameStart, h]
  rfl

theorem CameraLink.frameStart_of_free (hw : x.writing = none) (hf : x.lowestFree = some i) (seq : Word16) :
    x.frameStart seq = { x with slots := x.slots.set i (.writing seq []) } := by
  rw [CameraLink.frameStart, hw, hf]

theorem CameraLink.line_of_writing (h : x.writing = some (i, q, ls)) (l : CameraLine) :
    x.line l = { x with slots := x.slots.set i (.writing q (ls ++ [l])) } := by
  rw [CameraLink.line, h]

theorem CameraLink.line_of_none (h : x.writing = none) (l : CameraLine) : x.line l = x := by
  rw [CameraLink.line, h]

theorem CameraLink.frameEnd_of_none (h : x.writing = none) : x.frameEnd = x := by
  rw [CameraLink.frameEnd, h]

theorem CameraLink.frameEnd_of_writing (h : x.writing = some (i, q, ls)) : x.frameEnd =
    if framePasses ls then { x with
      slots := (Vector.ofFn (fun j => x.slots[j].dropReady)).set i (.ready ⟨q, ls.map CameraLine.pixels⟩) }
    else { x with slots := x.slots.set i .free, discards := min 255 (x.discards + 1) } := by
  rw [CameraLink.frameEnd, h]
  rfl

theorem framePasses_iff (ls : List CameraLine) : framePasses ls = true ↔
    ls.length = 960 ∧ ∀ l ∈ ls, l.checkOk = true ∧ l.pixels.length = 1280 := by
  simp only [framePasses, Bool.and_eq_true, decide_eq_true_eq, List.all_eq_true]

theorem FrameSlot.dropReady_of_not_ready {a : FrameSlot} (h : ∀ f, a ≠ .ready f) : a.dropReady = a := by
  cases a with
  | ready f => exact absurd rfl (h f)
  | _ => rfl

theorem FrameSlot.keepHeld_of_not_held {a : FrameSlot} (h : ∀ f, a ≠ .held f) : a.keepHeld = .free := by
  cases a with
  | held f => exact absurd rfl (h f)
  | _ => rfl

variable {s : State} {k : Fin 4}

theorem CameraLink.takesFrames_of_active (ha : x.link ≠ .absent) (hi : x.link ≠ .idle) (hp : x.powerOff = none) :
    x.takesFrames = true := by
  rw [CameraLink.takesFrames, (LinkState.isActive_iff _).mpr ⟨ha, hi⟩, hp]
  rfl

theorem CameraLink.takesFrames_eq_false (h : x.link = .absent ∨ x.link = .idle ∨ x.powerOff ≠ none) :
    x.takesFrames = false := by
  rw [← Bool.not_eq_true, CameraLink.takesFrames_iff]
  rintro ⟨hl, hp⟩
  obtain h | h | h := h
  · simp [h] at hl
  · simp [h] at hl
  · exact h hp

/-- Frames that a link does not take change nothing (R71, R72; log 1). -/
theorem exec_frames_ignored (h : s.cams.links[k].takesFrames = false) :
    (∀ seq, exec (.frameStart k seq) s = .next s) ∧ (∀ l, exec (.cameraLine k l) s = .next s)
    ∧ exec (.frameEnd k) s = .next s :=
  ⟨fun _ => if_pos h, fun _ => if_pos h, if_pos h⟩

theorem exec_frames_taken (h : s.cams.links[k].takesFrames = true) :
    (∀ seq, exec (.frameStart k seq) s = .next (s.setLink k (s.cams.links[k].frameStart seq)))
    ∧ (∀ l, exec (.cameraLine k l) s = .next (s.setLink k (s.cams.links[k].line l)))
    ∧ exec (.frameEnd k) s = .next (s.setLink k s.cams.links[k].frameEnd) := by
  have hn : ¬ s.cams.links[k].takesFrames = false := by simpa using h
  exact ⟨fun _ => if_neg hn, fun _ => if_neg hn, if_neg hn⟩

variable {p : Port} {r : Request}

theorem exec_cameraRestart_of_no_camera (h : s.Reaches p .cameraRestart r) (hk : 3 < (r.arg 0).toNat) :
    exec (.cameraRestart p) s = .next (s.replied p r .badField 0x01#8 []) := by
  change execCameraRestart p s = _
  rw [execCameraRestart, serve_of_reaches s p h, cameraOf_eq_none hk]
  simp only [State.taken_badField]

theorem exec_cameraRestart_of_camera (h : s.Reaches p .cameraRestart r) (hk : (r.arg 0).toNat = k.val) :
    exec (.cameraRestart p) s =
      if s.cams.links[k].link = .absent then .next (s.replied p r .badField 0x01#8 [])
      else if s.stc.part = .quiet then .next (s.replied p r .wrongState 0#8 [])
      else if s.cams.links[k].powerOff ≠ none then .next (s.replied p r .busy 0#8 [])
      else .next ((s.setLink k s.cams.links[k].restart).replied p r .done 0#8 []) := by
  change execCameraRestart p s = _
  rw [execCameraRestart, serve_of_reaches s p h, hk, cameraOf_val]
  simp only [State.taken_badField, State.taken_refuse, State.taken_setLink, State.taken_done, State.taken_cams,
    State.taken_stc, Option.isSome_iff_ne_none]

end Frames

/-- Settles O54, by one equation for each command: `exec_cameraRestart_of_camera`, `exec_frames_taken`,
`State.powerOffExpiry_of_running`. -/
theorem cameraRestartAndFrames : Obligations.CameraRestartAndFrames := by
  rintro s k _ rfl _ rfl
  refine ⟨fun p r h => ⟨exec_cameraRestart_of_no_camera h, fun hk => ?_⟩,
    fun h => exec_frames_ignored (CameraLink.takesFrames_eq_false h), fun ha hi hp => ?_, fun h => ?_, fun h => ?_⟩
  · rw [exec_cameraRestart_of_camera h hk]
    refine ⟨fun ha => if_pos ha, fun ha hq => ?_, fun ha hq hp => ?_, fun ha hq hp => ?_⟩
    · rw [if_neg ha, if_pos hq]
    · rw [if_neg ha, if_neg hq, if_pos hp]
    · rw [if_neg ha, if_neg hq, if_neg (not_not.mpr hp)]
      refine ⟨_, rfl, fun i => ⟨fun f hf => ?_, fun hf => ?_⟩⟩
      · rw [ofFn_get, hf]
        rfl
      · rw [ofFn_get, FrameSlot.keepHeld_of_not_held hf]
  · obtain ⟨start, line, frame_end⟩ := exec_frames_taken (CameraLink.takesFrames_of_active ha hi hp)
    refine ⟨fun seq hw i hfree below => ?_, fun hw => ⟨fun l => ?_, ?_⟩, fun i q ls hw others => ?_⟩
    · rw [start, CameraLink.frameStart_of_free (CameraLink.writing_eq_none hw)
        (CameraLink.lowestFree_of_lowest hfree below)]
      rfl
    · rw [line, CameraLink.line_of_none (CameraLink.writing_eq_none hw), State.setLink_self]
    · rw [frame_end, CameraLink.frameEnd_of_none (CameraLink.writing_eq_none hw), State.setLink_self]
    · have writing := CameraLink.writing_of_only hw others
      refine ⟨fun seq => ?_, fun l => ?_, fun pass => ?_, fun fail => ?_⟩
      · rw [start, CameraLink.frameStart_of_writing writing]
        rfl
      · rw [line, CameraLink.line_of_writing writing]
        rfl
      · rw [frame_end, CameraLink.frameEnd_of_writing writing, if_pos ((framePasses_iff _).mpr pass)]
        refine ⟨_, rfl, vectorSet_get_self _ _ _, fun j hj => ?_⟩
        rw [vectorSet_get, if_neg hj, ofFn_get]
        exact ⟨fun ⟨f, hf⟩ => by rw [hf]; rfl, FrameSlot.dropReady_of_not_ready⟩
      · rw [frame_end, CameraLink.frameEnd_of_writing writing, if_neg (fun h => fail ((framePasses_iff _).mp h))]
        rfl
  · exact congrArg Host.Outcome.next (State.powerOffExpiry_of_stopped h)
  · change Host.Outcome.next (s.powerOffExpiry k) = _
    rw [State.powerOffExpiry_of_running h, CameraLink.powerOn_eq]
    rfl

end Sys2Proof.Machine

/-! The Frame Plan (section 8.1): which layers it holds, in what order, and what taking it sets. -/

namespace Sys2Proof.Machine

/-! ## Entries by height (R145) -/

section Heights

variable {e d : PlanEntry} {es : List PlanEntry}

/-- Entries that rise in z. -/
def Ascending (es : List PlanEntry) : Prop := es.Pairwise (fun a b => a.record.z < b.record.z)

theorem insertByZ_perm (e : PlanEntry) (es : List PlanEntry) : (insertByZ e es).Perm (e :: es) := by
  induction es with
  | nil => exact .refl _
  | cons x xs ih =>
    rw [insertByZ]
    split
    · exact .refl _
    · exact (ih.cons x).trans (.swap e x xs)

theorem Ascending.insertByZ (h : Ascending es) (hz : ∀ a ∈ es, a.record.z ≠ e.record.z) :
    Ascending (insertByZ e es) := by
  induction es with
  | nil => exact List.pairwise_singleton _ _
  | cons x xs ih =>
    obtain ⟨hx, hxs⟩ := List.pairwise_cons.mp h
    have hne : x.record.z ≠ e.record.z := hz x List.mem_cons_self
    rw [Machine.insertByZ]
    split
    · rename_i hlt
      refine List.pairwise_cons.mpr ⟨fun a ha => ?_, h⟩
      obtain rfl | ha := List.mem_cons.mp ha
      · exact hlt
      · exact hlt.trans (hx a ha)
    · refine List.pairwise_cons.mpr ⟨fun a ha => ?_, ih hxs fun a ha => hz a (List.mem_cons_of_mem x ha)⟩
      obtain rfl | ha := List.mem_cons.mp ((insertByZ_perm e xs).mem_iff.mp ha)
      · omega
      · exact hx a ha

/-- Insertion one by one keeps the entries and puts those of different heights in ascending order. -/
theorem foldr_insertByZ_perm (es : List PlanEntry) : (es.foldr insertByZ []).Perm es := by
  induction es with
  | nil => exact .refl _
  | cons e es ih => exact (insertByZ_perm e _).trans (ih.cons e)

theorem foldr_insertByZ_ascending (h : es.Pairwise (fun a b => a.record.z ≠ b.record.z)) :
    Ascending (es.foldr insertByZ []) := by
  induction es with
  | nil => exact List.Pairwise.nil
  | cons e es ih =>
    obtain ⟨he, hes⟩ := List.pairwise_cons.mp h
    exact (ih hes).insertByZ fun a ha => (he a ((foldr_insertByZ_perm es).mem_iff.mp ha)).symm

/-! What leaving out ORDINARY layers of lowest z leaves. -/

/-- An ORDINARY layer's entry. -/
def PlanEntry.isOrdinary (e : PlanEntry) : Bool := decide (e.record.cls = .ordinary)

theorem PlanEntry.cls_of_not_ordinary (h : ¬ e.isOrdinary = true) : e.record.cls = .safety := by
  cases hc : e.record.cls with
  | safety => rfl
  | ordinary => exact absurd (decide_eq_true hc) h

theorem leaveOut_succ (n : Nat) (es : List PlanEntry) :
    leaveOut (n + 1) es = leaveOut n (es.eraseP PlanEntry.isOrdinary) := rfl

theorem leaveOut_sublist (n : Nat) : ∀ es : List PlanEntry, (leaveOut n es).Sublist es := by
  induction n with
  | zero => exact fun es => .refl es
  | succ n ih => exact fun es => (ih _).trans List.eraseP_sublist

/-- As long as there are ORDINARY layers, each turn leaves one out. -/
theorem leaveOut_length (n : Nat) : ∀ es : List PlanEntry, n ≤ es.countP PlanEntry.isOrdinary →
    (leaveOut n es).length = es.length - n := by
  induction n with
  | zero => exact fun es _ => rfl
  | succ n ih =>
    intro es hn
    obtain ⟨a, ha, hp⟩ := List.countP_pos_iff.mp (Nat.lt_of_lt_of_le n.succ_pos hn)
    obtain ⟨b, before, after, -, hb, happ, herase⟩ := List.exists_of_eraseP ha hp
    rw [happ, List.countP_append, List.countP_cons_of_pos hb] at hn
    rw [leaveOut_succ, herase, ih _ (by rw [List.countP_append]; omega), happ]
    simp only [List.length_append, List.length_cons]
    omega

theorem mem_leaveOut_of_safety (n : Nat) (hc : e.record.cls = .safety) : ∀ es : List PlanEntry, e ∈ es →
    e ∈ leaveOut n es := by
  induction n with
  | zero => exact fun es he => he
  | succ n ih =>
    exact fun es he => ih _ ((List.mem_eraseP_of_neg (by simp [hc])).mpr he)

/-- A layer left out is ORDINARY, and lower than every ORDINARY layer kept (R145). -/
theorem leaveOut_lowest (n : Nat) : ∀ es : List PlanEntry, Ascending es → e ∈ es → e ∉ leaveOut n es →
    e.record.cls = .ordinary ∧ ∀ d ∈ leaveOut n es, d.record.cls = .ordinary → e.record.z < d.record.z := by
  induction n with
  | zero => exact fun es _ he hn => absurd he hn
  | succ n ih =>
    intro es hes he hn
    rw [leaveOut_succ] at hn ⊢
    by_cases hmem : e ∈ es.eraseP PlanEntry.isOrdinary
    · exact ih _ (List.Pairwise.sublist List.eraseP_sublist hes) hmem hn
    · obtain h | ⟨a, before, after, hbefore, ha, happ, herase⟩ :=
        List.exists_or_eq_self_of_eraseP PlanEntry.isOrdinary es
      · exact absurd (by rwa [h]) hmem
      · rw [herase] at hmem ⊢
        have hea : e = a := by
          rw [happ] at he
          simp only [List.mem_append, List.mem_cons] at he hmem
          tauto
        subst hea
        refine ⟨of_decide_eq_true ha, fun d hd hord => ?_⟩
        rw [happ] at hes
        obtain hd | hd := List.mem_append.mp ((leaveOut_sublist n _).mem hd)
        · exact absurd (decide_eq_true hord) (hbefore d hd)
        · exact (List.pairwise_cons.mp (List.pairwise_append.mp hes).2.1).1 d hd

end Heights

/-! ## The visible layers (R143, R144) -/

section Visible

theorem isCandidate_iff (regions : Vector (Option Region) 16) (x : LayerSlot) : isCandidate regions x = true ↔
    x.active.enabled = true ∧ x.owner ≠ .none ∧ ∀ b, x.active.part = .bitmap b →
      ∃ g crc, regions[b.region] = some g ∧ g.content = .valid crc := by
  have region : ∀ b : BitmapPart, regions[b.region].any Region.isValid = true ↔
      ∃ g crc, regions[b.region] = some g ∧ g.content = .valid crc := by
    intro b
    simp only [Option.any_eq_true, Region.isValid_iff, exists_and_left]
  unfold isCandidate
  rw [Bool.and_eq_true, Bool.and_eq_true, Owner.isOwned_iff, and_assoc]
  cases x.active.part with
  | bitmap b => simp only [region, KindPart.bitmap.injEq, forall_eq']
  | _ => simp

theorem Blink.phaseOn_iff (b : Blink) (frame : Word16) : b.phaseOn frame = true ↔
    b = .solid ∨ (b = .slow ∧ frame.toNat % 32 < 16) ∨ (b = .fast ∧ frame.toNat % 8 < 4) := by
  cases b <;> simp [Blink.phaseOn]

theorem isVisible_iff (c : Conditioner) (frame : Word16) (x : LayerSlot) : isVisible c.view frame x = true ↔
    x.force ≠ .hide ∧ (x.force = .show ∨ ((∀ t ∈ x.active.condition, c.signal t.signal = t.level)
      ∧ (x.active.blink = .solid ∨ (x.active.blink = .slow ∧ frame.toNat % 32 < 16)
        ∨ (x.active.blink = .fast ∧ frame.toNat % 8 < 4)))) := by
  unfold isVisible
  cases x.force <;> simp only [Bool.and_eq_true, conditionHolds_iff, Blink.phaseOn_iff] <;> simp

variable (s : State)

/-- Whether a slot's layer is visible in the plan taken now (R143, R144). -/
def State.showsLayer (i : Fin 24) : Bool :=
  isCandidate s.ovm.regions s.ltb.slots[i] && isVisible s.scn.view s.ftb.frame s.ltb.slots[i]

/-- The visible layers, in ascending z (R145). -/
def State.visibleLayers : List PlanEntry := visibleEntries s.ltb s.ovm.regions s.scn.view s.ftb.frame

theorem State.planNow_entries : s.planNow.entries = keptEntries s.visibleLayers := by
  rw [State.planNow, State.visibleLayers]

theorem State.planNow_leftOut :
    s.planNow.leftOut = s.visibleLayers.length - (keptEntries s.visibleLayers).length := by
  rw [State.planNow, State.visibleLayers]

theorem State.visibleLayers_perm :
    s.visibleLayers.Perm (((List.finRange 24).filter s.showsLayer).map s.ltb.entry) := foldr_insertByZ_perm _

theorem State.mem_visibleLayers (e : PlanEntry) :
    e ∈ s.visibleLayers ↔ ∃ i, s.showsLayer i = true ∧ s.ltb.entry i = e := by
  simp [s.visibleLayers_perm.mem_iff]

theorem State.showsLayer_shows {i : Fin 24} (h : s.showsLayer i = true) : s.ltb.slots[i].Shows := by
  obtain ⟨hc, -⟩ := Bool.and_eq_true_iff.mp h
  obtain ⟨he, ho, -⟩ := (isCandidate_iff _ _).mp hc
  exact ⟨he, ho⟩

/-- As many layers are visible as slots show one. -/
theorem State.visibleLayers_length {visible : List (Fin 24)} (hn : visible.Nodup)
    (hv : ∀ i, i ∈ visible ↔ s.showsLayer i = true) : s.visibleLayers.length = visible.length := by
  have same : ((List.finRange 24).filter s.showsLayer).Perm visible :=
    (List.perm_ext_iff_of_nodup ((List.nodup_finRange 24).filter _) hn).mpr fun i => by simp [hv]
  rw [s.visibleLayers_perm.length_eq, List.length_map, same.length_eq]

/-- With R44 kept, visible layers have different heights (R44). -/
theorem State.visibleLayers_ascending (h : s.ltb.StackGood) : Ascending s.visibleLayers := by
  obtain ⟨apart, -, -⟩ := h
  refine foldr_insertByZ_ascending (List.pairwise_map.mpr ?_)
  refine ((List.nodup_finRange 24).filter _).imp_of_mem fun {i j} hi hj hij => ?_
  exact apart i j hij (s.showsLayer_shows (List.mem_filter.mp hi).2) (s.showsLayer_shows (List.mem_filter.mp hj).2)

/-- With R44 kept, at most 8 visible layers are SAFETY. -/
theorem State.visibleLayers_safety (h : s.ltb.StackGood) :
    s.visibleLayers.length ≤ s.visibleLayers.countP PlanEntry.isOrdinary + 8 := by
  obtain ⟨-, -, count⟩ := h
  rw [s.visibleLayers_perm.length_eq, s.visibleLayers_perm.countP_eq, List.length_map, List.countP_map]
  rw [List.length_eq_countP_add_countP (PlanEntry.isOrdinary ∘ s.ltb.entry)]
  refine Nat.add_le_add_left (le_trans ?_ count) _
  rw [LayerTable.safetyLayers, ← List.countP_eq_length_filter, List.countP_filter]
  refine List.countP_mono_left fun i _ hi => ?_
  obtain ⟨hcls, hshows⟩ := Bool.and_eq_true_iff.mp hi
  obtain ⟨henabled, howner⟩ := s.showsLayer_shows hshows
  rw [decide_eq_true_iff, Function.comp_apply] at hcls
  rw [henabled, (Owner.isOwned_iff _).mpr howner, Bool.and_self, Bool.true_and, decide_eq_true_eq]
  exact PlanEntry.cls_of_not_ordinary hcls

theorem State.keptLayers_length (h : s.ltb.StackGood) :
    (keptEntries s.visibleLayers).length = min 12 s.visibleLayers.length := by
  have safety := s.visibleLayers_safety h
  rw [keptEntries, leaveOut_length _ _ (by omega)]
  omega

/-- An entry of the plan is a visible slot as the plan holds it (R142). -/
theorem State.planNow_entry {e : PlanEntry} (he : e ∈ s.planNow.entries) :
    ∃ i, s.showsLayer i = true ∧ s.ltb.entry i = e := by
  rw [State.planNow_entries] at he
  exact (s.mem_visibleLayers e).mp ((leaveOut_sublist _ _).mem he)

/-- A visible slot that is no entry was left out: it is ORDINARY, and lower than every ORDINARY entry (R145). -/
theorem State.planNow_left_out (h : s.ltb.StackGood) {i : Fin 24} (hi : s.showsLayer i = true)
    (hn : ∀ e ∈ s.planNow.entries, e.slot ≠ i) : s.ltb.slots[i].active.cls = .ordinary
    ∧ ∀ e ∈ s.planNow.entries, e.record.cls = .ordinary → s.ltb.slots[i].active.z < e.record.z :=
  leaveOut_lowest (e := s.ltb.entry i) _ _ (s.visibleLayers_ascending h) ((s.mem_visibleLayers _).mpr ⟨i, hi, rfl⟩)
    fun hmem => hn _ hmem rfl

theorem State.planNow_answer (k : Fin 4) : s.planNow.answers[k] = s.cams.links[k].answer := ofFn_get _ k

/-- The state whose plan has been taken, but for PLAN_OVERFLOW (R142, R157, R158). -/
theorem State.takePlan_eq (recHold : Bool) : s.takePlan recHold =
    if 0 < s.planNow.leftOut ∧ s.cmp.overflow = false then
      (s.setCmp ⟨some s.planNow, s.cmp.palette, decide (0 < s.planNow.leftOut), outputModeFor s.stc.part,
        recorderModeFor s.stc.part recHold, [], false⟩).raiseAll .planOverflow 0 0
    else s.setCmp ⟨some s.planNow, s.cmp.palette, decide (0 < s.planNow.leftOut), outputModeFor s.stc.part,
        recorderModeFor s.stc.part recHold, [], false⟩ := by
  rw [State.takePlan]

end Visible

/-- Settles O56: the plan keeps all but the lowest ORDINARY of the visible layers (`State.planNow_entry`,
`State.planNow_left_out`, `State.keptLayers_length`), and taking it writes the Composer (`State.takePlan_eq`). -/
theorem planTakesVisibleLayers : Obligations.PlanTakesVisibleLayers := by
  refine ⟨fun s hstack shows hshows => ?_, fun s k => ?_, fun s => rfl, fun s u recHold hu => ?_⟩
  · have hs : ∀ i, s.showsLayer i = true ↔ shows i := by
      intro i
      rw [hshows, State.showsLayer, Bool.and_eq_true, isCandidate_iff, isVisible_iff, and_assoc, and_assoc]
    have length := s.keptLayers_length hstack
    refine ⟨fun e he => ?_, ?_, ?_, fun i hi hc => ?_, fun visible hn hv => ?_, fun i hi hn => ?_, rfl, rfl, rfl,
      fun n => Conditioner.view_get _ n⟩
    · obtain ⟨i, hi, rfl⟩ := s.planNow_entry he
      exact ⟨(hs i).mp hi, rfl, rfl, rfl⟩
    · rw [State.planNow_entries, length]
      exact Nat.min_le_left _ _
    · exact List.pairwise_map.mpr ((s.visibleLayers_ascending hstack).sublist (leaveOut_sublist _ _))
    · exact ⟨s.ltb.entry i, mem_leaveOut_of_safety _ hc _ ((s.mem_visibleLayers _).mpr ⟨i, (hs i).mpr hi, rfl⟩), rfl⟩
    · rw [State.planNow_leftOut, State.planNow_entries, length,
        s.visibleLayers_length hn fun i => (hv i).trans (hs i).symm]
      omega
    · exact s.planNow_left_out hstack ((hs i).mpr hi) hn
  · rw [State.planNow_answer]
    refine ⟨rfl, fun i f hf only => ?_, fun hnone => ?_⟩
    · rw [CameraLink.answer, CameraLink.heldSlot_of_only hf only]
      rfl
    · rw [CameraLink.answer, CameraLink.heldSlot_eq_none hnone]
      rfl
  · have taken : u = s.setCmp ⟨some s.planNow, s.cmp.palette, decide (0 < s.planNow.leftOut),
        outputModeFor s.stc.part, recorderModeFor s.stc.part recHold, [], false⟩ := by
      rw [hu]
      cases s.stc.part <;> rfl
    rw [State.takePlan_eq, ← taken]
    exact ⟨fun h ho => if_pos ⟨h, ho⟩, fun h => if_neg (by grind)⟩

end Sys2Proof.Machine

/-! The Marker Map over one step (R104, R116): what each request and the aging make of the map, that no other command
touches it or NEAR, and that every step keeps their relation. -/

namespace Sys2Proof.Machine

/-! ## The map as a list (R104) -/

/-- R104 of a list of markers: at most 16, ascending track ids up to 255, every age below its ttl. -/
structure MapGood (ms : List Marker) : Prop where
  count : ms.length ≤ 16
  ascending : (ms.map Marker.track).Pairwise (· < ·)
  fields : ∀ m ∈ ms, m.track ≤ 255 ∧ m.age < m.ttl

section Map

variable {ms : List Marker} {m : Marker}

theorem mapGood_nil : MapGood [] := ⟨Nat.zero_le _, List.Pairwise.nil, by simp⟩

theorem MapGood.filter (h : MapGood ms) (keep : Marker → Bool) : MapGood (ms.filter keep) where
  count := (List.length_filter_le keep ms).trans h.count
  ascending := h.ascending.sublist (List.filter_sublist.map Marker.track)
  fields m hm := h.fields m (List.mem_of_mem_filter hm)

theorem mem_putMarker {x : Marker} (hx : x ∈ putMarker ms m) : x = m ∨ x ∈ ms := by
  induction ms with
  | nil => exact .inl (List.mem_singleton.mp hx)
  | cons y ys ih =>
    unfold putMarker at hx
    split_ifs at hx <;> simp only [List.mem_cons] at hx ⊢
    · exact hx
    · exact hx.imp_right .inr
    · exact hx.elim (fun h => .inr (.inl h)) fun h => (ih h).imp_right .inr

theorem putMarker_ascending (h : (ms.map Marker.track).Pairwise (· < ·)) :
    ((putMarker ms m).map Marker.track).Pairwise (· < ·) := by
  induction ms with
  | nil => exact List.pairwise_singleton _ _
  | cons y ys ih =>
    have hall := h
    rw [List.map_cons, List.pairwise_cons, List.forall_mem_map] at h
    obtain ⟨hy, hys⟩ := h
    unfold putMarker
    split_ifs with hlt heq
    · refine List.pairwise_cons.mpr ⟨List.forall_mem_map.mpr fun x hx => ?_, hall⟩
      obtain rfl | hx := List.mem_cons.mp hx
      · exact hlt
      · exact hlt.trans (hy x hx)
    · exact List.pairwise_cons.mpr ⟨List.forall_mem_map.mpr fun x hx => heq ▸ hy x hx, hys⟩
    · refine List.pairwise_cons.mpr ⟨List.forall_mem_map.mpr fun x hx => ?_, ih hys⟩
      obtain rfl | hx := mem_putMarker hx
      · omega
      · exact hy x hx

/-- A marker of a new track adds one to the map. -/
theorem putMarker_length_le : (putMarker ms m).length ≤ ms.length + 1 := by
  induction ms with
  | nil => exact Nat.le_refl _
  | cons y ys ih =>
    unfold putMarker
    split_ifs <;> simp only [List.length_cons] <;> omega

/-- A marker of a track in the map replaces that track's marker (R108). -/
theorem putMarker_length_of_mem {x : Marker} (h : (ms.map Marker.track).Pairwise (· < ·)) (hx : x ∈ ms)
    (ht : x.track = m.track) : (putMarker ms m).length = ms.length := by
  induction ms with
  | nil => cases hx
  | cons y ys ih =>
    rw [List.map_cons, List.pairwise_cons, List.forall_mem_map] at h
    obtain ⟨hy, hys⟩ := h
    unfold putMarker
    obtain rfl | hx := List.mem_cons.mp hx
    · rw [if_neg (by omega), if_pos ht.symm, List.length_cons, List.length_cons]
    · have := hy x hx
      rw [if_neg (by omega), if_neg (by omega), List.length_cons, List.length_cons, ih hys hx]

theorem MapGood.put (h : MapGood ms) (htrack : m.track ≤ 255) (hage : m.age < m.ttl)
    (hcount : (putMarker ms m).length ≤ 16) : MapGood (putMarker ms m) where
  count := hcount
  ascending := putMarker_ascending h.ascending
  fields x hx := by
    obtain rfl | hx := mem_putMarker hx
    · exact ⟨htrack, hage⟩
    · exact h.fields x hx

theorem findMarker_isSome {track : Nat} : (findMarker ms track).isSome = true ↔ ∃ x ∈ ms, x.track = track := by
  simp only [findMarker, List.find?_isSome, decide_eq_true_eq]

theorem evictionCandidate_mem {c : Marker} (h : evictionCandidate ms = some c) : c ∈ ms := by
  induction ms generalizing c with
  | nil => cases h
  | cons x xs ih =>
    unfold evictionCandidate at h
    split at h
    · cases h
      exact List.mem_cons_self
    · rename_i d hd
      split at h
      · cases h
        exact List.mem_cons_self
      · cases h
        exact List.mem_cons_of_mem _ (ih hd)

/-- A track in the map can be dropped from it, which makes room for one marker (R109). -/
theorem dropMarker_length_lt {c : Marker} (h : c ∈ ms) : (dropMarker ms c.track).length < ms.length :=
  List.length_filter_lt_length_iff_exists.mpr ⟨c, h, by simp⟩

/-- The three ways a marker enters the map keep it at 16 at most: in place, into room, and for one evicted (R108,
R109). -/
theorem MapGood.place (h : MapGood ms) (htrack : m.track ≤ 255) (hage : m.age < m.ttl) :
    MapGood (placeMarker ms m).1 := by
  have hcount := h.count
  unfold placeMarker
  split_ifs with hfound hroom
  · obtain ⟨x, hx, ht⟩ := findMarker_isSome.mp hfound
    exact h.put htrack hage (by rwa [putMarker_length_of_mem h.ascending hx ht])
  · exact h.put htrack hage (putMarker_length_le.trans hroom)
  · split
    · rename_i c hc
      split_ifs
      · have hlt := dropMarker_length_lt (evictionCandidate_mem hc)
        exact (h.filter _).put htrack hage (putMarker_length_le.trans (by unfold dropMarker at hlt; omega))
      · exact h
    · exact h

/-- An item that passes R107 has a track up to 255 and a ttl of 1 at least. -/
theorem MarkerItem.ranges_of_passes {x : MarkerItem} (h : x.failure = none) : x.track ≤ 255 ∧ 1 ≤ x.ttl := by
  unfold MarkerItem.failure at h
  split_ifs at h
  omega

theorem MapGood.takeItem (h : MapGood ms) (present : Vector Bool 4) (threshold : Nat) (x : MarkerItem) :
    MapGood (takeItem present threshold ms x).1 := by
  unfold Machine.takeItem
  split
  · exact h
  · rename_i hx
    obtain ⟨htrack, httl⟩ := MarkerItem.ranges_of_passes hx
    split
    · split_ifs
      · exact h
      · exact h.place htrack httl
    · exact h

theorem MapGood.takeItems (present : Vector Bool 4) (threshold : Nat) (xs : List MarkerItem) (h : MapGood ms) :
    MapGood (takeItems present threshold xs ms).1 := by
  induction xs generalizing ms with
  | nil => exact h
  | cons x xs ih => exact ih (h.takeItem present threshold x)

/-- A change of the markers' ages and near flags that keeps every age below its ttl keeps the map. -/
theorem MapGood.map (h : MapGood ms) {f : Marker → Marker} (htrack : ∀ m, (f m).track = m.track)
    (hage : ∀ m ∈ ms, (f m).age < (f m).ttl) : MapGood (ms.map f) where
  count := (List.length_map f).le.trans h.count
  ascending := by
    have same : Marker.track ∘ f = Marker.track := funext htrack
    rw [List.map_map, same]
    exact h.ascending
  fields := List.forall_mem_map.mpr fun m hm => ⟨(htrack m).le.trans (h.fields m hm).1, hage m hm⟩

/-- A marker that would reach its ttl goes in the step that would bring it there (R113). -/
theorem MapGood.age (h : MapGood ms) : MapGood (ageMarkers ms) := by
  refine (h.filter _).map (fun _ => rfl) fun m hm => ?_
  obtain ⟨hm, hkept⟩ := List.mem_filter.mp hm
  have hne : m.age + 1 ≠ m.ttl := of_decide_eq_true hkept
  have hlt := (h.fields m hm).2
  show m.age + 1 < m.ttl
  omega

theorem MapGood.withThreshold (h : MapGood ms) (v : Nat) : MapGood (ms.map (·.withThreshold v)) :=
  h.map (fun _ => rfl) fun m hm => (h.fields m hm).2

end Map

/-! ## The map and NEAR of a next state -/

/-- The markers, and NEAR as the Signal Conditioner holds it (R99, R104). -/
structure MapView where
  markers : List Marker
  near : Bool

def State.mapView (s : State) : MapView := ⟨s.mkm.markers, s.scn.near⟩

/-- The relation of R104 and R116. -/
def MapView.Good (v : MapView) : Prop := MapGood v.markers ∧ v.near = anyNear v.markers

theorem State.markersGood_iff (s : State) : s.MarkersGood ↔ s.mapView.Good :=
  ⟨fun ⟨hcount, hasc, hfields, hnear⟩ => ⟨⟨hcount, hasc, hfields⟩, hnear⟩,
    fun ⟨⟨hcount, hasc, hfields⟩, hnear⟩ => ⟨hcount, hasc, hfields, hnear⟩⟩

/-- A next state that an outcome answers has a map and NEAR of which `P` holds. -/
def NextMap (P : MapView → Prop) (o : Outcome) : Prop := ∀ t, o = .next t → P t.mapView

theorem nextMap_next {P : MapView → Prop} {t : State} (h : P t.mapView) : NextMap P (.next t) := by
  rintro _ ⟨⟩
  exact h

/-- A next state that an outcome answers has the map and NEAR of `s`. -/
def State.KeepsMap (s : State) (o : Outcome) : Prop := NextMap (· = s.mapView) o

theorem State.keepsMap_next {s t : State} (h : t.mapView = s.mapView) : s.KeepsMap (.next t) :=
  nextMap_next (P := (· = s.mapView)) h

section Updates

variable (s : State) (p : Port) (r : Request)

/-! The updates that leave the map and NEAR. -/

@[simp] theorem State.setPorts_mapView (x : PerPort PortState) : (s.setPorts x).mapView = s.mapView := rfl
@[simp] theorem State.setLtb_mapView (x : LayerTable) : (s.setLtb x).mapView = s.mapView := rfl
@[simp] theorem State.setFtb_mapView (x : Timebase) : (s.setFtb x).mapView = s.mapView := rfl
@[simp] theorem State.setCams_mapView (x : Cameras) : (s.setCams x).mapView = s.mapView := rfl
@[simp] theorem State.setOvm_mapView (x : Overlay) : (s.setOvm x).mapView = s.mapView := rfl
@[simp] theorem State.setCmp_mapView (x : Composer) : (s.setCmp x).mapView = s.mapView := rfl
@[simp] theorem State.setStc_mapView (x : Controller) : (s.setStc x).mapView = s.mapView := rfl
@[simp] theorem State.setFst_mapView (x : Fitting) : (s.setFst x).mapView = s.mapView := rfl
@[simp] theorem State.setScn_mapView {x : Conditioner} (h : x.near = s.scn.near) :
    (s.setScn x).mapView = s.mapView := congrArg (MapView.mk s.mkm.markers) h
@[simp] theorem State.modPort_mapView (f : PortState → PortState) : (s.modPort p f).mapView = s.mapView := rfl
@[simp] theorem State.post_mapView (x : Reply) : (s.post p x).mapView = s.mapView := rfl
@[simp] theorem State.raiseTo_mapView (c : AlertCode) (a b : Nat) : (s.raiseTo p c a b).mapView = s.mapView := rfl
@[simp] theorem State.raiseAll_mapView (c : AlertCode) (a b : Nat) : (s.raiseAll c a b).mapView = s.mapView := rfl
@[simp] theorem State.announce_mapView (c : Cause) : (s.announce c).mapView = s.mapView := rfl
@[simp] theorem State.answer_mapView (c : ResultCode) (i : Byte) (v : List Byte) :
    (s.answer p r c i v).mapView = s.mapView := rfl
@[simp] theorem State.done_mapView (v : List Byte) : (s.done p r v).mapView = s.mapView := rfl
@[simp] theorem State.refuse_mapView (c : ResultCode) : (s.refuse p r c).mapView = s.mapView := rfl
@[simp] theorem State.badField_mapView (i : Byte) : (s.badField p r i).mapView = s.mapView := rfl
@[simp] theorem State.replied_mapView (c : ResultCode) (i : Byte) (v : List Byte) :
    (s.replied p r c i v).mapView = s.mapView := rfl
@[simp] theorem State.taken_mapView : (s.taken p).mapView = s.mapView := rfl
@[simp] theorem State.dropRequest_mapView : (s.dropRequest p).mapView = s.mapView := rfl
@[simp] theorem State.setLink_mapView (k : Fin 4) (x : CameraLink) : (s.setLink k x).mapView = s.mapView := rfl
@[simp] theorem State.refuseEntry_mapView (e : PendingEntry) (c : Cause) :
    (s.refuseEntry e c).mapView = s.mapView := rfl

/-- The map and NEAR are written together (R99, R116). -/
@[simp] theorem State.setMarkers_mapView (ms : List Marker) : (s.setMarkers ms).mapView = ⟨ms, anyNear ms⟩ := rfl

/-- A port reset clears virtual signals alone (R103). -/
theorem Conditioner.portReset_near (c : Conditioner) : (c.portReset p).near = c.near := rfl

/-- What a request leaves of the map is what its block leaves: taking and answering it change its port alone (R164). -/
theorem serve_nextMap {P : MapView → Prop} {kind : RequestKind} {block : Request → State → Outcome}
    (hs : P s.mapView) (h : ∀ r, NextMap P (block r (s.taken p))) : NextMap P (serve kind p s block) := by
  intro t ht
  obtain ⟨-, hn⟩ | ⟨r, -, ⟨c, i, hn⟩ | ⟨-, -, -, hn⟩⟩ := serve_cases s p ht
  · cases hn
    exact hs
  · cases hn
    exact hs
  · exact h r t hn.symm

theorem serve_keepsMap {kind : RequestKind} {block : Request → State → Outcome}
    (h : ∀ r, s.KeepsMap (block r (s.taken p))) : s.KeepsMap (serve kind p s block) :=
  serve_nextMap s p rfl h

theorem onSlot_keepsMap {f : Fin 24 → State} {u : State} (hu : u.mapView = s.mapView)
    (h : ∀ i, (f i).mapView = s.mapView) : s.KeepsMap (onSlot p r u f) := by
  unfold onSlot
  split
  · exact State.keepsMap_next hu
  · exact State.keepsMap_next (h _)

/-! The shared operations of the other blocks. -/

@[simp] theorem State.raiseNear_mapView (ts : List Nat) : ∀ s : State, (s.raiseNear ts).mapView = s.mapView := by
  induction ts with
  | nil => exact fun _ => rfl
  | cons t ts ih => exact fun s => ih (s.raiseAll .nearObject t 0)

theorem openLoadRegion_mapView (g : Fin 16) : (openLoadRegion p r s g).mapView = s.mapView := by
  unfold openLoadRegion State.admitJob
  dsimp only
  repeat' split
  all_goals rfl

@[simp] theorem State.endJob_mapView (j : Job) (c : RegionContent) : (s.endJob p j c).mapView = s.mapView := by
  obtain ⟨o, x, h, -⟩ := s.endJob_shape p j c
  rw [h]
  rfl

@[simp] theorem State.verificationEnd_mapView (us : List Upset) : (s.verificationEnd us).mapView = s.mapView := by
  unfold State.verificationEnd
  repeat' split
  · rfl
  · obtain ⟨o, x, h, -⟩ := s.finishVerification_shape _ _ _ us
    rw [h]
    rfl
  all_goals rfl

@[simp] theorem State.receiveTimeout_mapView : s.receiveTimeout.mapView = s.mapView := by
  unfold State.receiveTimeout
  split <;> simp

@[simp] theorem State.resetJob_mapView : (s.resetJob p).mapView = s.mapView := by
  unfold State.resetJob
  repeat' split
  all_goals simp

@[simp] theorem State.finishStore_mapView (x : StoreInFlight) (good : Bool) :
    (s.finishStore x good).mapView = s.mapView := by
  unfold State.finishStore
  dsimp only
  repeat' split
  all_goals rfl

@[simp] theorem State.storeTimerExpiry_mapView : s.storeTimerExpiry.mapView = s.mapView := by
  unfold State.storeTimerExpiry
  split <;> simp

@[simp] theorem State.speedAgeExpiry_mapView : s.speedAgeExpiry.mapView = s.mapView := by
  unfold State.speedAgeExpiry
  split <;> rfl

@[simp] theorem State.powerOffExpiry_mapView (k : Fin 4) : (s.powerOffExpiry k).mapView = s.mapView := by
  unfold State.powerOffExpiry
  dsimp only
  split <;> rfl

/-- An input changes the inputs and the wake-pending set alone (R90, R100). -/
@[simp] theorem State.changeInput_mapView (n : Fin 8) (y : Input) : (s.changeInput n y).mapView = s.mapView := by
  obtain ⟨inputs, pending, h⟩ := s.changeInput_changes n y
  rw [h]
  rfl

@[simp] theorem State.inputEvent_mapView (e : InputEvent) : (s.inputEvent e).mapView = s.mapView := by
  cases e with
  | rawChange n level => exact s.changeInput_mapView n _
  | debounceExpiry n =>
    unfold State.inputEvent State.debounceExpiry
    dsimp only
    split
    · rfl
    · exact s.changeInput_mapView n _

theorem State.inputEvents_mapView (es : List InputEvent) :
    ∀ s : State, (es.foldl State.inputEvent s).mapView = s.mapView := by
  induction es with
  | nil => exact fun _ => rfl
  | cons e es ih => exact fun s => (ih (s.inputEvent e)).trans (s.inputEvent_mapView e)

/-- The start of the timebase fires a TOP, at which nothing ages (R66, R113). -/
@[simp] theorem State.startRun_mapView (out : Surroundings) : (s.startRun out).mapView = s.mapView := by
  obtain ⟨-, hscn, hmkm, -⟩ := s.startRun_keeps out
  rw [State.mapView, hscn, hmkm, State.mapView]

@[simp] theorem State.wakeUp_mapView (meets : Waking) : (s.wakeUp meets).mapView = s.mapView := by
  rw [State.wakeUp, State.startRun_mapView, State.inputEvents_mapView]
  rfl

/-- A fitting record sets the near threshold, and no marker's near flag (R182). -/
@[simp] theorem State.settleFitting_mapView : s.settleFitting.mapView = s.mapView := by
  unfold State.settleFitting
  split
  · rfl
  · rfl
  · split
    · rfl
    · split_ifs
      · rfl
      · rfl
      · exact congrArg₂ MapView.mk rfl rfl

@[simp] theorem State.endBoot_mapView (out : Surroundings) : (s.endBoot out).mapView = s.mapView := by
  rw [State.endBoot, State.announce_mapView, State.startRun_mapView, State.setScn_mapView,
    State.settleFitting_mapView]
  rfl

theorem State.examine_mapView (bytes : List Byte) : (s.examine p bytes).mapView = s.mapView := by
  unfold State.examine
  dsimp only
  repeat' split
  all_goals rfl

end Updates

/-! ## The commands that leave the map and NEAR -/

/-- The commands that can change the markers or NEAR (R103 to R120). -/
def Instr.movesMap : Instr → Bool
  | .deviceReset _ | .resetPort _ | .mark _ | .unmark _ | .clearMarks _ | .setNear _ | .lineEnd _ _
  | .dormant _ _ => true
  | _ => false

theorem exec_keepsMap {c : Instr} (hc : Instr.movesMap c = false) (s : State) : s.KeepsMap (exec c s) := by
  cases c with
  | deviceReset | resetPort | mark | unmark | clearMarks | setNear | lineEnd | dormant => cases hc
  | readLayer p =>
    simp only [exec, execReadLayer]
    exact serve_keepsMap s p fun r => onSlot_keepsMap s p r rfl fun i => rfl
  | claim p | seize p | release p | edit p | force p =>
    simp only [exec, execClaim, execSeize, execRelease, execEdit, execForce]
    refine serve_keepsMap s p fun r => onSlot_keepsMap s p r rfl fun i => ?_
    simp only [claimSlot, seizeSlot, releaseSlot, editSlot, forceSlot]
    repeat' split
    all_goals rfl
  | free p =>
    simp only [exec, execFree]
    refine serve_keepsMap s p fun r => ?_
    split
    · exact State.keepsMap_next rfl
    · refine State.keepsMap_next ?_
      unfold freeRegion
      repeat' split
      all_goals rfl
  | openLoad p =>
    simp only [exec, execOpenLoad]
    refine serve_keepsMap s p fun r => ?_
    split
    · exact State.keepsMap_next rfl
    · exact State.keepsMap_next (openLoadRegion_mapView _ p r _)
  | loadData p =>
    simp only [exec, execLoadData]
    refine serve_keepsMap s p fun r => ?_
    repeat' split
    iterate 6 exact State.keepsMap_next rfl
    · rintro _ ⟨⟩
    · exact State.keepsMap_next rfl
    · exact State.keepsMap_next rfl
  | identify p | readSignals p | readMarkers p | readRegions p | cameraStatus p | eccClear p | resync p | subscribe p
  | discard p | commit p | alloc p | setInput p | speed p | setSpeedBands p | setVirtual p | setPalette p | run p
  | quiet p | storeFitting p | abortLoad p | setPeriod p | setCommitLine p | setStrobe p | setGenlock p
  | cameraRestart p | wake p =>
    simp only [exec, acceptTimebase, execIdentify, execReadSignals, execReadMarkers, execReadRegions,
      execCameraStatus, execEccClear, execResync, execSubscribe, execDiscard, execCommit, execAlloc, execSetInput,
      execSpeed, execSetSpeedBands, execSetVirtual, execSetPalette, execRun, execQuiet, execStoreFitting,
      execAbortLoad, execSetPeriod, execSetCommitLine, execSetStrobe, execSetGenlock, execCameraRestart, execWake]
    refine serve_keepsMap s p fun r => ?_
    repeat' split
    all_goals exact State.keepsMap_next (by simp [Conditioner.setInput])
  | transactionEnd p bytes =>
    simp only [exec, execTransactionEnd]
    repeat' split
    · exact State.keepsMap_next rfl
    · exact State.keepsMap_next rfl
    · exact State.keepsMap_next (State.examine_mapView _ _ _)
  | storeTimerExpiry => exact State.keepsMap_next s.storeTimerExpiry_mapView
  | powerOffExpiry k => exact State.keepsMap_next (s.powerOffExpiry_mapView k)
  | inputRawChange n level => exact State.keepsMap_next (s.inputEvent_mapView (.rawChange n level))
  | debounceExpiry n => exact State.keepsMap_next (s.inputEvent_mapView (.debounceExpiry n))
  | speedAgeExpiry => exact State.keepsMap_next s.speedAgeExpiry_mapView
  | verificationEnd us => exact State.keepsMap_next (s.verificationEnd_mapView us)
  | receiveTimeout => exact State.keepsMap_next s.receiveTimeout_mapView
  | bootStart => exact State.keepsMap_next rfl
  | bootEnd | wakeIn | transactionStart | unknownKind | storeEnd | dsync | frameStart | cameraLine | frameEnd =>
    simp only [exec, execBootEnd, execWakeIn, execTransactionStart, execUnknownKind, execStoreEnd, execDsync,
      execFrameStart, execCameraLine, execFrameEnd]
    repeat' split
    all_goals exact State.keepsMap_next (by simp)

/-! ## The commands that move the map (R106 to R120) -/

section MovingCommands

variable {s : State} (h : s.mapView.Good) (p : Port)

include h

theorem execMark_mapGood : NextMap MapView.Good (execMark p s) := by
  refine serve_nextMap s p h fun r => ?_
  dsimp only
  split_ifs
  · exact nextMap_next h
  · refine nextMap_next ?_
    rw [State.done_mapView, State.raiseNear_mapView, State.setMarkers_mapView]
    exact ⟨h.1.takeItems _ _ _, rfl⟩

theorem execUnmark_mapGood : NextMap MapView.Good (execUnmark p s) := by
  refine serve_nextMap s p h fun r => ?_
  dsimp only
  split_ifs
  · exact nextMap_next h
  · refine nextMap_next ?_
    rw [State.done_mapView, State.setMarkers_mapView]
    exact ⟨h.1.filter _, rfl⟩

theorem execClearMarks_mapGood : NextMap MapView.Good (execClearMarks p s) :=
  serve_nextMap s p h fun _ => nextMap_next ⟨mapGood_nil, rfl⟩

theorem execSetNear_mapGood : NextMap MapView.Good (execSetNear p s) := by
  refine serve_nextMap s p h fun r => ?_
  dsimp only
  split_ifs
  · exact nextMap_next h
  · refine nextMap_next ?_
    rw [State.done_mapView, State.raiseNear_mapView, State.setMarkers_mapView]
    exact ⟨h.1.withThreshold _, rfl⟩

/-- A reset of DETECT's port empties the map (R120). -/
theorem State.resetBlocks_mapGood : (s.resetBlocks p).mapView.Good := by
  unfold State.resetBlocks
  dsimp only
  rw [State.resetJob_mapView, State.setFst_mapView, State.setStc_mapView]
  split_ifs
  · exact ⟨mapGood_nil, rfl⟩
  · rwa [State.setScn_mapView _ (Conditioner.portReset_near p _), State.setLtb_mapView]

theorem execResetPort_mapGood : NextMap MapView.Good (execResetPort p s) := by
  refine serve_nextMap s p h fun r => nextMap_next ?_
  rw [State.done_mapView]
  exact State.resetBlocks_mapGood (s := (s.taken p).modPort p PortState.clear) h p

theorem execDormant_mapGood (replyFirst : Bool) : NextMap MapView.Good (execDormant p replyFirst s) := by
  refine serve_nextMap s p h fun r => ?_
  split_ifs
  · exact nextMap_next h
  · exact nextMap_next h
  · refine nextMap_next ?_
    rw [State.mapView, State.answerAndAnnounce_mkm, State.answerAndAnnounce_scn, State.enterDormant_mkm,
      State.enterDormant_scn]
    exact ⟨mapGood_nil, rfl⟩

/-- The markers age at 720, where BLANK fires; at no other counter value does the map change (R51, R113). -/
theorem State.lineEvents_mapGood (a b : Bool) (o : LineOrder) : (s.lineEvents a b o).mapView.Good := by
  rw [State.mapView, State.lineEvents_mkm, State.lineEvents_scn]
  split_ifs
  · exact ⟨h.1.age, rfl⟩
  · exact h

theorem execLineEnd_mapGood (out : Surroundings) (o : LineOrder) : NextMap MapView.Good (execLineEnd out o s) := by
  unfold execLineEnd
  split
  · exact nextMap_next h
  · exact nextMap_next (State.lineEvents_mapGood (s := s.arrived out) h false out.recHold o)

end MovingCommands

/-- Every command keeps the relation. -/
theorem exec_mapGood (c : Instr) {s : State} (h : s.mapView.Good) : NextMap MapView.Good (exec c s) := by
  by_cases hc : Instr.movesMap c = false
  · intro t ht
    rw [exec_keepsMap hc s t ht]
    exact h
  · cases c with
    | deviceReset campop => exact nextMap_next ⟨mapGood_nil, rfl⟩
    | resetPort p => exact execResetPort_mapGood h p
    | mark p => exact execMark_mapGood h p
    | unmark p => exact execUnmark_mapGood h p
    | clearMarks p => exact execClearMarks_mapGood h p
    | setNear p => exact execSetNear_mapGood h p
    | lineEnd out o => exact execLineEnd_mapGood h out o
    | dormant p replyFirst => exact execDormant_mapGood h p replyFirst
    | _ => exact absurd rfl hc

/-! ## A millisecond of the part's own clock (log 2) -/

theorem State.tickInputs_mapView (s : State) : s.tickInputs.mapView = s.mapView := by
  obtain ⟨inputs, pending, h⟩ := s.tickInputs_changes
  rw [h]
  rfl

theorem State.tickSpeed_mapView (s : State) : s.tickSpeed.mapView = s.mapView := by
  unfold State.tickSpeed
  repeat' split
  · rfl
  · exact s.speedAgeExpiry_mapView
  · rfl

theorem State.tick_mapView (s : State) : s.tick.mapView = s.mapView := by
  cases hr : s.pins.resetLow with
  | true => rw [State.tick_of_reset_low hr]
  | false =>
    obtain ⟨f, x, hstore, -⟩ := s.tickInputs.tickSpeed.tickCameras.tickReceive.tickVerify.tickStore_spec
    obtain ⟨o, y, hverify⟩ := s.tickInputs.tickSpeed.tickCameras.tickReceive.tickVerify_shape
    obtain ⟨u, z, hreceive⟩ := s.tickInputs.tickSpeed.tickCameras.tickReceive_shape
    obtain ⟨c, hcameras⟩ := s.tickInputs.tickSpeed.tickCameras_changes
    rw [State.tick_of_reset_high hr, hstore, hverify, hreceive, hcameras]
    simp [State.tickSpeed_mapView, State.tickInputs_mapView]

/-- Settles O10: the relation over every command (`exec_mapGood`) and over a millisecond of the part's own clock, which
leaves the map and NEAR (`State.tick_mapView`). -/
theorem everyStepKeepsMarkerMap : Obligations.EveryStepKeepsMarkerMap := by
  intro s t hs ht
  rw [State.markersGood_iff] at hs ⊢
  unfold step at ht
  split at ht
  · cases ht
    rwa [State.tick_mapView]
  · rename_i c rest _
    exact exec_mapGood c (s := s.setPending rest) hs t ht

end Sys2Proof.Machine

/-! The signals' values (R89, R96): the eight inputs, STOPPED and SLOW. -/

namespace Sys2Proof.Machine

/-! ## Inputs against their active levels (R89) -/

section InputSignals

variable (c : Conditioner) (n : Fin 8)

theorem Conditioner.signal_input : c.signal ⟨n.val, by omega⟩ = c.inputs[n].value := dif_pos n.isLt

theorem Conditioner.setInput_input (x : Input) : (c.setInput n x).inputs[n] = x := vectorSet_get_self _ _ _

theorem Input.value_iff (x : Input) : x.value = true ↔
    (x.polarity = .activeHigh ∧ x.conditioned = true) ∨ (x.polarity = .activeLow ∧ x.conditioned = false) := by
  cases h : x.polarity <;> simp [Input.value, h, Polarity.activeLevel]

/-- There are two polarities, and their active levels are opposite. -/
theorem Polarity.activeLevel_of_ne : ∀ {a b : Polarity}, a ≠ b → a.activeLevel = !b.activeLevel
  | .activeHigh, .activeLow, _ | .activeLow, .activeHigh, _ => rfl
  | .activeHigh, .activeHigh, h | .activeLow, .activeLow, h => absurd rfl h

/-- The raw level, the timer, the debounce and the mask do not enter. -/
theorem Input.value_congr {x y : Input} (hc : x.conditioned = y.conditioned) (hp : x.polarity = y.polarity) :
    x.value = y.value := by
  rw [Input.value, hc, hp, Input.value]

theorem Input.value_ne_of_conditioned {x y : Input} (hc : x.conditioned ≠ y.conditioned)
    (hp : x.polarity = y.polarity) : x.value ≠ y.value := by
  rw [Input.value, Input.value, Bool.eq_not_of_ne hc, hp]
  cases y.conditioned <;> cases y.polarity.activeLevel <;> decide

theorem Input.value_ne_of_polarity {x y : Input} (hc : x.conditioned = y.conditioned)
    (hp : x.polarity ≠ y.polarity) : x.value ≠ y.value := by
  rw [Input.value, Input.value, hc, Polarity.activeLevel_of_ne hp]
  cases y.conditioned <;> cases y.polarity.activeLevel <;> decide

end InputSignals

/-- Settles O48: a signal of an input is that input's value (`Conditioner.signal_input`), which its conditioned level and
polarity alone decide. -/
theorem inputSignalFollowsLevelAndPolarity : Obligations.InputSignalFollowsLevelAndPolarity := by
  intro c d n
  simp only [Conditioner.signal_input, Conditioner.setInput_input]
  exact ⟨Input.value_iff _, Input.value_congr, Input.value_ne_of_conditioned,
    fun polarity hp => ⟨Input.value_ne_of_polarity rfl hp, trivial⟩⟩

/-! ## STOPPED and SLOW (R96) -/

section SpeedSignals

variable (c : Conditioner)

theorem Conditioner.signal_stopped : c.signal 14 = c.stopped := rfl

theorem Conditioner.signal_slow : c.signal 15 = c.slow := rfl

theorem Conditioner.stopped_iff : c.stopped = true ↔ c.stale = false ∧ c.speed ≤ c.stopThreshold := by
  simp only [Conditioner.stopped, Bool.and_eq_true, Bool.not_eq_true', decide_eq_true_eq]

theorem Conditioner.slow_iff :
    c.slow = true ↔ c.stale = false ∧ (c.speed ≤ c.stopThreshold ∨ c.speed ≤ c.slowThreshold) := by
  simp only [Conditioner.slow, Bool.and_eq_true, Bool.or_eq_true, Bool.not_eq_true', decide_eq_true_eq]

end SpeedSignals

/-- Settles O49, from what STOPPED and SLOW at 1 each say (`Conditioner.stopped_iff`, `Conditioner.slow_iff`). -/
theorem stoppedAndSlowFromSpeed : Obligations.StoppedAndSlowFromSpeed := by
  intro c
  simp only [Conditioner.signal_stopped, Conditioner.signal_slow, ← Bool.not_eq_true, c.stopped_iff, c.slow_iff]
  refine ⟨fun hstale => by simp [hstale], fun hfresh hstop => ⟨⟨hfresh, hstop⟩, hfresh, .inl hstop⟩,
    fun hfresh hstop hslow => ⟨?_, hfresh, .inr hslow⟩, fun hfresh hstop hslow => ⟨?_, ?_⟩,
    fun ⟨hfresh, hstop⟩ => ⟨hfresh, .inl hstop⟩, c.view_get 14, c.view_get 15⟩
  all_goals omega

end Sys2Proof.Machine

/-! The Signal Conditioner's requests (R91 to R98): one equation for each way a request goes. -/

namespace Sys2Proof.Machine

/-! ## The operands (R91, R92, R94) -/

theorem inputOf_eq_none {n : Nat} (h : 7 < n) : inputOf n = none := dif_neg (by omega)

theorem inputOf_val (n : Fin 8) : inputOf n.val = some n := dif_pos n.isLt

theorem polarityOf_eq_none {b : Byte} (h : 1 < b.toNat) : polarityOf b = none := by
  rw [polarityOf, if_neg (by rintro rfl; simp at h), if_neg (by rintro rfl; simp at h)]

theorem polarityOf_number (a : Polarity) : polarityOf (byte a.number) = some a := by cases a <;> rfl

theorem virtualOf_eq_none {n : Nat} (h : n < 8 ∨ 13 < n) : virtualOf n = none := dif_neg (by omega)

theorem virtualOf_val (i : Fin 6) : virtualOf (8 + i.val) = some i := by
  rw [virtualOf, dif_pos (by omega)]
  exact congrArg some (Fin.ext (Nat.add_sub_cancel_left 8 i.val))

/-- V0 to V3 are BODY's, V4 and V5 DETECT's (R94). -/
theorem mayWriteVirtual_iff (p : Port) (i : Fin 6) : mayWriteVirtual p i = true ↔
    (p = .body ∧ 8 + i.val ≤ 11) ∨ (p = .detect ∧ 12 ≤ 8 + i.val) := by
  cases p <;> simp only [mayWriteVirtual, decide_eq_true_eq, Bool.false_eq_true, reduceCtorEq, true_and, false_and,
    or_false, false_or] <;> omega

theorem virtualPairs_bytes (pairs : List (Byte × Byte)) :
    virtualPairs (pairs.flatMap (fun x => [x.1, x.2])) = pairs.map (fun x => (x.1.toNat, x.2)) := by
  induction pairs with
  | nil => rfl
  | cons x xs ih =>
    rw [List.flatMap_cons, List.map_cons, ← ih]
    rfl

/-! ## The pairs of SET_VIRTUAL, one at a time (R94) -/

section Pairs

variable (p : Port) (v : Vector Bool 6) {n : Nat} {b : Byte} (rest : List (Nat × Byte))

theorem writeVirtuals_no_signal (h : n < 8 ∨ 13 < n) :
    writeVirtuals p ((n, b) :: rest) v = .error (.badField, 0x01#8) := by
  rw [writeVirtuals, virtualOf_eq_none h]

theorem writeVirtuals_no_level (i : Fin 6) (h : 1 < b.toNat) :
    writeVirtuals p ((8 + i.val, b) :: rest) v = .error (.badField, 0x02#8) := by
  rw [writeVirtuals, virtualOf_val, flagOf_eq_none h]

/-- A pair with its signal and level in range is written, or is refused for its port's rank. -/
theorem writeVirtuals_level (i : Fin 6) (level : Bool) : writeVirtuals p ((8 + i.val, flag level) :: rest) v =
    if (p = .body ∧ 8 + i.val ≤ 11) ∨ (p = .detect ∧ 12 ≤ 8 + i.val) then writeVirtuals p rest (v.set i level)
    else .error (.rankRefused, 0x01#8) := by
  rw [writeVirtuals, virtualOf_val, flagOf_flag, ← ite_not]
  simp only [← mayWriteVirtual_iff, Bool.not_eq_true]

/-- The reply's byte holds V0 to V5 as its bits 0 to 5, and 0 above them (R187; log 29). -/
theorem virtualLevels_bits : (∀ k : Fin 6, (byte (bitsToNat v.toList)).getLsbD k.val = v[k])
    ∧ ∀ k, 6 ≤ k → (byte (bitsToNat v.toList)).getLsbD k = false := by
  have bits := getLsbD_byte_bitsToNat v.toList (by simp)
  exact ⟨fun k => (bits k.val).trans (by simp), fun k hk => (bits k).trans (by simp [hk])⟩

end Pairs

/-! ## An input's new settings (R92) -/

/-- The debounce starts where the input is unmasked and its raw level away from its conditioned level (R90, R92). -/
theorem Input.configure_eq (x : Input) (polarity : Polarity) (debounce : Nat) (mask : Bool) :
    x.configure polarity debounce mask =
      if mask = true ∨ x.raw = x.conditioned then
        ⟨x.raw, x.conditioned, x.settled, polarity, debounce, mask, none⟩
      else if debounce = 0 then ⟨x.raw, x.raw, true, polarity, 0, mask, none⟩
      else ⟨x.raw, x.conditioned, x.settled, polarity, debounce, mask, some debounce⟩ := by
  unfold Input.configure Input.startDebounce Input.take
  by_cases hm : mask = true
  · simp [hm]
  · by_cases hd : debounce = 0 <;> simp [hm, hd]

/-! ## The requests -/

section Requests

variable (s : State) (p : Port) {r : Request}

theorem exec_speed_of_reaches (h : s.Reaches p .speed r) : exec (.speed p) s =
    if 1500 < r.num 0 2 then .next (s.replied p r .badField 0x01#8 [])
    else .next ((s.setScn { s.scn with speed := r.num 0 2, stale := false, age := some 500 }).replied p r
      .done 0#8 []) := by
  simp only [exec, execSpeed, serve_of_reaches s p h, State.taken_badField, State.taken_scn, State.taken_setScn,
    State.taken_done]

/-- The check of the two thresholds (R98). -/
theorem bandsFailure_eq (stop slow : Nat) : bandsFailure stop slow =
    if 1499 < stop then some 0x01#8 else if slow < 1 ∨ 1500 < slow ∨ slow ≤ stop then some 0x02#8 else none := by
  unfold bandsFailure
  grind

theorem exec_setSpeedBands_failing (h : s.Reaches p .setSpeedBands r) {field : Byte}
    (hf : bandsFailure (r.num 0 2) (r.num 2 2) = some field) :
    exec (.setSpeedBands p) s = .next (s.replied p r .badField field []) := by
  simp only [exec, execSetSpeedBands, serve_of_reaches s p h, hf, State.taken_badField]

theorem exec_setSpeedBands_passing (h : s.Reaches p .setSpeedBands r)
    (hf : bandsFailure (r.num 0 2) (r.num 2 2) = none) : exec (.setSpeedBands p) s =
    .next ((s.setScn { s.scn with stopThreshold := r.num 0 2, slowThreshold := r.num 2 2 }).replied p r .done 0#8
      (Conditioner.speedBytes { s.scn with stopThreshold := r.num 0 2, slowThreshold := r.num 2 2 })) := by
  simp only [exec, execSetSpeedBands, serve_of_reaches s p h, hf, State.taken_scn, State.taken_setScn, State.taken_done]

/-! SET_INPUT, field by field in the order of R92. -/

theorem exec_setInput_no_input (h : s.Reaches p .setInput r) (hn : inputOf (r.arg 0).toNat = none) :
    exec (.setInput p) s = .next (s.replied p r .badField 0x01#8 []) := by
  simp only [exec, execSetInput, serve_of_reaches s p h, hn, State.taken_badField]

section SomeInput

variable {n : Fin 8} (hn : inputOf (r.arg 0).toNat = some n)

include hn

theorem exec_setInput_no_polarity (h : s.Reaches p .setInput r) (hp : polarityOf (r.arg 1) = none) :
    exec (.setInput p) s = .next (s.replied p r .badField 0x02#8 []) := by
  simp only [exec, execSetInput, serve_of_reaches s p h, hn, hp, State.taken_badField]

variable {polarity : Polarity} (hp : polarityOf (r.arg 1) = some polarity)

include hp

theorem exec_setInput_no_debounce (h : s.Reaches p .setInput r)
    (hd : 250 < (r.arg 2).toNat ∨ (r.arg 2).toNat % 10 ≠ 0) :
    exec (.setInput p) s = .next (s.replied p r .badField 0x03#8 []) := by
  simp only [exec, execSetInput, serve_of_reaches s p h, hn, hp, if_pos hd, State.taken_badField]

variable (hd : ¬ (250 < (r.arg 2).toNat ∨ (r.arg 2).toNat % 10 ≠ 0))

include hd

theorem exec_setInput_no_mask (h : s.Reaches p .setInput r) (hm : flagOf (r.arg 3) = none) :
    exec (.setInput p) s = .next (s.replied p r .badField 0x04#8 []) := by
  simp only [exec, execSetInput, serve_of_reaches s p h, hn, hp, if_neg hd, hm, State.taken_badField]

theorem exec_setInput_accepted (h : s.Reaches p .setInput r) {mask : Bool} (hm : flagOf (r.arg 3) = some mask)
    {y : Input} (hy : y = s.scn.inputs[n].configure polarity (r.arg 2).toNat mask) :
    exec (.setInput p) s = .next ((s.setScn (s.scn.setInput n y)).replied p r .done 0#8 y.bytes) := by
  subst hy
  simp only [exec, execSetInput, serve_of_reaches s p h, hn, hp, if_neg hd, hm, State.taken_scn, State.taken_setScn,
    State.taken_done]

end SomeInput

/-! SET_VIRTUAL. -/

theorem exec_setVirtual_no_count (h : s.Reaches p .setVirtual r)
    (hc : (r.arg 0).toNat < 1 ∨ 4 < (r.arg 0).toNat) :
    exec (.setVirtual p) s = .next (s.replied p r .badField 0x0F#8 []) := by
  simp only [exec, execSetVirtual, serve_of_reaches s p h, if_pos hc, State.taken_badField]

theorem exec_setVirtual_failing (h : s.Reaches p .setVirtual r)
    (hc : ¬ ((r.arg 0).toNat < 1 ∨ 4 < (r.arg 0).toNat)) {result : ResultCode} {field : Byte}
    (hw : writeVirtuals p (virtualPairs (r.payload.drop 1)) s.scn.virtuals = .error (result, field)) :
    exec (.setVirtual p) s = .next (s.replied p r result field []) := by
  simp only [exec, execSetVirtual, serve_of_reaches s p h, if_neg hc, State.taken_scn, hw, State.taken_answer]

theorem exec_setVirtual_accepted (h : s.Reaches p .setVirtual r)
    (hc : ¬ ((r.arg 0).toNat < 1 ∨ 4 < (r.arg 0).toNat)) {v : Vector Bool 6}
    (hw : writeVirtuals p (virtualPairs (r.payload.drop 1)) s.scn.virtuals = .ok v) : exec (.setVirtual p) s =
    .next ((s.setScn { s.scn with virtuals := v }).replied p r .done 0#8 [byte (bitsToNat v.toList)]) := by
  simp only [exec, execSetVirtual, serve_of_reaches s p h, if_neg hc, State.taken_scn, hw, State.taken_setScn,
    State.taken_done]

end Requests

/-! ## The speed-age timer (R97) -/

theorem State.speedAgeExpiry_stopped {s : State} (h : s.scn.age = none) : s.speedAgeExpiry = s :=
  if_pos (Option.isNone_iff_eq_none.mpr h)

theorem State.speedAgeExpiry_running {s : State} (h : s.scn.age ≠ none) : s.speedAgeExpiry =
    (s.setScn { s.scn with stale := true, age := none }).raiseAll .speedStale 17 0 :=
  if_neg (mt Option.isNone_iff_eq_none.mp h)

/-- Settles O50, by one equation for each way a request goes. -/
theorem signalRequestsByRule : Obligations.SignalRequestsByRule := by
  refine fun s r => ⟨?speed, ?bands, ?input, ?virtual, virtualPairs_bytes, ?pairs,
    fun h => congrArg Host.Outcome.next (State.speedAgeExpiry_stopped h),
    fun h => congrArg Host.Outcome.next (State.speedAgeExpiry_running h)⟩
  case speed =>
    rintro h v rfl
    rw [exec_speed_of_reaches s .body h]
    exact ⟨fun fails => if_pos fails, fun fits => if_neg (Nat.not_lt.mpr fits)⟩
  case bands =>
    rintro h a b rfl rfl
    refine ⟨fun ha => exec_setSpeedBands_failing s .body h ?_, fun ha hb => exec_setSpeedBands_failing s .body h ?_,
      fun ha hb hab => exec_setSpeedBands_passing s .body h ?_⟩
    · exact (bandsFailure_eq _ _).trans (if_pos ha)
    · exact (bandsFailure_eq _ _).trans ((if_neg (Nat.not_lt.mpr ha)).trans (if_pos hb))
    · exact (bandsFailure_eq _ _).trans ((if_neg (Nat.not_lt.mpr ha)).trans
        (if_neg (by simp only [Request.num]; omega)))
  case input =>
    refine fun h => ⟨fun h7 => exec_setInput_no_input s .body h (inputOf_eq_none h7), fun n hn => ?_⟩
    replace hn := hn ▸ inputOf_val n
    refine ⟨fun h1 => exec_setInput_no_polarity s .body hn h (polarityOf_eq_none h1), fun polarity hp => ?_⟩
    replace hp := hp ▸ polarityOf_number polarity
    refine ⟨exec_setInput_no_debounce s .body hn hp h, fun h250 h10 => ?_⟩
    have hd : ¬ (250 < (r.arg 2).toNat ∨ (r.arg 2).toNat % 10 ≠ 0) := by omega
    refine ⟨fun h1 => exec_setInput_no_mask s .body hn hp hd h (flagOf_eq_none h1), ?_⟩
    rintro mask hm x y rfl hy
    exact exec_setInput_accepted s .body hn hp hd h (hm ▸ flagOf_flag mask)
      (hy.trans (Input.configure_eq _ _ _ _).symm)
  case virtual =>
    refine fun p h => ⟨exec_setVirtual_no_count s p h, fun h1 h4 => ?_⟩
    have hc : ¬ ((r.arg 0).toNat < 1 ∨ 4 < (r.arg 0).toNat) := by omega
    exact ⟨fun result field hw => exec_setVirtual_failing s p h hc hw,
      fun v hw => ⟨_, (virtualLevels_bits v).1, (virtualLevels_bits v).2, exec_setVirtual_accepted s p h hc hw⟩⟩
  case pairs =>
    refine fun p v => ⟨rfl, fun n b rest => ⟨writeVirtuals_no_signal p v rest, ?_⟩⟩
    rintro i rfl
    refine ⟨writeVirtuals_no_level p v rest i, ?_⟩
    rintro level rfl
    rw [writeVirtuals_level]
    exact ⟨fun may => if_pos may, fun mayNot => if_neg mayNot⟩

end Sys2Proof.Machine

/-! Debounce (R90, R93) and the wake-pending set (R100): the input's own rule, case by case, and what its change leaves
of the Signal Conditioner. -/

namespace Sys2Proof.Machine

/-! ## A raw change of one input (R90, R91, R93) -/

section RawChange

variable {x : Input} {level : Bool}

theorem Input.rawChange_same (h : level = x.raw) : x.rawChange level = x := if_pos h

theorem Input.rawChange_settled (h : level ≠ x.raw) (hs : x.settled = true) : x.rawChange level =
    if x.mask then { x with raw := level } else Input.startDebounce { x with raw := level } := by
  rw [Input.rawChange, if_neg h, if_neg (by simp [hs])]

/-- An unsettled input restarts the debounce of R93. -/
theorem Input.rawChange_unsettled (h : level ≠ x.raw) (hs : x.settled = false) (ht : x.timer ≠ none) :
    x.rawChange level = { x with raw := level, timer := some x.debounce } := by
  obtain ⟨a, ha⟩ := Option.ne_none_iff_exists'.mp ht
  rw [Input.rawChange, if_neg h, if_pos hs, ha]

/-- A settled input that a debounce takes at once stays settled. -/
theorem Input.startDebounce_settled {y : Input} (hs : y.settled = true) : y.startDebounce =
    if y.raw = y.conditioned then { y with timer := none }
    else if y.debounce = 0 then { y with conditioned := y.raw, timer := none }
    else { y with timer := some y.debounce } := by
  rw [Input.startDebounce, Input.take, ← hs]

theorem Input.startDebounce_keeps (y : Input) :
    y.startDebounce.raw = y.raw ∧ y.startDebounce.mask = y.mask := by
  unfold Input.startDebounce Input.take
  split_ifs <;> exact ⟨rfl, rfl⟩

/-- A raw change puts the raw level in place and leaves the mask. -/
theorem Input.rawChange_keeps (x : Input) (level : Bool) :
    (x.rawChange level).raw = level ∧ (x.rawChange level).mask = x.mask := by
  by_cases h : level = x.raw
  · rw [Input.rawChange_same h, h]
    exact ⟨rfl, rfl⟩
  · cases hs : x.settled with
    | true =>
      rw [Input.rawChange_settled h hs]
      split_ifs
      · exact ⟨rfl, rfl⟩
      · exact Input.startDebounce_keeps _
    | false =>
      cases ht : x.timer with
      | none => simp [Input.rawChange, h, hs, ht]
      | some a =>
        rw [Input.rawChange_unsettled h hs (by simp [ht])]
        exact ⟨rfl, rfl⟩

end RawChange

/-! ## What a changed input leaves (R90, R100) -/

section ChangedInput

variable (s : State) (n : Fin 8)

/-- Only the inputs and the wake-pending set can change. -/
theorem State.changeInput_frame (y : Input) : s.changeInput n y = s.setScn { s.scn with
    inputs := (s.changeInput n y).scn.inputs, wakePending := (s.changeInput n y).scn.wakePending } := by
  obtain ⟨inputs, pending, h⟩ := s.changeInput_changes n y
  rw [h]
  rfl

/-- An input put back as it is changes nothing. -/
theorem State.changeInput_self : s.changeInput n s.scn.inputs[n] = s := by
  have same : s.scn.setInput n s.scn.inputs[n] = s.scn := by simp [Conditioner.setInput]
  rw [State.changeInput_same s rfl, same, State.setScn_self]

/-- In DORMANT a moved, unmasked input joins the wake-pending set last, once (R100). -/
theorem State.changeInput_wakePending (y : Input) : (s.changeInput n y).scn.wakePending =
    if y.conditioned ≠ s.scn.inputs[n].conditioned ∧ s.stc.part = .dormant ∧ y.mask = false
      ∧ n ∉ s.scn.wakePending then s.scn.wakePending ++ [n] else s.scn.wakePending := by
  by_cases h : y.conditioned = s.scn.inputs[n].conditioned
  · rw [State.changeInput_same s h, if_neg fun hmoved => hmoved.1 h]
    rfl
  · rw [State.changeInput_moved s h, Conditioner.noteWake]
    simp only [ne_eq, h, not_false_eq_true, true_and]
    exact (apply_ite (fun c : Conditioner => c.wakePending) _ _ _)

theorem State.debounceExpiry_stopped (h : s.scn.inputs[n].timer = none ∨ s.pins.resetLow = true) :
    s.debounceExpiry n = s := if_pos (h.imp_left Option.isNone_iff_eq_none.mpr)

theorem State.debounceExpiry_running (ht : s.scn.inputs[n].timer ≠ none) (hr : s.pins.resetLow = false) :
    s.debounceExpiry n = s.changeInput n s.scn.inputs[n].take := if_neg (by simpa [hr] using ht)

end ChangedInput

/-- Settles O51: each event puts one changed input in place (`State.changeInput_input`, `State.changeInput_wakePending`),
and the input's own rule says which (`Input.rawChange_settled`, `Input.rawChange_unsettled`). -/
theorem inputsAreDebounced : Obligations.InputsAreDebounced := by
  rintro n level s x rfl
  have changed : ∀ y : Input, (s.changeInput n y).scn.inputs[n] = y ∧
      ∀ m : Fin 8, m ≠ n → (s.changeInput n y).scn.inputs[m] = s.scn.inputs[m] := fun y =>
    ⟨(s.changeInput_input n n y).trans (if_pos rfl), fun m hm => (s.changeInput_input n m y).trans (if_neg hm)⟩
  refine ⟨?_, fun h => ?_, fun ht hr => ?_⟩
  · obtain ⟨placed, others⟩ := changed (s.scn.inputs[n].rawChange level)
    obtain ⟨raw, mask⟩ := s.scn.inputs[n].rawChange_keeps level
    refine ⟨s.inputRawChange n level, rfl, s.changeInput_frame n _, ?_, others, fun h => ?_, fun h hs hm => ?_,
      fun h hs hm => ?_, fun h hs ht => placed.trans (Input.rawChange_unsettled h hs ht), ?_⟩
    · rw [State.inputRawChange, placed, raw]
    · rw [State.inputRawChange, Input.rawChange_same h, State.changeInput_self]
    · rw [State.inputRawChange, placed, Input.rawChange_settled h hs, if_pos hm]
    · rw [State.inputRawChange, placed, Input.rawChange_settled h hs, if_neg (Bool.eq_false_iff.mp hm)]
      exact Input.startDebounce_settled hs
    · rw [State.inputRawChange, placed, State.changeInput_wakePending, mask]
  · exact congrArg Host.Outcome.next (s.debounceExpiry_stopped n h)
  · obtain ⟨placed, others⟩ := changed s.scn.inputs[n].take
    refine ⟨s.debounceExpiry n, rfl, ?_⟩
    rw [s.debounceExpiry_running n ht hr]
    exact ⟨s.changeInput_frame n _, placed, others, s.changeInput_wakePending n _⟩

end Sys2Proof.Machine

/-! One marker item (R107 to R109): the first field out of range, the candidate for eviction, and what each way of
placing a marker leaves in an ascending map. -/

namespace Sys2Proof.Machine

/-! ## The fields of an item (R107) -/

/-- The field of this id (section 11.1.5) is out of the range R107 gives it. -/
abbrev MarkerItem.OutOfRange (x : MarkerItem) (id : Nat) : Prop :=
  (id = 1 ∧ 255 < x.track) ∨ (id = 2 ∧ 3 < x.camera) ∨ (id = 3 ∧ 1279 < x.boxX) ∨ (id = 4 ∧ 959 < x.boxY)
  ∨ (id = 5 ∧ (x.boxW < 1 ∨ 1280 < x.boxW ∨ 1280 < x.boxX + x.boxW))
  ∨ (id = 6 ∧ (x.boxH < 1 ∨ 960 < x.boxH ∨ 960 < x.boxY + x.boxH)) ∨ (id = 7 ∧ 3 < x.cls)
  ∨ (id = 8 ∧ 2000 < x.range) ∨ (id = 9 ∧ (x.ttl < 1 ∨ 60 < x.ttl))

section Fields

variable {x : MarkerItem}

theorem MarkerItem.OutOfRange.id_bounds {id : Nat} (h : x.OutOfRange id) : 1 ≤ id ∧ id < 1 + 9 := by
  omega

theorem find?_cons_map {α β : Type} (p : α → Prop) [DecidablePred p] (f : α → β) (a : α) (as : List α) :
    ((a :: as).find? (p ·)).map f = if p a then some (f a) else (as.find? (p ·)).map f := by
  by_cases h : p a <;> simp [h]

/-- The check of an item looks for the first id out of range. -/
theorem MarkerItem.failure_eq_find? (x : MarkerItem) :
    x.failure = ((List.range' 1 9).find? (fun id => decide (x.OutOfRange id))).map byte := by
  simp only [List.range', find?_cons_map, MarkerItem.OutOfRange]
  simp [MarkerItem.failure, byte]

theorem MarkerItem.failure_of_first {id : Nat} (h : x.OutOfRange id) (first : ∀ j, j < id → ¬ x.OutOfRange j) :
    x.failure = some (byte id) := by
  have found : (List.range' 1 9).find? (fun id => decide (x.OutOfRange id)) = some id :=
    List.find?_range'_eq_some.mpr ⟨decide_eq_true h, List.mem_range'_1.mpr h.id_bounds,
      fun j _ hj => by simpa only [Bool.not_eq_true', decide_eq_false_iff_not] using first j hj⟩
  rw [MarkerItem.failure_eq_find?, found, Option.map_some]

theorem MarkerItem.failure_of_none (h : ∀ id, ¬ x.OutOfRange id) : x.failure = none := by
  rw [MarkerItem.failure_eq_find?, Option.map_eq_none_iff, List.find?_eq_none]
  exact fun id _ => by simpa only [decide_eq_true_eq] using h id

theorem markerClassOf_number (cls : MarkerClass) : markerClassOf cls.number = some cls := by cases cls <;> rfl

/-- The numbers of the classes are 0 to 3. -/
theorem exists_class_number {n : Nat} (h : n ≤ 3) : ∃ cls : MarkerClass, cls.number = n :=
  match n, h with
  | 0, _ => ⟨.pedestrian, rfl⟩
  | 1, _ => ⟨.cyclist, rfl⟩
  | 2, _ => ⟨.vehicle, rfl⟩
  | 3, _ => ⟨.object, rfl⟩

end Fields

/-! ## Taking an item: its checks, then its place -/

section Taking

variable {x : MarkerItem} (present : Vector Bool 4) (threshold : Nat) (ms : List Marker)

theorem takeItem_of_first {id : Nat} (h : x.OutOfRange id) (first : ∀ j, j < id → ¬ x.OutOfRange j) :
    takeItem present threshold ms x = (ms, .badField (byte id)) := by
  rw [takeItem, MarkerItem.failure_of_first h first]

theorem takeItem_of_none (h : ∀ id, ¬ x.OutOfRange id) {k : Fin 4} (hk : x.camera = k.val) {cls : MarkerClass}
    (hcls : cls.number = x.cls) : takeItem present threshold ms x =
      if present[k] = false then (ms, .cameraAbsent) else placeMarker ms (x.marker k cls threshold) := by
  rw [takeItem, MarkerItem.failure_of_none h, hk, cameraOf_val, ← hcls, markerClassOf_number]

end Taking

/-! ## The candidate for eviction (R109) -/

section Candidate

variable {ms : List Marker}

theorem evictsBefore_iff (a b : Marker) : evictsBefore a b = true ↔
    b.range < a.range ∨ (a.range = b.range ∧ (b.age < a.age ∨ (a.age = b.age ∧ a.track < b.track))) := by
  simp only [evictsBefore, Bool.or_eq_true, Bool.and_eq_true, decide_eq_true_eq]

theorem evictionCandidate_eq_none (h : evictionCandidate ms = none) : ms = [] := by
  cases ms with
  | nil => rfl
  | cons x xs =>
    unfold evictionCandidate at h
    split at h
    · cases h
    · split at h <;> cases h

/-- No marker of the map goes before the candidate. -/
theorem evictionCandidate_first {c : Marker} (h : evictionCandidate ms = some c) :
    ∀ z ∈ ms, ¬ evictsBefore z c = true := by
  induction ms generalizing c with
  | nil => cases h
  | cons x xs ih =>
    simp only [evictsBefore_iff] at ih
    unfold evictionCandidate at h
    simp only [List.forall_mem_cons, evictsBefore_iff]
    split at h
    · rename_i hnone
      cases h
      rw [evictionCandidate_eq_none hnone]
      exact ⟨by omega, List.forall_mem_nil _⟩
    · rename_i d hd
      split_ifs at h with hx <;> cases h <;> rw [evictsBefore_iff] at hx
      · exact ⟨by omega, fun z hz => by have := ih hd z hz; omega⟩
      · exact ⟨hx, ih hd⟩

variable (hasc : (ms.map Marker.track).Pairwise (· < ·))

include hasc

/-- In an ascending map a track names one marker (R104). -/
theorem eq_of_track_eq {a b : Marker} (ha : a ∈ ms) (hb : b ∈ ms) (h : a.track = b.track) : a = b :=
  List.inj_on_of_nodup_map (hasc.imp Nat.ne_of_lt) ha hb h

theorem evictionCandidate_of_first {y : Marker} (hy : y ∈ ms) (first : ∀ z ∈ ms, z.range < y.range
    ∨ (z.range = y.range ∧ (z.age < y.age ∨ (z.age = y.age ∧ y.track ≤ z.track)))) :
    evictionCandidate ms = some y := by
  cases hc : evictionCandidate ms with
  | none =>
    rw [evictionCandidate_eq_none hc] at hy
    cases hy
  | some c =>
    have hmem := evictionCandidate_mem hc
    have hbefore := evictionCandidate_first hc y hy
    have hafter := first c hmem
    rw [evictsBefore_iff] at hbefore
    rw [eq_of_track_eq hasc hmem hy (by omega)]

end Candidate

/-! ## The markers of an ascending map after a change (R108, R109) -/

section Members

variable {ms : List Marker} (hasc : (ms.map Marker.track).Pairwise (· < ·)) {m y z : Marker}

theorem putMarker_length_of_new (h : ∀ x ∈ ms, x.track ≠ m.track) :
    (putMarker ms m).length = ms.length + 1 := by
  induction ms with
  | nil => rfl
  | cons x xs ih =>
    obtain ⟨hx, hxs⟩ := List.forall_mem_cons.mp h
    rw [putMarker, if_neg hx.symm]
    split_ifs
    · rfl
    · rw [List.length_cons, ih hxs, List.length_cons]

theorem dropMarker_ascending (h : (ms.map Marker.track).Pairwise (· < ·)) (track : Nat) :
    ((dropMarker ms track).map Marker.track).Pairwise (· < ·) :=
  h.sublist (List.filter_sublist.map Marker.track)

theorem mem_dropMarker {track : Nat} : z ∈ dropMarker ms track ↔ z ∈ ms ∧ z.track ≠ track := by
  rw [dropMarker, List.mem_filter, decide_eq_true_eq]

include hasc

/-- The marker put in, and every other that was not of its track. -/
theorem mem_putMarker_iff : z ∈ putMarker ms m ↔ z = m ∨ (z ∈ ms ∧ z.track ≠ m.track) := by
  induction ms with
  | nil => simp [putMarker]
  | cons x xs ih =>
    rw [List.map_cons, List.pairwise_cons, List.forall_mem_map] at hasc
    obtain ⟨hx, hxs⟩ := hasc
    have above : z ∈ xs → x.track < z.track := hx z
    rw [putMarker]
    split_ifs with hlt heq
    · simp only [List.mem_cons]
      grind
    · simp only [List.mem_cons]
      grind
    · simp only [List.mem_cons, ih hxs]
      grind

theorem track_ne_iff_of_mem (hy : y ∈ ms) (hz : z ∈ ms) : z.track ≠ y.track ↔ z ≠ y :=
  not_congr ⟨eq_of_track_eq hasc hz hy, congrArg Marker.track⟩

/-- Without the marker of its track, the map is the map with that marker erased. -/
theorem dropMarker_eq_erase (hy : y ∈ ms) : dropMarker ms y.track = ms.erase y := by
  have distinct : (ms.map Marker.track).Nodup := hasc.imp Nat.ne_of_lt
  rw [(distinct.of_map _).erase_eq_filter]
  exact List.filter_congr fun z hz => by rw [Bool.eq_iff_iff, decide_eq_true_eq, bne_iff_ne,
    track_ne_iff_of_mem hasc hy hz]

theorem dropMarker_length (hy : y ∈ ms) : (dropMarker ms y.track).length = ms.length - 1 := by
  rw [dropMarker_eq_erase hasc hy, List.length_erase_of_mem hy]

end Members

/-! ## Placing a marker (R108, R109) -/

section Placing

variable {ms : List Marker} {m : Marker}

theorem placeMarker_of_mem (h : ∃ y ∈ ms, y.track = m.track) : placeMarker ms m = (putMarker ms m, .updated) := by
  rw [placeMarker, if_pos (findMarker_isSome.mpr h)]

theorem findMarker_isSome_ne_true (h : ∀ y ∈ ms, y.track ≠ m.track) : ¬ (findMarker ms m.track).isSome = true :=
  fun hfound =>
    have ⟨y, hy, ht⟩ := findMarker_isSome.mp hfound
    h y hy ht

theorem placeMarker_of_room (h : ∀ y ∈ ms, y.track ≠ m.track) (hroom : ms.length < 16) :
    placeMarker ms m = (putMarker ms m, .inserted) := by
  rw [placeMarker, if_neg (findMarker_isSome_ne_true h), if_pos hroom]

/-! In a full map the new marker stands against the candidate alone (R109). -/

theorem placeMarker_of_nearer (h : ∀ y ∈ ms, y.track ≠ m.track) (hfull : ms.length = 16) {c : Marker}
    (hc : evictionCandidate ms = some c) (hrange : m.range < c.range) :
    placeMarker ms m = (putMarker (dropMarker ms c.track) m, .evicted c.track) := by
  rw [placeMarker, if_neg (findMarker_isSome_ne_true h), if_neg (by omega), hc]
  exact if_pos hrange

theorem placeMarker_of_not_nearer (h : ∀ y ∈ ms, y.track ≠ m.track) (hfull : ms.length = 16) {c : Marker}
    (hc : evictionCandidate ms = some c) (hrange : c.range ≤ m.range) : placeMarker ms m = (ms, .full) := by
  rw [placeMarker, if_neg (findMarker_isSome_ne_true h), if_neg (by omega), hc]
  exact if_neg (Nat.not_lt.mpr hrange)

variable (hasc : (ms.map Marker.track).Pairwise (· < ·))

include hasc

theorem placeMarker_ascending : ((placeMarker ms m).1.map Marker.track).Pairwise (· < ·) := by
  unfold placeMarker
  split_ifs
  · exact putMarker_ascending hasc
  · exact putMarker_ascending hasc
  · split
    · split_ifs
      · exact putMarker_ascending (dropMarker_ascending hasc _)
      · exact hasc
    · exact hasc

theorem takeItem_ascending (present : Vector Bool 4) (threshold : Nat) (x : MarkerItem) :
    ((takeItem present threshold ms x).1.map Marker.track).Pairwise (· < ·) := by
  unfold takeItem
  split
  · exact hasc
  · split
    · split_ifs
      · exact hasc
      · exact placeMarker_ascending hasc
    · exact hasc

/-- The map with one marker evicted for the new one (R109). -/
theorem putMarker_dropMarker (hnew : ∀ y ∈ ms, y.track ≠ m.track) {y : Marker} (hy : y ∈ ms) :
    (putMarker (dropMarker ms y.track) m).length = ms.length
    ∧ ∀ z, z ∈ putMarker (dropMarker ms y.track) m ↔ z = m ∨ (z ∈ ms ∧ z ≠ y) := by
  have hroom := List.length_pos_of_mem hy
  refine ⟨?_, fun z => ?_⟩
  · rw [putMarker_length_of_new fun x hx => hnew x (mem_dropMarker.mp hx).1, dropMarker_length hasc hy]
    omega
  · rw [mem_putMarker_iff (dropMarker_ascending hasc _), mem_dropMarker, and_assoc]
    refine or_congr_right (and_congr_right fun hz => ?_)
    rw [track_ne_iff_of_mem hasc hy hz]
    exact and_iff_left (hnew z hz)

end Placing

/-- Settles O53: the first field out of range (`MarkerItem.failure_of_first`), then the four ways a marker is placed,
the candidate being the one marker that no other goes before (`evictionCandidate_of_first`). -/
theorem markerItemsByRule : Obligations.MarkerItemsByRule := by
  intro present threshold ms x bad hasc hcount hbad
  obtain rfl : bad = x.OutOfRange := funext fun id => propext (hbad id)
  refine ⟨fun id => takeItem_of_first present threshold ms, fun passes k hk => ⟨fun absent => ?_, ?_⟩⟩
  · have hcls : x.cls ≤ 3 := by
      have := passes 7
      omega
    obtain ⟨cls, hcls⟩ := exists_class_number hcls
    rw [takeItem_of_none present threshold ms passes hk hcls, if_pos absent]
  · rintro fitted cls m out after hcls rfl htake
    rw [takeItem_of_none present threshold ms passes hk hcls, if_neg (by simp [fitted])] at htake
    refine ⟨?ascending, fun hin => ?updated, fun hnew hroom => ?inserted, fun hnew hfull y hy first => ?full⟩
    case ascending =>
      obtain rfl : _ = after := congrArg Prod.fst htake
      exact placeMarker_ascending hasc
    case updated =>
      rw [placeMarker_of_mem hin] at htake
      cases htake
      obtain ⟨y, hy, ht⟩ := hin
      exact ⟨rfl, putMarker_length_of_mem hasc hy ht, fun z => mem_putMarker_iff hasc⟩
    case inserted =>
      rw [placeMarker_of_room hnew hroom] at htake
      cases htake
      exact ⟨rfl, putMarker_length_of_new hnew, fun z => (mem_putMarker_iff hasc).trans
        (or_congr_right (and_iff_left_of_imp (hnew z)))⟩
    case full =>
      have candidate := evictionCandidate_of_first hasc hy first
      refine ⟨fun nearer => ?_, fun farther => ?_⟩
      · rw [placeMarker_of_nearer hnew hfull candidate nearer] at htake
        cases htake
        exact ⟨rfl, hfull ▸ putMarker_dropMarker hasc hnew hy⟩
      · rw [placeMarker_of_not_nearer hnew hfull candidate farther] at htake
        cases htake
        exact ⟨rfl, rfl⟩

end Sys2Proof.Machine

/-! The Marker Map's requests (R106, R110, R111, R114): their items, the onsets of MARK, and one equation for each way a
request goes. -/

namespace Sys2Proof.Machine

/-! ## Items and onsets (R106, R115, section 11.1.5) -/

/-- The item at this place among items of 15 bytes each (section 11.1.5). -/
def itemAt (bs : List Byte) (i : Nat) : MarkerItem :=
  let at_ (k w : Nat) : Nat := fromLe ((bs.drop (15 * i + k)).take w)
  ⟨at_ 0 2, at_ 2 1, at_ 3 2, at_ 5 2, at_ 7 2, at_ 9 2, at_ 11 1, at_ 12 2, at_ 14 1⟩

theorem itemAt_drop (bs : List Byte) (i : Nat) : itemAt (bs.drop 15) i = itemAt bs (i + 1) := by
  have offset (k : Nat) : 15 + (15 * i + k) = 15 * (i + 1) + k := by omega
  simp only [itemAt, List.drop_drop, offset]

theorem readItems_eq (n : Nat) (bs : List Byte) : readItems n bs = (List.range n).map (itemAt bs) := by
  induction n generalizing bs with
  | zero => rfl
  | succ n ih =>
    have later : itemAt (bs.drop 15) = itemAt bs ∘ Nat.succ := funext (itemAt_drop bs)
    rw [readItems, ih, List.range_succ_eq_map, List.map_cons, List.map_map, later]
    simp [itemAt]

theorem findMarker_eq_some {ms : List Marker} (hasc : (ms.map Marker.track).Pairwise (· < ·)) {track : Nat}
    {m : Marker} : findMarker ms track = some m ↔ m ∈ ms ∧ m.track = track := by
  have sound {a : Marker} (ha : findMarker ms track = some a) : a ∈ ms ∧ a.track = track :=
    have matching : decide (a.track = track) = true :=
      List.find?_some (p := fun x : Marker => decide (x.track = track)) ha
    ⟨List.mem_of_find?_eq_some ha, of_decide_eq_true matching⟩
  refine ⟨sound, fun ⟨hm, ht⟩ => ?_⟩
  obtain ⟨a, ha⟩ := Option.isSome_iff_exists.mp (findMarker_isSome.mpr ⟨m, hm, ht⟩)
  obtain ⟨hmem, htrack⟩ := sound ha
  rw [ha, eq_of_track_eq hasc hmem hm (htrack.trans ht.symm)]

/-- In an ascending map a track is near when its one marker is (R115). -/
theorem trackNear_iff {ms : List Marker} (hasc : (ms.map Marker.track).Pairwise (· < ·)) {track : Nat} :
    trackNear ms track = true ↔ ∃ m ∈ ms, m.track = track ∧ m.near = true := by
  simp only [trackNear, Option.any_eq_true, findMarker_eq_some hasc, and_assoc]

/-- One item after another, each on the map that the items before it left. -/
theorem takeItems_cons {present : Vector Bool 4} {threshold : Nat} {ms ms' ms'' : List Marker} {x : MarkerItem}
    {xs : List MarkerItem} {out : MarkOutcome} {outs : List (Nat × MarkOutcome)} {onsets : List Nat}
    (hx : takeItem present threshold ms x = (ms', out))
    (hxs : takeItems present threshold xs ms' = (ms'', outs, onsets)) :
    takeItems present threshold (x :: xs) ms = (ms'', (x.track, out) :: outs,
      if trackNear ms' x.track = true ∧ ¬ trackNear ms x.track = true then x.track :: onsets else onsets) := by
  simp only [takeItems, hx, hxs, Bool.and_eq_true, Bool.not_eq_true', Bool.not_eq_true]

/-! ## The requests -/

section Requests

variable (s : State) (p : Port) {r : Request}

@[simp] theorem State.taken_raiseNear (ts : List Nat) :
    ∀ s : State, (s.taken p).raiseNear ts = (s.raiseNear ts).taken p := by
  induction ts with
  | nil => exact fun _ => rfl
  | cons t ts ih =>
    intro s
    rw [State.raiseNear, State.taken_raiseAll, ih, State.raiseNear]

theorem exec_mark_no_count (h : s.Reaches p .mark r) (hn : (r.arg 0).toNat < 1 ∨ 4 < (r.arg 0).toNat) :
    exec (.mark p) s = .next (s.replied p r .badField 0x0F#8 []) := by
  simp only [exec, execMark, serve_of_reaches s p h, if_pos hn, State.taken_badField]

theorem exec_mark_taken (h : s.Reaches p .mark r) (hn : ¬ ((r.arg 0).toNat < 1 ∨ 4 < (r.arg 0).toNat))
    {ms : List Marker} {outs : List (Nat × MarkOutcome)} {onsets : List Nat}
    (ht : takeItems s.cams.presence s.mkm.threshold (readItems (r.arg 0).toNat (r.payload.drop 1)) s.mkm.markers
      = (ms, outs, onsets)) : exec (.mark p) s =
    .next (((s.setMarkers ms).raiseNear onsets).replied p r .done 0#8 (markValues ms.length outs)) := by
  simp only [exec, execMark, serve_of_reaches s p h, if_neg hn, State.taken_cams, State.taken_mkm, ht,
    State.taken_setMarkers, State.taken_raiseNear, State.taken_done]

theorem exec_unmark_of_reaches (h : s.Reaches p .unmark r) : exec (.unmark p) s =
    if 255 < r.num 0 2 then .next (s.replied p r .badField 0x01#8 [])
    else .next ((s.setMarkers (dropMarker s.mkm.markers (r.num 0 2))).replied p r .done 0#8
      [flag (findMarker s.mkm.markers (r.num 0 2)).isSome, byte (dropMarker s.mkm.markers (r.num 0 2)).length]) := by
  simp only [exec, execUnmark, serve_of_reaches s p h, State.taken_mkm, State.taken_badField, State.taken_setMarkers,
    State.taken_done]

theorem exec_clearMarks_of_reaches (h : s.Reaches p .clearMarks r) : exec (.clearMarks p) s =
    .next ((s.setMarkers []).replied p r .done 0#8 [byte s.mkm.markers.length]) := by
  simp only [exec, execClearMarks, serve_of_reaches s p h, State.taken_mkm, State.taken_setMarkers, State.taken_done]

theorem exec_setNear_too_far (h : s.Reaches p .setNear r) (hv : 2000 < r.num 0 2) :
    exec (.setNear p) s = .next (s.replied p r .badField 0x01#8 []) := by
  simp only [exec, execSetNear, serve_of_reaches s p h, if_pos hv, State.taken_badField]

theorem exec_setNear_accepted (h : s.Reaches p .setNear r) (hv : ¬ 2000 < r.num 0 2) {ms : List Marker}
    (hms : ms = s.mkm.markers.map (·.withThreshold (r.num 0 2))) : exec (.setNear p) s =
    .next ((State.raiseNear ((s.setMkm { s.mkm with threshold := r.num 0 2 }).setMarkers ms)
      ((s.mkm.markers.filter (fun m => !m.near && decide (m.range ≤ r.num 0 2))).map Marker.track)).replied p r
        .done 0#8 (le 2 (r.num 0 2) ++ [byte (ms.filter Marker.near).length])) := by
  simp only [exec, execSetNear, serve_of_reaches s p h, if_neg hv, State.taken_mkm, State.taken_setMkm,
    State.taken_setMarkers, State.taken_raiseNear, State.taken_done, hms]

end Requests

/-- Whether a track was in the map, as UNMARK's reply says it (R110). -/
theorem findMarker_isSome_eq_any (ms : List Marker) (track : Nat) :
    (findMarker ms track).isSome = ms.any (fun m => decide (m.track = track)) :=
  List.isSome_find?

/-- Settles O52, by one equation for each way a request goes; an onset is what `trackNear_iff` says of the map before an
item and of the map after it. -/
theorem markerRequestsByRule : Obligations.MarkerRequestsByRule := by
  refine ⟨fun p s r => ⟨fun h => ⟨exec_mark_no_count s p h, fun h1 h4 ms outs onsets =>
      exec_mark_taken s p h (by omega)⟩, ?unmark, exec_clearMarks_of_reaches s p, ?setNear⟩,
    fun s k => ofFn_get _ k, fun s => ⟨rfl, fun t ts => rfl⟩, readItems_eq, fun present threshold ms => rfl, ?items,
    rfl, rfl, fun t => rfl, rfl, rfl, ?badField⟩
  case unmark =>
    rintro h track rfl
    rw [exec_unmark_of_reaches s p h]
    refine ⟨fun fails => if_pos fails, ?_⟩
    rintro fits ms rfl
    rw [← findMarker_isSome_eq_any]
    exact if_neg (Nat.not_lt.mpr fits)
  case setNear =>
    rintro h v rfl
    exact ⟨exec_setNear_too_far s p h, fun fits ms hms => exec_setNear_accepted s p h (Nat.not_lt.mpr fits) hms⟩
  case items =>
    intro present threshold ms ms' ms'' x xs out outs onsets hasc hx hxs onset honset
    have hasc' : (ms'.map Marker.track).Pairwise (· < ·) := by
      obtain rfl : _ = ms' := congrArg Prod.fst hx
      exact takeItem_ascending hasc present threshold x
    rw [← trackNear_iff hasc, ← trackNear_iff hasc'] at honset
    rw [takeItems_cons hx hxs]
    exact ⟨fun yes => by rw [if_pos (honset.mp yes)], fun no => by rw [if_neg (mt honset.mpr no)]⟩
  case badField =>
    intro id
    rw [MarkOutcome.bytes, le_two, ← byte_of_toNat rfl, Nat.div_eq_of_lt id.isLt]
    rfl

end Sys2Proof.Machine

/-! Overlay Memory over one step (R121 to R137): every way a step moves it, that the canonical form and the load
engine's relations stand every one of them, and that no command but LOAD_DATA can stop. -/

namespace Sys2Proof.Machine

/-! ## Free blocks and entries (R122, R124) -/

theorem Overlay.blockFree_iff (o : Overlay) (b : Nat) : o.blockFree b = true ↔
    ∀ (g : Fin 16) (x : Region), o.regions[g] = some x → ¬ (x.first ≤ b ∧ b < x.first + x.count) := by
  rw [Overlay.blockFree, Bool.not_eq_true', Bool.eq_false_iff, ne_eq, vector_any, not_exists]
  refine forall_congr' fun g => ?_
  cases o.regions[g] <;> simp [regionHolds]

/-- The run that ALLOC takes is free and is the lowest (R124). -/
theorem Overlay.freeRun_eq_some (o : Overlay) {n b : Nat} : o.freeRun n = some b ↔
    (b < 65 - n ∧ ∀ i, i < n → o.blockFree (b + i) = true)
    ∧ ∀ c, c < b → ¬ ∀ i, i < n → o.blockFree (c + i) = true := by
  simp only [Overlay.freeRun, List.find?_range_eq_some, List.mem_range, List.all_eq_true, Bool.not_eq_true',
    ← Bool.not_eq_true, and_assoc]
  tauto

theorem Overlay.freeRun_eq_none (o : Overlay) {n : Nat} : o.freeRun n = none ↔
    ∀ b, b < 65 - n → ¬ ∀ i, i < n → o.blockFree (b + i) = true := by
  simp only [Overlay.freeRun, List.find?_eq_none, List.mem_range, List.all_eq_true]

/-- The entry that ALLOC takes is FREE (R124). -/
theorem Overlay.freeEntry_some {o : Overlay} {g : Fin 16} (h : o.freeEntry = some g) : o.regions[g] = none := by
  have := List.find?_some h
  simpa using this

/-! ## What the engine's relations read of the Region Table (R122, R127) -/

/-- The first block and the number of blocks of a region that is not FREE. -/
def Overlay.blocks (o : Overlay) (g : Fin 16) : Option (Nat × Nat) := o.regions[g].map (fun r => (r.first, r.count))

/-- The owner and the number of blocks of a LOADING region. -/
def Overlay.loading (o : Overlay) (g : Fin 16) : Option (Port × Nat) :=
  (o.regions[g].filter Region.isLoading).map (fun r => (r.owner, r.count))

/-- Blocks inside the 64, no two regions' overlapping (R122). -/
def BlocksGood (blocks : Fin 16 → Option (Nat × Nat)) : Prop :=
  (∀ g a n, blocks g = some (a, n) → 1 ≤ n ∧ a + n ≤ 64)
  ∧ ∀ g h a n b m, g ≠ h → blocks g = some (a, n) → blocks h = some (b, m) → a + n ≤ b ∨ b + m ≤ a

/-- Whether a port's job holds the place (R127). -/
def PerPort.holds (jobs : PerPort (Option Job)) (p : Port) : Prop :=
  ∃ j, jobs.get p = some j ∧ j.isSuspended = false

/-- The jobs against the LOADING regions: each job within its port's region, each such region with its owner's job, one
job at most in the place (R127). -/
structure JobsFit (loading : Fin 16 → Option (Port × Nat)) (jobs : PerPort (Option Job)) : Prop where
  within : ∀ p j, jobs.get p = some j →
    ∃ n, loading j.region = some (p, n) ∧ j.length ≤ n * blockBytes ∧ j.cursor ≤ j.length
  named : ∀ g p n, loading g = some (p, n) → ∃ j, jobs.get p = some j ∧ j.region = g
  place : ∀ p q, jobs.holds p → jobs.holds q → p = q

section Views

variable {o : Overlay} {g : Fin 16}

theorem Overlay.blocks_eq_some {a n : Nat} : o.blocks g = some (a, n) ↔
    ∃ r, o.regions[g] = some r ∧ r.first = a ∧ r.count = n := by simp [Overlay.blocks]

theorem Region.isLoading_iff (r : Region) : r.isLoading = true ↔ r.content = .loading := by
  unfold Region.isLoading
  cases r.content <;> simp

theorem Overlay.loading_eq_some {p : Port} {n : Nat} : o.loading g = some (p, n) ↔
    ∃ r, o.regions[g] = some r ∧ r.content = .loading ∧ r.owner = p ∧ r.count = n := by
  simp [Overlay.loading, Option.filter_eq_some_iff, Region.isLoading_iff, and_assoc]

theorem Overlay.loading_owner {r : Region} (hr : o.regions[g] = some r) (x : Port × Nat) (hx : o.loading g = some x) :
    x.1 = r.owner := by
  obtain ⟨t, ht, -, hp, -⟩ := Overlay.loading_eq_some.mp (show o.loading g = some (x.1, x.2) from hx)
  rw [hr] at ht
  cases ht
  exact hp.symm

/-- The relations of the engine, read through the two views. -/
theorem Overlay.engineGood_iff (o : Overlay) :
    (o.RegionsGood ∧ o.RegionsApart ∧ o.JobsGood ∧ o.corrected ≤ 255)
      ↔ BlocksGood o.blocks ∧ JobsFit o.loading o.jobs ∧ o.corrected ≤ 255 := by
  have blocks : o.RegionsGood ∧ o.RegionsApart ↔ BlocksGood o.blocks := by
    unfold Overlay.RegionsGood Overlay.RegionsApart BlocksGood
    simp only [Overlay.blocks_eq_some]
    constructor
    · rintro ⟨inside, apart⟩
      refine ⟨?_, ?_⟩
      · rintro g a n ⟨r, hr, rfl, rfl⟩
        exact inside g r hr
      · rintro g h a n b m hne ⟨r, hr, rfl, rfl⟩ ⟨t, ht, rfl, rfl⟩
        exact apart g h r t hne hr ht
    · rintro ⟨inside, apart⟩
      exact ⟨fun g r hr => inside g _ _ ⟨r, hr, rfl, rfl⟩,
        fun g h r t hne hr ht => apart g h _ _ _ _ hne ⟨r, hr, rfl, rfl⟩ ⟨t, ht, rfl, rfl⟩⟩
  have jobs : o.JobsGood ↔ JobsFit o.loading o.jobs := by
    constructor
    · rintro ⟨within, named, place⟩
      refine ⟨fun p j hj => ?_, fun g p n hg => ?_, place⟩
      · obtain ⟨r, hr, hp, hl, hlen, hcur⟩ := within p j hj
        exact ⟨r.count, Overlay.loading_eq_some.mpr ⟨r, hr, hl, hp, rfl⟩, hlen, hcur⟩
      · obtain ⟨r, hr, hl, rfl, -⟩ := Overlay.loading_eq_some.mp hg
        exact named g r hr hl
    · rintro ⟨within, named, place⟩
      refine ⟨fun p j hj => ?_, fun g r hr hl => ?_, place⟩
      · obtain ⟨n, hn, hlen, hcur⟩ := within p j hj
        obtain ⟨r, hr, hl, hp, rfl⟩ := Overlay.loading_eq_some.mp hn
        exact ⟨r, hr, hp, hl, hlen, hcur⟩
      · exact named g r.owner r.count (Overlay.loading_eq_some.mpr ⟨r, hr, hl, rfl, rfl⟩)
  rw [← and_assoc, blocks, jobs]

/-! The views after a change of the Region Table. -/

theorem Overlay.setRegion_blocks (x : Option Region) :
    (o.setRegion g x).blocks = Function.update o.blocks g (x.map (fun r => (r.first, r.count))) := by
  funext h
  simp only [Overlay.blocks, Overlay.setRegion_get, Function.update_apply]
  split <;> rfl

theorem Overlay.setRegion_loading (x : Option Region) : (o.setRegion g x).loading =
    Function.update o.loading g ((x.filter Region.isLoading).map (fun r => (r.owner, r.count))) := by
  funext h
  simp only [Overlay.loading, Overlay.setRegion_get, Function.update_apply]
  split <;> rfl

theorem Overlay.setContent_blocks (c : RegionContent) : (o.setContent g c).blocks = o.blocks := by
  rw [Overlay.setContent, Overlay.setRegion_blocks, Option.map_map]
  exact Function.update_eq_self _ _

theorem Overlay.setContent_loading {c : RegionContent} (hc : c ≠ .loading) :
    (o.setContent g c).loading = Function.update o.loading g none := by
  rw [Overlay.setContent, Overlay.setRegion_loading]
  congr 1
  cases o.regions[g] <;> cases c <;> simp_all [Region.isLoading]

theorem Overlay.setContent_loading_of_some {r : Region} (hr : o.regions[g] = some r) :
    (o.setContent g .loading).loading = Function.update o.loading g (some (r.owner, r.count)) := by
  rw [Overlay.setContent, Overlay.setRegion_loading, hr]
  rfl

end Views

/-! ## Every way Overlay Memory moves -/

/-- One change that a step can make to Overlay Memory's block: a device reset, errors in memory and their correction,
the fault of a region, ECC_CLEAR, ALLOC, FREE, a chunk written, a job that goes on in its region (its timer, its cursor,
its suspension), a job opened, over one that held the place or not, a job ended, with the next one resumed or not (R121
to R138). -/
inductive Overlay.Act : Overlay → Overlay → Prop
  | reset (o : Overlay) (epoch : Nat) : Act o (Overlay.atReset epoch)
  | suffer (o : Overlay) (us : List Upset) : Act o (o.suffer us)
  | correct (o : Overlay) (w : Nat) (h : o.readCheck w = .single) : Act o (o.correct w)
  | fault (o : Overlay) (g : Fin 16) :
      Act o (o.setRegion g (o.regions[g].map (fun r => { r with content := r.content.fault })))
  | clearCount (o : Overlay) : Act o { o with corrected := 0 }
  | alloc (o : Overlay) (g : Fin 16) (n b : Nat) (p : Port) (entry : o.freeEntry = some g) (run : o.freeRun n = some b)
      (count : 1 ≤ n ∧ n ≤ 64) : Act o (o.setRegion g (some ⟨b, n, p, .empty⟩))
  | free (o : Overlay) (g : Fin 16) (x : Region) (entry : o.regions[g] = some x) (idle : x.isLoading = false) :
      Act o (o.setRegion g none)
  | write (o : Overlay) (x : Nat) (bs : List Byte) (inside : x + bs.length ≤ overlayBytes) : Act o (o.writeChunk x bs)
  | job (o : Overlay) (p : Port) (j k : Job) (hj : o.jobs.get p = some j) (region : k.region = j.region)
      (length : k.length = j.length) (cursor : k.cursor = j.cursor ∨ k.cursor ≤ j.length)
      (place : j.isSuspended = true → k.isSuspended = true) : Act o (o.setJob p (some k))
  | openJob (o : Overlay) (p : Port) (j : Job) (x : Region) (entry : o.regions[j.region] = some x) (owner : x.owner = p)
      (none : o.jobs.get p = none) (length : j.length ≤ x.count * blockBytes) (cursor : j.cursor = 0)
      (place : j.isSuspended = false → ∀ q, ¬ o.holdsPlace q) :
      Act o ((o.setContent j.region .loading).setJob p (some j))
  | openOver (o : Overlay) (p : Port) (j : Job) (x : Region) (q : Port) (k : Job)
      (entry : o.regions[j.region] = some x) (owner : x.owner = p) (none : o.jobs.get p = none)
      (length : j.length ≤ x.count * blockBytes) (cursor : j.cursor = 0) (hk : o.jobs.get q = some k)
      (held : k.isSuspended = false) :
      Act o (((o.setContent j.region .loading).setJob q (some { k with state := .suspended })).setJob p (some j))
  | endJob (o : Overlay) (p : Port) (j : Job) (c : RegionContent) (hj : o.jobs.get p = some j) (hc : c ≠ .loading) :
      Act o ((o.setContent j.region c).setJob p none)
  | endAndResume (o : Overlay) (p : Port) (j : Job) (c : RegionContent) (q : Port) (k : Job) (left : Nat)
      (hj : o.jobs.get p = some j) (hc : c ≠ .loading) (held : j.isSuspended = false)
      (hk : ((o.setContent j.region c).setJob p none).jobs.get q = some k) :
      Act o (((o.setContent j.region c).setJob p none).setJob q (some { k with state := .receiving left }))

/-- What a step can do to Overlay Memory's block: such changes, one after the other. -/
abbrev Overlay.Moves : Overlay → Overlay → Prop := Relation.ReflTransGen Overlay.Act

/-- A predicate that every single change keeps is kept by all of them. -/
theorem Overlay.Moves.keeps {P : Overlay → Prop} (act : ∀ {o u : Overlay}, o.Act u → P o → P u) {o u : Overlay}
    (h : o.Moves u) (ho : P o) : P u := by
  induction h with
  | refl => exact ho
  | tail _ last ih => exact act last ih

/-! ## The canonical form (R121) -/

theorem Overlay.Act.memory_wf {o u : Overlay} (h : o.Act u) (ho : o.memory.wf = true) : u.memory.wf = true := by
  cases h with
  | reset epoch => rfl
  | suffer us => rwa [Overlay.suffer_memory]
  | correct w hw => exact o.correct_wf ho w (Overlay.readCheck_lt (by rw [hw]; exact nofun))
  | write x bs inside => exact o.writeChunk_wf ho x bs inside
  | _ => exact ho

/-! ## The load engine's relations (R122, R127) -/

section Relations

variable {blocks : Fin 16 → Option (Nat × Nat)} {loading : Fin 16 → Option (Port × Nat)} {jobs : PerPort (Option Job)}
  {p q : Port} {j k : Job} {g : Fin 16}

theorem BlocksGood.free (h : BlocksGood blocks) (g : Fin 16) : BlocksGood (Function.update blocks g none) := by
  have was : ∀ {i x}, Function.update blocks g none i = some x → blocks i = some x := by
    intro i x hx
    rw [Function.update_apply] at hx
    split at hx
    · cases hx
    · exact hx
  exact ⟨fun i a n hi => h.1 i a n (was hi), fun i l a n b m hne hi hl => h.2 i l a n b m hne (was hi) (was hl)⟩

/-- A run of blocks that no region holds can be taken (R124). -/
theorem BlocksGood.alloc (h : BlocksGood blocks) {a n : Nat} (hn : 1 ≤ n) (inside : a + n ≤ 64)
    (free : ∀ i, i < n → ∀ l b m, blocks l = some (b, m) → ¬ (b ≤ a + i ∧ a + i < b + m)) :
    BlocksGood (Function.update blocks g (some (a, n))) := by
  have clear : ∀ l b m, blocks l = some (b, m) → a + n ≤ b ∨ b + m ≤ a := by
    intro l b m hl
    by_contra overlap
    rcases Nat.lt_or_ge b a with hba | hab
    · exact free 0 hn l b m hl (by omega)
    · exact free (b - a) (by omega) l b m hl (by have := h.1 l b m hl; omega)
  refine ⟨fun l b m hl => ?_, fun l l' b m b' m' hne hl hl' => ?_⟩
  · rw [Function.update_apply] at hl
    split at hl
    · cases hl
      exact ⟨hn, inside⟩
    · exact h.1 l b m hl
  · rw [Function.update_apply] at hl hl'
    split at hl <;> split at hl'
    · rename_i e e'
      exact absurd (e.trans e'.symm) hne
    · cases hl
      exact clear l' b' m' hl'
    · cases hl'
      exact (clear l b m hl).symm
    · exact h.2 l l' b m b' m' hne hl hl'

theorem PerPort.holds_set_some :
    (jobs.set p (some k)).holds q ↔ (q = p ∧ k.isSuspended = false) ∨ (q ≠ p ∧ jobs.holds q) := by
  unfold PerPort.holds
  rw [PerPort.get_set]
  split <;> simp_all

theorem PerPort.holds_set_none : (jobs.set p none).holds q ↔ q ≠ p ∧ jobs.holds q := by
  unfold PerPort.holds
  rw [PerPort.get_set]
  split <;> simp_all

/-- A job put where no other port's holds the place leaves one at most in the place (R127). -/
theorem PerPort.place_set (one : ∀ p q, jobs.holds p → jobs.holds q → p = q)
    (place : k.isSuspended = false → ∀ q, jobs.holds q → q = p) :
    ∀ q r, (jobs.set p (some k)).holds q → (jobs.set p (some k)).holds r → q = r := by
  intro q r hq hr
  rw [PerPort.holds_set_some] at hq hr
  rcases hq with ⟨rfl, hk⟩ | ⟨-, hq⟩ <;> rcases hr with ⟨rfl, hk'⟩ | ⟨-, hr⟩
  · rfl
  · exact (place hk r hr).symm
  · exact place hk' q hq
  · exact one q r hq hr

/-- A job that goes on in its region, in a place that is free or that it holds (R127, R129, R130). -/
theorem JobsFit.setJob (h : JobsFit loading jobs) (hj : jobs.get p = some j) (region : k.region = j.region)
    (length : k.length = j.length) (cursor : k.cursor = j.cursor ∨ k.cursor ≤ j.length)
    (place : k.isSuspended = false → ∀ q, jobs.holds q → q = p) : JobsFit loading (jobs.set p (some k)) where
  within q i hi := by
    rw [PerPort.get_set] at hi
    split at hi
    · cases hi
      subst q
      obtain ⟨n, hn, hlen, hcur⟩ := h.within p j hj
      exact ⟨n, by rw [region, hn], by rw [length]; exact hlen, by omega⟩
    · exact h.within q i hi
  named g q n hg := by
    obtain ⟨i, hi, rfl⟩ := h.named g q n hg
    by_cases hq : q = p
    · subst hq
      rw [hj] at hi
      cases hi
      exact ⟨k, PerPort.get_set_self _ _ _, region⟩
    · exact ⟨i, by rw [PerPort.get_set_of_ne _ _ _ _ hq, hi], rfl⟩
  place := PerPort.place_set h.place place

/-- A job opened in a region that was not LOADING (R128). -/
theorem JobsFit.openJob (h : JobsFit loading jobs) (none_yet : jobs.get p = none) {n : Nat}
    (length : j.length ≤ n * blockBytes) (cursor : j.cursor ≤ j.length)
    (fresh : ∀ x, loading j.region = some x → x.1 = p)
    (place : j.isSuspended = false → ∀ q, ¬ jobs.holds q) :
    JobsFit (Function.update loading j.region (some (p, n))) (jobs.set p (some j)) where
  within q i hi := by
    rw [PerPort.get_set] at hi
    split at hi
    · cases hi
      subst q
      exact ⟨n, Function.update_self _ _ _, length, cursor⟩
    · rename_i hq
      obtain ⟨m, hm, hlen⟩ := h.within q i hi
      refine ⟨m, ?_, hlen⟩
      rw [Function.update_of_ne (fun e => hq (fresh (q, m) (by rwa [← e]))), hm]
  named g q m hg := by
    rw [Function.update_apply] at hg
    split at hg
    · cases hg
      exact ⟨j, PerPort.get_set_self _ _ _, Eq.symm ‹_›⟩
    · obtain ⟨i, hi, rfl⟩ := h.named g q m hg
      have hq : q ≠ p := by
        rintro rfl
        rw [none_yet] at hi
        cases hi
      exact ⟨i, by rw [PerPort.get_set_of_ne _ _ _ _ hq, hi], rfl⟩
  place := PerPort.place_set h.place fun hj q hq => absurd hq (place hj q)

/-- A job ended, its region no longer LOADING (R130). -/
theorem JobsFit.endJob (h : JobsFit loading jobs) (hj : jobs.get p = some j) :
    JobsFit (Function.update loading j.region none) (jobs.set p none) where
  within q i hi := by
    rw [PerPort.get_set] at hi
    split at hi
    · cases hi
    · rename_i hq
      obtain ⟨m, hm, hlen⟩ := h.within q i hi
      refine ⟨m, ?_, hlen⟩
      rw [Function.update_of_ne, hm]
      intro e
      obtain ⟨n, hn, -⟩ := h.within p j hj
      rw [e, hn] at hm
      cases hm
      exact hq rfl
  named g q m hg := by
    rw [Function.update_apply] at hg
    split at hg
    · cases hg
    · rename_i hg'
      obtain ⟨i, hi, rfl⟩ := h.named g q m hg
      have hq : q ≠ p := by
        rintro rfl
        rw [hj] at hi
        cases hi
        exact hg' rfl
      exact ⟨i, by rw [PerPort.get_set_of_ne _ _ _ _ hq, hi], rfl⟩
  place q r hq hr := h.place q r (PerPort.holds_set_none.mp hq).2 (PerPort.holds_set_none.mp hr).2

/-- Where the job that held the place has ended or become SUSPENDED, no job holds it. -/
theorem JobsFit.place_free (h : JobsFit loading jobs) (hj : jobs.get p = some j) (held : j.isSuspended = false)
    {x : Option Job} (gone : ∀ k, x = some k → k.isSuspended = true) : ¬ (jobs.set p x).holds q := by
  rintro ⟨k, hk, hs⟩
  rw [PerPort.get_set] at hk
  split at hk
  · rw [gone k hk] at hs
    cases hs
  · rename_i hq
    exact hq (h.place q p ⟨k, hk, hs⟩ ⟨j, hj, held⟩)

end Relations

/-- Every single change keeps the relations of the engine. -/
theorem Overlay.Act.engineGood {o u : Overlay} (h : o.Act u)
    (ho : BlocksGood o.blocks ∧ JobsFit o.loading o.jobs ∧ o.corrected ≤ 255) :
    BlocksGood u.blocks ∧ JobsFit u.loading u.jobs ∧ u.corrected ≤ 255 := by
  obtain ⟨blocks, jobs, count⟩ := ho
  cases h with
  | reset epoch =>
    have no_region : ∀ g : Fin 16, (Overlay.atReset epoch).regions[g] = none := fun g => replicate_get none g
    have no_job : ∀ p, (Overlay.atReset epoch).jobs.get p = none := fun p => PerPort.get_all p none
    refine (Overlay.engineGood_iff _).mp ⟨?_, ?_, ⟨?_, ?_, ?_⟩, Nat.zero_le _⟩ <;>
      simp only [Overlay.RegionsGood, Overlay.RegionsApart, Overlay.holdsPlace, no_region, no_job] <;> simp
  | suffer us =>
    obtain ⟨regions, jobs', corrected, -⟩ := o.suffer_keeps us
    unfold Overlay.blocks Overlay.loading
    rw [regions, jobs', corrected]
    exact ⟨blocks, jobs, count⟩
  | correct w hw => exact ⟨blocks, jobs, o.correct_corrected_le w⟩
  | fault g =>
    refine ⟨?_, ?_, count⟩
    · have : (o.regions[g].map (fun r => { r with content := r.content.fault })).map (fun r => (r.first, r.count))
          = o.blocks g := Option.map_map _ _ _
      rwa [Overlay.setRegion_blocks, this, Function.update_eq_self]
    · rw [Overlay.setRegion_loading, Overlay.setRegion_jobs]
      have : ((o.regions[g].map (fun r => { r with content := r.content.fault })).filter Region.isLoading).map
          (fun r => (r.owner, r.count)) = o.loading g := by
        unfold Overlay.loading
        cases o.regions[g] with
        | none => rfl
        | some r =>
          obtain ⟨first, n, owner, content⟩ := r
          cases content <;> rfl
      rwa [this, Function.update_eq_self]
  | clearCount => exact ⟨blocks, jobs, Nat.zero_le _⟩
  | alloc g n b p entry run size =>
    have free := Overlay.freeEntry_some entry
    obtain ⟨⟨inside, run⟩, -⟩ := o.freeRun_eq_some.mp run
    refine ⟨?_, ?_, count⟩
    · rw [Overlay.setRegion_blocks]
      refine blocks.alloc size.1 (show b + n ≤ 64 by omega) fun i hi l a m hl => ?_
      obtain ⟨x, hx, rfl, rfl⟩ := Overlay.blocks_eq_some.mp hl
      exact (o.blockFree_iff _).mp (run i hi) l x hx
    · rw [Overlay.setRegion_loading, Overlay.setRegion_jobs]
      have : o.loading g = none := by rw [Overlay.loading, free]; rfl
      rwa [show Option.map _ (Option.filter Region.isLoading (some ⟨b, n, p, .empty⟩)) = o.loading g from this.symm,
        Function.update_eq_self]
  | free g x entry idle =>
    refine ⟨?_, ?_, count⟩
    · rw [Overlay.setRegion_blocks]
      exact blocks.free g
    · rw [Overlay.setRegion_loading, Overlay.setRegion_jobs]
      have : o.loading g = none := by rw [Overlay.loading, entry, Option.filter_some, idle]; rfl
      rwa [show Option.map _ (Option.filter Region.isLoading none) = o.loading g from this.symm,
        Function.update_eq_self]
  | write x bs inside => exact ⟨blocks, jobs, count⟩
  | job p j k hj region length cursor place =>
    refine ⟨blocks, jobs.setJob hj region length cursor fun hk q hq => ?_, count⟩
    refine jobs.place q p hq ⟨j, hj, ?_⟩
    by_contra hs
    rw [place (by simpa using hs)] at hk
    cases hk
  | openJob p j x entry owner none_yet length cursor place =>
    subst owner
    refine ⟨?_, ?_, count⟩
    · exact (Overlay.setContent_blocks (o := o) (g := j.region) .loading).symm ▸ blocks
    · have : ((o.setContent j.region .loading).setJob x.owner (some j)).loading = _ :=
        Overlay.setContent_loading_of_some entry
      rw [this]
      exact jobs.openJob none_yet length (by omega) (Overlay.loading_owner entry) place
  | openOver p j x q k entry owner none_yet length cursor hk held =>
    subst owner
    refine ⟨(Overlay.setContent_blocks (o := o) (g := j.region) .loading).symm ▸ blocks, ?_, count⟩
    have : (((o.setContent j.region .loading).setJob q (some { k with state := .suspended })).setJob x.owner
        (some j)).loading = _ := Overlay.setContent_loading_of_some entry
    rw [this]
    have hq : x.owner ≠ q := by
      rintro e
      rw [e, hk] at none_yet
      cases none_yet
    have suspended := jobs.setJob (k := { k with state := .suspended }) hk rfl rfl (.inl rfl) nofun
    refine suspended.openJob ((PerPort.get_set_of_ne _ _ _ _ hq).trans none_yet) length (by omega)
      (Overlay.loading_owner entry) fun _ r => jobs.place_free hk held ?_
    rintro _ ⟨⟩
    rfl
  | endJob p j c hj hc =>
    refine ⟨(Overlay.setContent_blocks (o := o) (g := j.region) c).symm ▸ blocks, ?_, count⟩
    have : ((o.setContent j.region c).setJob p none).loading = _ := Overlay.setContent_loading hc
    rw [this]
    exact jobs.endJob hj
  | endAndResume p j c q k left hj hc held hk =>
    refine ⟨(Overlay.setContent_blocks (o := o) (g := j.region) c).symm ▸ blocks, ?_, count⟩
    have : (((o.setContent j.region c).setJob p none).setJob q
        (some { k with state := .receiving left })).loading = _ :=
      Overlay.setContent_loading hc
    rw [this]
    exact (jobs.endJob hj).setJob hk rfl rfl (.inl rfl) fun _ r hr => absurd hr (jobs.place_free hj held nofun)

end Sys2Proof.Machine

/-! Every command against Overlay Memory and the queue of waiting commands: each answers a next state, in which Overlay
Memory has moved in the ways of `Overlay.Act` and the queue is as given; LOAD_DATA alone can fault. -/

namespace Sys2Proof.Machine

/-! ## Overlay Memory and the queue of a next state -/

/-- What a step must leave well: Overlay Memory's block, and the commands that wait. -/
structure EngineView where
  ovm : Overlay
  pending : List Instr

def State.engine (s : State) : EngineView := ⟨s.ovm, s.pending⟩

/-- Overlay Memory moved, the queue as given. -/
def EngineView.Moves (v w : EngineView) : Prop := v.ovm.Moves w.ovm ∧ w.pending = v.pending

theorem EngineView.Moves.refl (v : EngineView) : v.Moves v := ⟨.refl, rfl⟩

theorem EngineView.Moves.trans {u v w : EngineView} (h : u.Moves v) (k : v.Moves w) : u.Moves w :=
  ⟨h.1.trans k.1, k.2.trans h.2⟩

theorem EngineView.Moves.of_eq {v w : EngineView} (h : w = v) : v.Moves w := h ▸ .refl v

/-- A command answers a next state, with Overlay Memory moved and the queue as given. -/
def State.Answers (s : State) (o : Outcome) : Prop := ∃ t, o = .next t ∧ s.engine.Moves t.engine

theorem State.answers_next {s t : State} (h : s.engine.Moves t.engine) : s.Answers (.next t) := ⟨t, rfl, h⟩

theorem State.answers_same {s t : State} (h : t.engine = s.engine) : s.Answers (.next t) :=
  State.answers_next (.of_eq h)

section Updates

variable (s : State) (p : Port) (r : Request)

/-! The updates that leave the view. -/

@[simp] theorem State.setPorts_engine (x : PerPort PortState) : (s.setPorts x).engine = s.engine := rfl
@[simp] theorem State.setLtb_engine (x : LayerTable) : (s.setLtb x).engine = s.engine := rfl
@[simp] theorem State.setFtb_engine (x : Timebase) : (s.setFtb x).engine = s.engine := rfl
@[simp] theorem State.setCams_engine (x : Cameras) : (s.setCams x).engine = s.engine := rfl
@[simp] theorem State.setScn_engine (x : Conditioner) : (s.setScn x).engine = s.engine := rfl
@[simp] theorem State.setMkm_engine (x : MarkerMap) : (s.setMkm x).engine = s.engine := rfl
@[simp] theorem State.setCmp_engine (x : Composer) : (s.setCmp x).engine = s.engine := rfl
@[simp] theorem State.setStc_engine (x : Controller) : (s.setStc x).engine = s.engine := rfl
@[simp] theorem State.setFst_engine (x : Fitting) : (s.setFst x).engine = s.engine := rfl
@[simp] theorem State.setLinks_engine (x : LinkOutputs) : (s.setLinks x).engine = s.engine := rfl
@[simp] theorem State.setPins_engine (x : Pins) : (s.setPins x).engine = s.engine := rfl
@[simp] theorem State.setOvm_engine (x : Overlay) : (s.setOvm x).engine = ⟨x, s.pending⟩ := rfl
@[simp] theorem State.modPort_engine (f : PortState → PortState) : (s.modPort p f).engine = s.engine := rfl
@[simp] theorem State.post_engine (x : Reply) : (s.post p x).engine = s.engine := rfl
@[simp] theorem State.raiseTo_engine (c : AlertCode) (a b : Nat) : (s.raiseTo p c a b).engine = s.engine := rfl
@[simp] theorem State.raiseAll_engine (c : AlertCode) (a b : Nat) : (s.raiseAll c a b).engine = s.engine := rfl
@[simp] theorem State.announce_engine (c : Cause) : (s.announce c).engine = s.engine := rfl
@[simp] theorem State.answer_engine (c : ResultCode) (i : Byte) (v : List Byte) :
    (s.answer p r c i v).engine = s.engine := rfl
@[simp] theorem State.done_engine (v : List Byte) : (s.done p r v).engine = s.engine := rfl
@[simp] theorem State.refuse_engine (c : ResultCode) : (s.refuse p r c).engine = s.engine := rfl
@[simp] theorem State.badField_engine (i : Byte) : (s.badField p r i).engine = s.engine := rfl
@[simp] theorem State.replied_engine (c : ResultCode) (i : Byte) (v : List Byte) :
    (s.replied p r c i v).engine = s.engine := rfl
@[simp] theorem State.taken_engine : (s.taken p).engine = s.engine := rfl
@[simp] theorem State.dropRequest_engine : (s.dropRequest p).engine = s.engine := rfl
@[simp] theorem State.setLink_engine (k : Fin 4) (x : CameraLink) : (s.setLink k x).engine = s.engine := rfl
@[simp] theorem State.setMarkers_engine (ms : List Marker) : (s.setMarkers ms).engine = s.engine := rfl
@[simp] theorem State.refuseEntry_engine (e : PendingEntry) (c : Cause) :
    (s.refuseEntry e c).engine = s.engine := rfl

/-- What a request does to the view is what its block does: taking and answering it change its port alone (R164). -/
theorem serve_answers {kind : RequestKind} {block : Request → State → Outcome}
    (h : ∀ r, s.Answers (block r (s.taken p))) : s.Answers (serve kind p s block) := by
  obtain ⟨-, hn⟩ | ⟨r, -, ⟨c, i, hn⟩ | ⟨-, -, -, hn⟩⟩ := serve_cases s p (rfl : serve kind p s block = _) <;> rw [hn]
  · exact State.answers_same rfl
  · exact State.answers_same rfl
  · exact h r

theorem onSlot_answers {f : Fin 24 → State} {u : State} (hu : u.engine = s.engine)
    (h : ∀ i, (f i).engine = s.engine) : s.Answers (onSlot p r u f) := by
  unfold onSlot
  split
  · exact State.answers_same hu
  · exact State.answers_same (h _)

/-! The shared operations of the other blocks. -/

@[simp] theorem State.raiseNear_engine (ts : List Nat) : ∀ s : State, (s.raiseNear ts).engine = s.engine := by
  induction ts with
  | nil => exact fun _ => rfl
  | cons t ts ih => exact fun s => ih (s.raiseAll .nearObject t 0)

@[simp] theorem State.finishStore_engine (x : StoreInFlight) (good : Bool) :
    (s.finishStore x good).engine = s.engine := by
  unfold State.finishStore
  dsimp only
  repeat' split
  all_goals rfl

@[simp] theorem State.storeTimerExpiry_engine : s.storeTimerExpiry.engine = s.engine := by
  unfold State.storeTimerExpiry
  split <;> simp

@[simp] theorem State.speedAgeExpiry_engine : s.speedAgeExpiry.engine = s.engine := by
  unfold State.speedAgeExpiry
  split <;> rfl

@[simp] theorem State.powerOffExpiry_engine (k : Fin 4) : (s.powerOffExpiry k).engine = s.engine := by
  unfold State.powerOffExpiry
  dsimp only
  split <;> rfl

@[simp] theorem State.inputEvent_engine (e : InputEvent) : (s.inputEvent e).engine = s.engine := by
  obtain ⟨c, h, -⟩ := s.inputEvent_only e
  rw [h]
  rfl

theorem State.inputEvents_engine (es : List InputEvent) :
    ∀ s : State, (es.foldl State.inputEvent s).engine = s.engine := by
  induction es with
  | nil => exact fun _ => rfl
  | cons e es ih => exact fun s => (ih (s.inputEvent e)).trans (s.inputEvent_engine e)

@[simp] theorem State.settleFitting_engine : s.settleFitting.engine = s.engine := by
  unfold State.settleFitting
  split
  · rfl
  · rfl
  · split
    · rfl
    · split_ifs
      · rfl
      · rfl
      · simp [State.applyFitting, State.fittingStatus]

@[simp] theorem State.examine_engine (bytes : List Byte) : (s.examine p bytes).engine = s.engine := by
  unfold State.examine
  dsimp only
  repeat' split
  all_goals rfl

@[simp] theorem State.enterDormant_engine : s.enterDormant.engine = s.engine := by
  simp [State.engine, State.enterDormant, State.setMarkers]

@[simp] theorem State.answerAndAnnounce_engine (first : Bool) (x : Reply) (c : Cause) :
    (s.answerAndAnnounce first p x c).engine = s.engine := by
  cases first <;> rfl

/-! ## The Region Table and the jobs -/

/-- The end of a job ends it and, if it held the place, resumes the next (R130). -/
theorem State.endJob_moves {j : Job} {c : RegionContent} (hj : s.ovm.jobs.get p = some j) (hc : c ≠ .loading) :
    s.engine.Moves (s.endJob p j c).engine := by
  have ended : s.ovm.Moves ((s.ovm.setContent j.region c).setJob p none) := .single (.endJob _ p j c hj hc)
  unfold State.endJob
  dsimp only
  split
  · exact ⟨ended, rfl⟩
  · rename_i held
    obtain ⟨-, h⟩ | ⟨q, k, hq, -, -, h⟩ :=
      (s.setOvm ((s.ovm.setContent j.region c).setJob p none)).resumeNext_cases <;> rw [h]
    · exact ⟨ended, rfl⟩
    · exact ⟨.single (.endAndResume _ p j c q k receiveTime hj hc (by simpa using held) hq), rfl⟩

/-- Reads for verification correct words and do no more (R132, R137). -/
theorem Overlay.verifyWords_moves : ∀ (ws : List Nat) (o : Overlay), o.Moves (o.verifyWords ws).1
  | [], _ => .refl
  | w :: ws, o => by
    unfold Overlay.verifyWords
    split
    · exact Overlay.verifyWords_moves ws o
    · exact .head (.correct o w ‹_›) (Overlay.verifyWords_moves ws (o.correct w))
    · exact Overlay.verifyWords_moves ws o

theorem verdict_not_loading (expected computed : Word32) (double : Bool) :
    (verdict expected computed double).1 ≠ .loading := by
  unfold verdict
  repeat' split
  all_goals exact nofun

theorem State.finishVerification_moves {j : Job} (tag : Tag) (us : List Upset) (hj : s.ovm.jobs.get p = some j) :
    s.engine.Moves (s.finishVerification p j tag us).engine := by
  unfold State.finishVerification
  dsimp only
  generalize hw : jobWords (s.ovm.jobBase j) j.length = ws
  have read : s.engine.Moves (s.setOvm ((s.ovm.suffer us).verifyWords ws).1).engine :=
    ⟨.head (.suffer _ us) (Overlay.verifyWords_moves ws _), rfl⟩
  refine read.trans ?_
  have jobs : ((s.ovm.suffer us).verifyWords ws).1.jobs.get p = some j := by
    rw [(Overlay.verifyWords_keeps ws _).2, Overlay.suffer_jobs, hj]
  split
  · exact State.endJob_moves ((s.setOvm _).post p _) p jobs (verdict_not_loading _ _ _)
  · exact State.endJob_moves (s.setOvm _) p jobs (verdict_not_loading _ _ _)

theorem State.verificationEnd_moves (us : List Upset) : s.engine.Moves (s.verificationEnd us).engine := by
  unfold State.verificationEnd
  split
  · exact .refl _
  · rename_i q j found
    split
    · exact s.finishVerification_moves q _ us (PerPort.firstJob_some found).1
    · exact .refl _
    · exact .refl _

theorem State.receiveTimeout_moves : s.engine.Moves s.receiveTimeout.engine := by
  unfold State.receiveTimeout
  split
  · exact .refl _
  · rename_i q j found
    exact State.endJob_moves (s.raiseTo q .loadTimeout j.region.val 0) q (PerPort.firstJob_some found).1 nofun

theorem State.resetJob_moves : s.engine.Moves (s.resetJob p).engine := by
  unfold State.resetJob
  split
  · exact .refl _
  · rename_i j hj
    split
    · exact ⟨.single (.job _ p j { j with answerOpen := false } hj rfl rfl (.inl rfl) id), rfl⟩
    · exact s.endJob_moves p hj nofun

theorem State.resetBlocks_moves : s.engine.Moves (s.resetBlocks p).engine := by
  unfold State.resetBlocks
  dsimp only
  refine EngineView.Moves.trans (.of_eq ?_) (State.resetJob_moves _ p)
  rw [State.setFst_engine, State.setStc_engine]
  split <;> simp

theorem freeRegion_moves (g : Fin 16) : s.engine.Moves (freeRegion p r s g).engine := by
  unfold freeRegion
  split
  · exact .refl _
  · rename_i x hx
    split_ifs with hp hl href
    · exact .refl _
    · exact .refl _
    · exact .refl _
    · exact ⟨.single (.free _ g x hx (by simpa using hl)), rfl⟩

/-- The arbiter's ways with a new job: SUSPENDED; RECEIVING in a place that is free; RECEIVING once a job that was
RECEIVING is SUSPENDED (R129). -/
theorem State.admitJob_cases (j : Job) :
    (∃ st, { j with state := st }.isSuspended = true
      ∧ (s.admitJob p j).1 = s.setOvm (s.ovm.setJob p (some { j with state := st })))
    ∨ (s.ovm.jobs.firstJob Job.isVerifying = none ∧ s.ovm.jobs.firstJob Job.isReceiving = none
      ∧ (s.admitJob p j).1 = s.setOvm (s.ovm.setJob p (some { j with state := .receiving receiveTime })))
    ∨ ∃ q k, s.ovm.jobs.get q = some k ∧ k.isReceiving = true ∧ Port.number p < Port.number q
      ∧ s.ovm.jobs.firstJob Job.isVerifying = none ∧ s.ovm.jobs.firstJob Job.isReceiving = some (q, k)
      ∧ (s.admitJob p j).1 = (s.setOvm ((s.ovm.setJob q (some { k with state := .suspended })).setJob p
          (some { j with state := .receiving receiveTime }))).raiseTo q .loadSuspended k.region.val 0 := by
  unfold State.admitJob
  split
  · exact .inl ⟨.suspended, rfl, rfl⟩
  · rename_i hv
    have hv : s.ovm.jobs.firstJob Job.isVerifying = none := by simpa using hv
    split
    · exact .inr (.inl ⟨hv, ‹_›, rfl⟩)
    · rename_i q k found
      split
      · obtain ⟨hk, hr⟩ := PerPort.firstJob_some found
        exact .inr (.inr ⟨q, k, hk, hr, ‹_›, hv, found, rfl⟩)
      · exact .inl ⟨.suspended, rfl, rfl⟩

theorem Job.held_cases {j : Job} (h : j.isSuspended = false) : j.isVerifying = true ∨ j.isReceiving = true := by
  unfold Job.isSuspended at h
  unfold Job.isVerifying Job.isReceiving
  cases hs : j.state <;> simp_all

/-- A new job in a region of its port's that it fits (R128, R129). -/
theorem State.admitJob_moves {j : Job} {x : Region} (entry : s.ovm.regions[j.region] = some x) (owner : x.owner = p)
    (none_yet : s.ovm.jobs.get p = none) (fits : j.length ≤ x.count * blockBytes) (cursor : j.cursor = 0) :
    s.engine.Moves ((s.setOvm (s.ovm.setContent j.region .loading)).admitJob p j).1.engine := by
  obtain ⟨st, hst, h⟩ | ⟨hv, hr, h⟩ | ⟨q, k, hk, hr, -, -, -, h⟩ :=
    (s.setOvm (s.ovm.setContent j.region .loading)).admitJob_cases p j <;> rw [h]
  · exact ⟨.single (.openJob _ p { j with state := st } x entry owner none_yet fits cursor
      fun hs => absurd hst (by rw [hs]; exact Bool.false_ne_true)), rfl⟩
  · refine ⟨.single (.openJob _ p { j with state := .receiving receiveTime } x entry owner none_yet fits cursor ?_),
      rfl⟩
    rintro - q ⟨k, hk, hs⟩
    obtain h | h := Job.held_cases hs
    · exact absurd h (by rw [PerPort.firstJob_none.mp hv q k hk]; exact Bool.false_ne_true)
    · exact absurd h (by rw [PerPort.firstJob_none.mp hr q k hk]; exact Bool.false_ne_true)
  · exact ⟨.single (.openOver _ p { j with state := .receiving receiveTime } x q k entry owner none_yet fits cursor hk
      (Job.receiving_place hr).1), rfl⟩

theorem openLoadRegion_moves (g : Fin 16) : s.engine.Moves (openLoadRegion p r s g).engine := by
  unfold openLoadRegion
  split
  · exact .refl _
  · rename_i x hx
    dsimp only
    split_ifs with hp hj hl href
    iterate 4 exact .refl _
    exact s.admitJob_moves p (j := ⟨g, r.num 1 4, BitVec.ofNat 32 (r.num 5 4), 0, 0#8, .suspended, true⟩) hx
      (by simpa using hp) (by simpa using hj) (Nat.not_lt.mp fun h => hl (.inr h)) rfl

/-! ## Drawing a line, and the events of a counter value -/

theorem Overlay.readWords_moves (base : Nat) : ∀ (ws : List Nat) (o : Overlay), o.Moves (o.readWords base ws).1
  | [], _ => .refl
  | w :: ws, o => by
    unfold Overlay.readWords
    split
    · exact Overlay.readWords_moves base ws o
    · exact .head (.correct o _ ‹_›) (Overlay.readWords_moves base ws (o.correct (base / 8 + w)))
    · exact .refl

theorem State.readBitmap_moves (y : Nat) (e : PlanEntry) (b : BitmapPart) :
    s.engine.Moves (s.readBitmap y e b).1.engine := by
  unfold State.readBitmap
  dsimp only
  split
  · exact .refl _
  · split
    · exact .refl _
    · rename_i g _
      split
      · exact .refl _
      · have read := Overlay.readWords_moves g.base
          (lineWords ((y - e.record.destY) * b.width) (min e.record.destW b.width)) s.ovm
        split
        · rename_i o h
          rw [h] at read
          exact ⟨read, rfl⟩
        · rename_i o w h
          rw [h] at read
          exact ⟨.tail read (.fault o b.region), rfl⟩

theorem State.readEntry_moves (y : Nat) (e : PlanEntry) : s.engine.Moves (s.readEntry y e).1.engine := by
  unfold State.readEntry
  split
  · exact s.readBitmap_moves y e _
  all_goals exact .refl _

theorem State.readEntries_moves (y : Nat) : ∀ (es : List PlanEntry) (s : State),
    s.engine.Moves (s.readEntries y es).1.engine
  | [], _ => .refl _
  | e :: es, s => (s.readEntry_moves y e).trans (State.readEntries_moves y es (s.readEntry y e).1)

theorem State.drawLine_moves (y : Nat) : s.engine.Moves (s.drawLine y).engine := by
  unfold State.drawLine
  split
  · rename_i plan _ _
    exact State.readEntries_moves y plan.entries s
  all_goals exact .refl _

@[simp] theorem State.sendMetadata_engine (b : Bool) : (s.sendMetadata b).engine = s.engine := by
  simp [State.engine]

@[simp] theorem State.fireTop_engine (a b : Bool) : (s.fireTop a b).engine = s.engine := by
  simp [State.engine]

@[simp] theorem State.strobe_engine : s.strobe.engine = s.engine := rfl

@[simp] theorem State.blankAndCommit_engine (o : LineOrder) : (s.blankAndCommit o).engine = s.engine := by
  simp [State.engine]

theorem State.canvasLine_moves : s.engine.Moves s.canvasLine.engine := by
  unfold State.canvasLine
  dsimp only
  have drawn : s.engine.Moves (if s.ftb.line < 720 then s.drawLine s.ftb.line else s).engine := by
    split
    · exact s.drawLine_moves _
    · exact .refl _
  split
  · rwa [State.sendMetadata_engine]
  · exact drawn

/-- Of a counter value's events, drawing a line alone touches Overlay Memory (R51, R152). -/
theorem State.lineEvents_moves (a b : Bool) (o : LineOrder) : s.engine.Moves (s.lineEvents a b o).engine := by
  unfold State.lineEvents
  dsimp only
  have top : (if s.ftb.line = 0 then s.fireTop a b else s).engine = s.engine := by split <;> simp
  have drawn := top ▸ State.canvasLine_moves (if s.ftb.line = 0 then s.fireTop a b else s)
  split
  · rwa [State.blankAndCommit_engine, State.strobe_engine]
  · rwa [State.strobe_engine, State.blankAndCommit_engine]

/-- A step of the timebase begins with the errors that have come about (log 8). -/
theorem State.openStep_moves (us : List Upset) : s.engine.Moves (s.openStep us).engine :=
  ⟨.single (.suffer _ us), rfl⟩

theorem State.startRun_moves (out : Surroundings) : s.engine.Moves (s.startRun out).engine := by
  rw [State.startRun_eq]
  refine EngineView.Moves.trans ?_ (State.lineEvents_moves (s.readyToRun out) _ _ _)
  exact ⟨.single (by rw [State.engine, State.engine, State.readyToRun_ovm]; exact .suffer _ _),
    s.readyToRun_pending out⟩

theorem State.wakeUp_moves_engine (meets : Waking) : s.engine.Moves (s.wakeUp meets).engine := by
  refine EngineView.Moves.trans (.of_eq ?_) (State.startRun_moves _ meets.out)
  rw [State.inputEvents_engine]
  rfl

theorem State.endBoot_moves (out : Surroundings) : s.engine.Moves (s.endBoot out).engine := by
  have settled : (s.settleFitting.setScn s.settleFitting.scn.endBoot).engine = s.engine := by
    rw [State.setScn_engine, State.settleFitting_engine]
  unfold State.endBoot
  dsimp only
  rw [State.announce_engine, ← settled]
  exact State.startRun_moves _ out

end Updates

/-! ## The commands -/

/-- The commands that can move Overlay Memory, its regions or its jobs. -/
def Instr.movesOverlay : Instr → Bool
  | .deviceReset _ | .bootEnd _ | .lineEnd _ _ | .wakeIn _ | .wake _ _ _ | .verificationEnd _ | .receiveTimeout
  | .resetPort _ | .alloc _ | .free _ | .openLoad _ | .loadData _ | .abortLoad _ | .eccClear _ => true
  | _ => false

/-- Every other command answers a next state with Overlay Memory as it was. -/
theorem exec_answers_same {c : Instr} (hc : Instr.movesOverlay c = false) (s : State) : s.Answers (exec c s) := by
  cases c with
  | deviceReset | bootEnd | lineEnd | wakeIn | wake | verificationEnd | receiveTimeout | resetPort | alloc | free
  | openLoad | loadData | abortLoad | eccClear => cases hc
  | readLayer p =>
    simp only [exec, execReadLayer]
    exact serve_answers s p fun r => onSlot_answers _ p r rfl fun i => rfl
  | claim p | seize p | release p | edit p | force p =>
    simp only [exec, execClaim, execSeize, execRelease, execEdit, execForce]
    refine serve_answers s p fun r => onSlot_answers (s.taken p) p r rfl fun i => ?_
    simp only [claimSlot, seizeSlot, releaseSlot, editSlot, forceSlot]
    repeat' split
    all_goals rfl
  | identify p | readSignals p | readMarkers p | readRegions p | cameraStatus p | clearMarks p | resync p | subscribe p
  | discard p | commit p | setInput p | speed p | setSpeedBands p | setVirtual p | unmark p | setPalette p | run p
  | quiet p | storeFitting p | mark p | setNear p | setPeriod p | setCommitLine p | setStrobe p | setGenlock p
  | cameraRestart p | dormant p =>
    simp only [exec, acceptTimebase, execIdentify, execReadSignals, execReadMarkers, execReadRegions,
      execCameraStatus, execClearMarks, execResync, execSubscribe, execDiscard, execCommit, execSetInput, execSpeed,
      execSetSpeedBands, execSetVirtual, execUnmark, execSetPalette, execRun, execQuiet, execStoreFitting, execMark,
      execSetNear, execSetPeriod, execSetCommitLine, execSetStrobe, execSetGenlock, execCameraRestart, execDormant]
    refine serve_answers s p fun r => ?_
    repeat' split
    all_goals exact State.answers_same (by simp)
  | transactionEnd p bytes =>
    simp only [exec, execTransactionEnd]
    repeat' split
    all_goals exact State.answers_same (by simp)
  | storeTimerExpiry => exact State.answers_same s.storeTimerExpiry_engine
  | powerOffExpiry k => exact State.answers_same (s.powerOffExpiry_engine k)
  | inputRawChange n level => exact State.answers_same (s.inputEvent_engine (.rawChange n level))
  | debounceExpiry n => exact State.answers_same (s.inputEvent_engine (.debounceExpiry n))
  | speedAgeExpiry => exact State.answers_same s.speedAgeExpiry_engine
  | bootStart => exact State.answers_same rfl
  | transactionStart | unknownKind | storeEnd | dsync | frameStart | cameraLine | frameEnd =>
    simp only [exec, execTransactionStart, execUnknownKind, execStoreEnd, execDsync, execFrameStart, execCameraLine,
      execFrameEnd]
    repeat' split
    all_goals exact State.answers_same (by simp)

/-- LOAD_DATA answers a next state, or faults where a chunk within the job would be written past the end (R131,
log 27). -/
theorem exec_loadData_cases (p : Port) (s : State) : s.Answers (exec (.loadData p) s)
    ∨ exec (.loadData p) s = .fault .overlayAddress
      ∧ ∃ j n, s.ovm.jobs.get p = some j ∧ j.cursor + n ≤ j.length ∧ overlayBytes < s.ovm.jobBase j + j.cursor + n := by
  obtain ⟨-, h⟩ | ⟨r, -, ⟨c, i, h⟩ | ⟨-, -, -, h⟩⟩ := serve_cases s p (rfl : execLoadData p s = _) <;>
    simp only [exec, h]
  · exact .inl (State.answers_same rfl)
  · exact .inl (State.answers_same rfl)
  · split
    · exact .inl (State.answers_same rfl)
    · rename_i j hj
      split_ifs with hlen hv hs hseq hpast haddr hend
      iterate 5 exact .inl (State.answers_same rfl)
      · exact .inr ⟨rfl, j, _, hj, by omega, haddr⟩
      all_goals
        refine .inl (State.answers_next ⟨.tail
          (.single (.write _ (s.ovm.jobBase j + j.cursor) (r.payload.drop 1) (Nat.not_lt.mp haddr)))
          (.job _ p j _ hj rfl rfl (.inr (Nat.not_lt.mp hpast)) (absurd · hs)), rfl⟩)

/-- Every command but LOAD_DATA answers a next state. -/
theorem exec_answers {c : Instr} (hc : ∀ p, c ≠ .loadData p) (s : State) : s.Answers (exec c s) := by
  by_cases hm : Instr.movesOverlay c = false
  · exact exec_answers_same hm s
  · cases c with
    | deviceReset campop => exact State.answers_next ⟨.single (.reset _ _), rfl⟩
    | bootEnd out =>
      simp only [exec, execBootEnd]
      split
      · exact State.answers_next (s.endBoot_moves out)
      · exact State.answers_same rfl
    | lineEnd out order =>
      simp only [exec, execLineEnd]
      split
      · exact State.answers_same rfl
      · exact State.answers_next ((s.openStep_moves out.upsets).trans (State.lineEvents_moves (s.arrived out) _ _ _))
    | wakeIn meets =>
      simp only [exec, execWakeIn]
      split
      · exact State.answers_next (by rw [State.announce_engine]; exact s.wakeUp_moves_engine meets)
      · exact State.answers_same rfl
    | wake p meets replyFirst =>
      simp only [exec, execWake]
      refine serve_answers s p fun r => ?_
      split_ifs
      · exact State.answers_same rfl
      · refine State.answers_next ?_
        rw [State.announce_engine]
        exact ((s.taken p).done p r []).wakeUp_moves_engine meets
      · refine State.answers_next ?_
        rw [State.done_engine, State.announce_engine]
        exact (s.taken p).wakeUp_moves_engine meets
    | verificationEnd us => exact State.answers_next (s.verificationEnd_moves us)
    | receiveTimeout => exact State.answers_next s.receiveTimeout_moves
    | resetPort p =>
      simp only [exec, execResetPort]
      refine serve_answers s p fun r => State.answers_next ?_
      rw [State.done_engine]
      exact State.resetBlocks_moves ((s.taken p).modPort p PortState.clear) p
    | alloc p =>
      simp only [exec, execAlloc]
      refine serve_answers s p fun r => ?_
      split_ifs with hn
      · exact State.answers_same rfl
      · split
        · rename_i g b entry run
          exact State.answers_next ⟨.single (.alloc _ g _ b p entry run (by omega)), rfl⟩
        · exact State.answers_same rfl
    | free p =>
      simp only [exec, execFree]
      refine serve_answers s p fun r => ?_
      split
      · exact State.answers_same rfl
      · exact State.answers_next (freeRegion_moves (s.taken p) p r _)
    | openLoad p =>
      simp only [exec, execOpenLoad]
      refine serve_answers s p fun r => ?_
      split
      · exact State.answers_same rfl
      · exact State.answers_next (openLoadRegion_moves (s.taken p) p r _)
    | abortLoad p =>
      simp only [exec, execAbortLoad]
      refine serve_answers s p fun r => ?_
      split
      · exact State.answers_same rfl
      · rename_i j hj
        split_ifs
        · exact State.answers_same rfl
        · exact State.answers_next (State.endJob_moves (s.taken p) p hj nofun)
    | eccClear p =>
      simp only [exec, execEccClear]
      exact serve_answers s p fun r => State.answers_next ⟨.single (.clearCount _), rfl⟩
    | loadData p => exact absurd rfl (hc p)
    | _ => exact absurd rfl hm

/-- Every command that answers a next state moves Overlay Memory in its ways and leaves the queue. -/
theorem exec_moves_engine {c : Instr} {s t : State} (h : exec c s = .next t) : s.engine.Moves t.engine := by
  have answered : s.Answers (exec c s) ∨ exec c s = .fault .overlayAddress := by
    by_cases hc : ∃ p, c = .loadData p
    · obtain ⟨p, rfl⟩ := hc
      exact (exec_loadData_cases p s).imp_right And.left
    · exact .inl (exec_answers (fun p e => hc ⟨p, e⟩) s)
  obtain ⟨u, hu, moved⟩ | hf := answered
  · rw [h] at hu
    cases hu
    exact moved
  · rw [h] at hf
    cases hf

/-! ## A millisecond of the part's own clock (log 2) -/

theorem State.tickReceive_moves (s : State) : s.engine.Moves s.tickReceive.engine := by
  obtain ⟨-, h⟩ | ⟨p, j, a, found, -, h⟩ := s.tickReceive_cases <;> rw [h]
  · exact .refl _
  · obtain ⟨hj, hr⟩ := PerPort.firstJob_some found
    split
    · exact ⟨.single (.job _ p j { j with state := .receiving (a - 1) } hj rfl rfl (.inl rfl)
        fun hs => by rw [(Job.receiving_place hr).1] at hs; cases hs), rfl⟩
    · exact State.endJob_moves (s.raiseTo p .loadTimeout j.region.val 0) p hj nofun

theorem State.tickVerify_moves (s : State) : s.engine.Moves s.tickVerify.engine := by
  obtain ⟨-, h⟩ | ⟨p, j, a, tag, found, -, h⟩ := s.tickVerify_cases <;> rw [h]
  · exact .refl _
  · obtain ⟨hj, hv⟩ := PerPort.firstJob_some found
    split
    · exact ⟨.single (.job _ p j { j with state := .verifying (a - 1) tag } hj rfl rfl (.inl rfl)
        fun hs => by rw [(Job.verifying_place hv).1] at hs; cases hs), rfl⟩
    · exact s.finishVerification_moves p tag [] hj

/-- The receive timer and verification alone touch the engine in a millisecond. -/
theorem State.tick_moves (s : State) : s.engine.Moves s.tick.engine := by
  cases hr : s.pins.resetLow with
  | true =>
    rw [State.tick_of_reset_low hr]
    exact .refl _
  | false =>
    obtain ⟨inputs, pending, hinputs⟩ := s.tickInputs_changes
    obtain ⟨c, x, hspeed, -⟩ := s.tickInputs.tickSpeed_spec
    obtain ⟨k, hcameras⟩ := s.tickInputs.tickSpeed.tickCameras_changes
    obtain ⟨f, y, hstore, -⟩ := s.tickInputs.tickSpeed.tickCameras.tickReceive.tickVerify.tickStore_spec
    have before : s.tickInputs.tickSpeed.tickCameras.engine = s.engine := by
      rw [hcameras, hspeed, hinputs]
      rfl
    rw [State.tick_of_reset_high hr, hstore, State.setPorts_engine, State.setFst_engine, ← before]
    exact (State.tickReceive_moves _).trans (State.tickVerify_moves _)

/-- Everything a step does to Overlay Memory: the front command or a millisecond moves it. -/
theorem step_moves_overlay {s t : State} (h : step s = .next t) : s.ovm.Moves t.ovm := by
  unfold step at h
  split at h
  · cases h
    exact s.tick_moves.1
  · rename_i c rest _
    exact (exec_moves_engine (s := s.setPending rest) h).1

/-! ## The obligations -/

/-- Settles O7: every way Overlay Memory moves keeps its list in the canonical form (`Overlay.Act.memory_wf`), and a
step moves it in these ways. -/
theorem everyStepKeepsMemoryCanonical : Obligations.EveryStepKeepsMemoryCanonical :=
  fun _ _ hs h => (step_moves_overlay h).keeps (P := fun o => o.memory.wf = true) Overlay.Act.memory_wf hs

/-- Settles O11: every way Overlay Memory moves keeps the relations of its regions and jobs
(`Overlay.Act.engineGood`). -/
theorem everyStepKeepsLoadEngine : Obligations.EveryStepKeepsLoadEngine := by
  intro s t hs h
  have good := (Overlay.engineGood_iff s.ovm).mp hs
  exact (Overlay.engineGood_iff t.ovm).mpr ((step_moves_overlay h).keeps
    (P := fun o => BlocksGood o.blocks ∧ JobsFit o.loading o.jobs ∧ o.corrected ≤ 255) Overlay.Act.engineGood good)

/-- Where every job lies within its LOADING region and every region inside the 64 blocks, no chunk of a job lies past
the end of Overlay Memory (R121, R122, R127). -/
theorem Overlay.chunk_inside {o : Overlay} (regions : o.RegionsGood) (jobs : o.JobsGood) {p : Port} {j : Job}
    (hj : o.jobs.get p = some j) {n : Nat} (hn : j.cursor + n ≤ j.length) :
    o.jobBase j + j.cursor + n ≤ overlayBytes := by
  obtain ⟨x, hx, -, -, hlen, -⟩ := jobs.1 p j hj
  have inside := (regions j.region x hx).2
  have base : o.jobBase j = blockBytes * x.first := by simp [Overlay.jobBase, hx, Region.base]
  simp only [blockBytes, overlayBytes] at *
  omega

/-- Settles O2: every command but LOAD_DATA answers a next state (`exec_answers`), and what LOAD_DATA faults for
(`exec_loadData_cases`) does not lie within a job of a good state. -/
theorem noCommandStops : Obligations.NoCommandStops := by
  have answers : ∀ (c : Instr) (s : State), s.Answers (exec c s)
      ∨ ∃ p, c = .loadData p ∧ exec c s = .fault .overlayAddress := by
    intro c s
    by_cases hc : ∃ p, c = .loadData p
    · obtain ⟨p, rfl⟩ := hc
      exact (exec_loadData_cases p s).imp_right fun h => ⟨p, rfl, h.1⟩
    · exact .inl (exec_answers (fun p e => hc ⟨p, e⟩) s)
  have total : ∀ s : State, s.ovm.RegionsGood → s.ovm.JobsGood → ∀ c, ∃ t, exec c s = .next t := by
    intro s regions jobs c
    by_cases hc : ∃ p, c = .loadData p
    · obtain ⟨p, rfl⟩ := hc
      obtain ⟨t, ht, -⟩ | ⟨-, j, n, hj, hn, past⟩ := exec_loadData_cases p s
      · exact ⟨t, ht⟩
      · exact absurd (Overlay.chunk_inside regions jobs hj hn) (Nat.not_le.mpr past)
    · obtain ⟨t, ht, -⟩ := exec_answers (fun p e => hc ⟨p, e⟩) s
      exact ⟨t, ht⟩
  refine ⟨fun c s => ⟨fun r hr => ?_, fun f hf => ?_, fun t ht => (exec_moves_engine ht).2⟩, fun s regions jobs =>
    ⟨total s regions jobs, ?_⟩⟩
  · obtain ⟨t, ht, -⟩ | ⟨p, -, h⟩ := answers c s
    · rw [hr] at ht
      cases ht
    · rw [hr] at h
      cases h
  · obtain ⟨t, ht, -⟩ | ⟨p, hp, -⟩ := answers c s
    · rw [hf] at ht
      cases ht
    · exact ⟨p, hp⟩
  · unfold step
    split
    · exact ⟨_, rfl⟩
    · rename_i c rest _
      exact total (s.setPending rest) regions jobs c

end Sys2Proof.Machine

/-! The Region Table's requests and OPEN_LOAD (R122 to R129, R137): one equation for each request, and what the lowest
free run, the lowest free entry and the arbiter's place are. -/

namespace Sys2Proof.Machine

/-! ## Runs and entries as the rules state them (R124) -/

theorem regionOf_val (g : Fin 16) : regionOf g.val = some g := dif_pos g.isLt

theorem regionOf_eq_none {n : Nat} (h : 15 < n) : regionOf n = none := dif_neg (by omega)

section Runs

variable {o : Overlay} {n : Nat} {free run : Nat → Prop}

/-- A run of free blocks in the rule's words and in the model's. -/
theorem run_iff (hfree : ∀ b, free b ↔ ∀ (g : Fin 16) (x : Region), o.regions[g] = some x →
      ¬ (x.first ≤ b ∧ b < x.first + x.count))
    (hrun : ∀ b, run b ↔ b + n ≤ 64 ∧ ∀ i, i < n → free (b + i)) (b : Nat) :
    run b ↔ b < 65 - n ∧ ∀ i, i < n → o.blockFree (b + i) = true := by
  rw [hrun]
  refine and_congr (by omega) (forall₂_congr fun i _ => ?_)
  rw [hfree, o.blockFree_iff]

theorem freeRun_of_lowest {b : Nat} (hrun : ∀ b, run b ↔ b < 65 - n ∧ ∀ i, i < n → o.blockFree (b + i) = true)
    (hb : run b) (lowest : ∀ c, c < b → ¬ run c) : o.freeRun n = some b := by
  rw [hrun] at hb
  refine o.freeRun_eq_some.mpr ⟨hb, fun c hc all => lowest c hc ((hrun c).mpr ⟨by omega, all⟩)⟩

theorem freeRun_of_none (hrun : ∀ b, run b ↔ b < 65 - n ∧ ∀ i, i < n → o.blockFree (b + i) = true)
    (none_runs : ∀ b, ¬ run b) : o.freeRun n = none :=
  o.freeRun_eq_none.mpr fun b hb all => none_runs b ((hrun b).mpr ⟨hb, all⟩)

theorem freeEntry_of_lowest {g : Fin 16} (hg : o.regions[g] = none)
    (below : ∀ h : Fin 16, h < g → o.regions[h] ≠ none) : o.freeEntry = some g :=
  find_finRange_of_lowest (by rw [hg]; rfl) fun h hh => by
    simpa [← Option.isSome_iff_ne_none] using below h hh

theorem freeEntry_of_full (h : ∀ g : Fin 16, o.regions[g] ≠ none) : o.freeEntry = none := by
  rw [Overlay.freeEntry, List.find?_eq_none]
  exact fun g _ => by simpa [Option.isNone_iff_eq_none] using h g

end Runs

/-! ## The requests -/

section Requests

variable {s : State} {p : Port} {r : Request}

theorem exec_alloc_of_reaches (h : s.Reaches p .alloc r) {n : Nat} (hn : n = (r.arg 0).toNat) : exec (.alloc p) s =
    .next (if n < 1 ∨ 64 < n then s.replied p r .badField 0x01#8 []
      else match s.ovm.freeEntry, s.ovm.freeRun n with
        | some g, some b => (s.setOvm (s.ovm.setRegion g (some ⟨b, n, p, .empty⟩))).replied p r .done 0#8
            [byte g.val, byte b, byte n]
        | _, _ => s.replied p r .noSpace 0#8 []) := by
  subst hn
  simp only [exec, execAlloc, serve_of_reaches s p h, State.taken_ovm, State.taken_badField, State.taken_refuse,
    State.taken_setOvm, State.taken_done]
  split_ifs
  · rfl
  · cases s.ovm.freeEntry with
    | none => rfl
    | some g => cases s.ovm.freeRun (r.arg 0).toNat <;> rfl

theorem exec_free_no_region (h : s.Reaches p .free r) (hn : 15 < (r.arg 0).toNat) :
    exec (.free p) s = .next (s.replied p r .badField 0x01#8 []) := by
  simp only [exec, execFree, serve_of_reaches s p h, regionOf_eq_none hn, State.taken_badField]

theorem exec_free_of_region (h : s.Reaches p .free r) {g : Fin 16} (hg : (r.arg 0).toNat = g.val) :
    exec (.free p) s = .next (match s.ovm.regions[g] with
      | none => s.replied p r .notOwner 0#8 []
      | some x =>
        if x.owner ≠ p then s.replied p r .notOwner 0#8 []
        else if x.isLoading then s.replied p r .busy 0#8 []
        else if s.ltb.references g then s.replied p r .inUse 0#8 []
        else (s.setOvm (s.ovm.setRegion g none)).replied p r .done 0#8 []) := by
  cases hx : s.ovm.regions[g] <;>
    simp only [exec, execFree, serve_of_reaches s p h, hg, regionOf_val, freeRegion, hx, State.taken_ovm,
      State.taken_ltb, State.taken_refuse, State.taken_setOvm, State.taken_done]

theorem exec_eccClear_of_reaches (h : s.Reaches p .eccClear r) : exec (.eccClear p) s =
    .next ((s.setOvm { s.ovm with corrected := 0 }).replied p r .done 0#8 [byte s.ovm.corrected]) := by
  simp only [exec, execEccClear, serve_of_reaches s p h, State.taken_ovm, State.taken_setOvm, State.taken_done]

end Requests

/-- Settles O44: the equation of each request, with the free runs and entries and the references in the rules' words. -/
theorem regionRequestsByRule : Obligations.RegionRequestsByRule := by
  rintro p s r n hn free hfree run hrun referenced hreferenced
  have references : ∀ g, s.ltb.references g = true ↔ referenced g := fun g =>
    (s.ltb.references_iff g).trans (hreferenced g).symm
  refine ⟨fun h => ?alloc, fun h => ⟨fun big => exec_free_no_region h (hn ▸ big), fun g hg => ?free⟩,
    exec_eccClear_of_reaches⟩
  case alloc =>
    rw [exec_alloc_of_reaches h hn]
    have runs := run_iff hfree hrun
    refine ⟨fun out => by rw [if_pos out], fun h1 h64 full => ?_, fun g b h1 h64 entry below hb lowest => ?_⟩
    · rw [if_neg (by omega)]
      obtain full | none_runs := full
      · rw [freeEntry_of_full full]
      · rw [freeRun_of_none runs none_runs]
        cases s.ovm.freeEntry <;> rfl
    · rw [if_neg (by omega), freeEntry_of_lowest entry below, freeRun_of_lowest runs hb lowest]
      rfl
  case free =>
    rw [exec_free_of_region h (hn.symm.trans hg)]
    refine ⟨fun other => ?_, fun x hx owner => ?_⟩
    · cases hx : s.ovm.regions[g] with
      | none => rfl
      | some x => exact congrArg _ (if_pos (other x hx))
    · rw [hx]
      dsimp only
      rw [if_neg (not_not.mpr owner)]
      rw [ne_eq, ← Region.isLoading_iff, ← references]
      exact ⟨fun hl => by rw [if_pos hl], fun hl href => by rw [if_neg hl, if_pos href],
        fun hl href => by rw [if_neg hl, if_neg href]; rfl⟩

/-! ## The arbiter's place for a new job (R129) -/

section Arbiter

variable {s : State} {p q : Port} {j k : Job}

theorem State.taken_admitJob (s : State) (p q : Port) (j : Job) :
    (s.taken q).admitJob p j = ((s.admitJob p j).1.taken q, (s.admitJob p j).2) := by
  unfold State.admitJob
  simp only [State.taken_ovm, State.taken_setOvm, State.taken_raiseTo]
  split
  · rfl
  · split
    · rfl
    · split <;> rfl

theorem State.admitJob_to_free_place (h : ∀ q k, s.ovm.jobs.get q = some k → k.isSuspended = true) :
    s.admitJob p j = (s.setOvm (s.ovm.setJob p (some { j with state := .receiving receiveTime })),
      .receiving receiveTime) := by
  have verifying := PerPort.firstJob_none.mpr fun q k hk => (Job.suspended_place (h q k hk)).2
  have receiving := PerPort.firstJob_none.mpr fun q k hk => (Job.suspended_place (h q k hk)).1
  simp [State.admitJob, verifying, receiving]

variable (place : ∀ p q, s.ovm.holdsPlace p → s.ovm.holdsPlace q → p = q) (hk : s.ovm.jobs.get q = some k)

include place hk

theorem State.admitJob_to_held_place
    (h : k.isVerifying = true ∨ k.isReceiving = true ∧ Port.number q < Port.number p) :
    s.admitJob p j = (s.setOvm (s.ovm.setJob p (some { j with state := .suspended })), .suspended) := by
  obtain hv | ⟨hr, rank⟩ := h
  · have found := Overlay.firstJob_of_place place (fun i hi => (Job.verifying_place hi).1) hk hv
    simp [State.admitJob, found]
  · obtain ⟨hs, hv⟩ := Job.receiving_place hr
    have unfound := Overlay.firstJob_eq_none_of_place place (fun i hi => (Job.verifying_place hi).1) hk hs hv
    have found := Overlay.firstJob_of_place place (fun i hi => (Job.receiving_place hi).1) hk hr
    simp [State.admitJob, unfound, found, Nat.not_lt.mpr rank.le]

theorem State.admitJob_over_lower_rank (hr : k.isReceiving = true) (rank : Port.number p < Port.number q) :
    s.admitJob p j = ((s.setOvm ((s.ovm.setJob q (some { k with state := .suspended })).setJob p
      (some { j with state := .receiving receiveTime }))).raiseTo q .loadSuspended k.region.val 0,
        .receiving receiveTime) := by
  obtain ⟨hs, hv⟩ := Job.receiving_place hr
  have unfound := Overlay.firstJob_eq_none_of_place place (fun i hi => (Job.verifying_place hi).1) hk hs hv
  have found := Overlay.firstJob_of_place place (fun i hi => (Job.receiving_place hi).1) hk hr
  simp [State.admitJob, unfound, found, rank]

end Arbiter

/-! ## OPEN_LOAD (R128) -/

section OpenLoad

variable {s : State} {p : Port} {r : Request} {g : Fin 16}

theorem exec_openLoad_no_region (h : s.Reaches p .openLoad r) (hn : 15 < (r.arg 0).toNat) :
    exec (.openLoad p) s = .next (s.replied p r .badField 0x01#8 []) := by
  simp only [exec, execOpenLoad, serve_of_reaches s p h, regionOf_eq_none hn, State.taken_badField]

theorem exec_openLoad_not_owner (h : s.Reaches p .openLoad r) (hg : (r.arg 0).toNat = g.val)
    (other : ∀ x, s.ovm.regions[g] = some x → x.owner ≠ p) :
    exec (.openLoad p) s = .next (s.replied p r .notOwner 0#8 []) := by
  simp only [exec, execOpenLoad, serve_of_reaches s p h, hg, regionOf_val, openLoadRegion, State.taken_ovm,
    State.taken_refuse]
  cases hx : s.ovm.regions[g] with
  | none => rfl
  | some x => exact congrArg _ (if_pos (other x hx))

/-- The checks of R128 on a region of the port's own, then the arbiter. -/
theorem exec_openLoad_of_owner (h : s.Reaches p .openLoad r) (hg : (r.arg 0).toNat = g.val) {x : Region}
    (hx : s.ovm.regions[g] = some x) (owner : x.owner = p) {length : Nat} {crc : Word32}
    (hlength : length = fromLe ((r.payload.drop 1).take 4))
    (hcrc : crc = BitVec.ofNat 32 (fromLe ((r.payload.drop 5).take 4))) : exec (.openLoad p) s = .next (
      if (s.ovm.jobs.get p).isSome then s.replied p r .busy 0#8 []
      else if length < 1 ∨ x.count * 4096 < length then s.replied p r .badField 0x02#8 []
      else if s.ltb.references g = true ∧ x.isFaulted = false then s.replied p r .inUse 0#8 []
      else
        let t := (s.setOvm (s.ovm.setContent g .loading)).admitJob p
          ⟨g, length, crc, 0, 0#8, .suspended, true⟩
        t.1.replied p r .done 0#8 [byte t.2.number, 0#8]) := by
  subst hlength hcrc
  simp only [exec, execOpenLoad, serve_of_reaches s p h, hg, regionOf_val, openLoadRegion, State.taken_ovm, hx, owner,
    State.taken_ltb, State.taken_refuse, State.taken_badField, State.taken_setOvm, State.taken_admitJob,
    State.taken_done, ne_eq, not_true_eq_false, if_false]
  rfl

theorem Region.isFaulted_iff (x : Region) : x.isFaulted = true ↔ ∃ c, x.content = .faulted c := by
  unfold Region.isFaulted
  cases x.content <;> simp

end OpenLoad

/-- Settles O45: the checks in order (`exec_openLoad_of_owner`), then the arbiter's three ways, which exclude each other
where one job at most holds the place. -/
theorem openLoadByRule : Obligations.OpenLoadByRule := by
  refine ⟨fun p s r h big => exec_openLoad_no_region h big, ?_⟩
  rintro p s r g length crc h hg hlength hcrc ⟨-, -, place⟩ referenced hreferenced
  refine ⟨exec_openLoad_not_owner h hg, fun x hx owner => ?_⟩
  have references : s.ltb.references g = true ↔ referenced := (s.ltb.references_iff g).trans hreferenced.symm
  rw [exec_openLoad_of_owner h hg hx owner hlength hcrc]
  refine ⟨fun busy => if_pos (Option.isSome_iff_ne_none.mpr busy) ▸ rfl, fun idle => ?_⟩
  rw [if_neg (by simp [idle])]
  refine ⟨fun long => if_pos long ▸ rfl, fun h1 hlen => ?_⟩
  rw [if_neg (not_or.mpr ⟨Nat.not_lt.mpr h1, Nat.not_lt.mpr hlen⟩)]
  refine ⟨fun href unfaulted => ?_, fun free => ?_⟩
  · have unfaulted : x.isFaulted = false := by
      rw [← Bool.not_eq_true, Region.isFaulted_iff]
      exact fun ⟨c, hc⟩ => unfaulted c hc
    rw [if_pos ⟨references.mpr href, unfaulted⟩]
  rw [if_neg fun ⟨href, unfaulted⟩ => free.elim (fun hn => hn (references.mp href))
    fun hf => Bool.false_ne_true (unfaulted.symm.trans (x.isFaulted_iff.mpr hf))]
  rintro o job rfl rfl
  have loading : s.ovm.setContent g .loading
      = { s.ovm with regions := s.ovm.regions.set g (some ⟨x.first, x.count, p, .loading⟩) } := by
    rw [Overlay.setContent, hx, ← owner]
    rfl
  rw [← loading]
  refine ⟨fun waiting => ?_, fun q k hk held => ?_, fun q k hk hr rank => ?_⟩
  · rw [State.admitJob_to_free_place (by exact waiting)]
    rfl
  · rw [State.admitJob_to_held_place (by exact place) (by exact hk) held]
    rfl
  · rw [State.admitJob_over_lower_rank (by exact place) (by exact hk) hr rank]
    rfl

end Sys2Proof.Machine

/-! LOAD_DATA and ABORT_LOAD (R131 to R133): the checks in order, what an accepted chunk leaves of Overlay Memory and of
its job, and where ABORT_LOAD is refused. -/

namespace Sys2Proof.Machine

section LoadData

variable {s : State} {p : Port} {r : Request} {j : Job} {chunk : List Byte}

theorem exec_loadData_no_job (h : s.Reaches p .loadData r) (hj : s.ovm.jobs.get p = none) :
    exec (.loadData p) s = .next (s.replied p r .wrongState 0#8 []) := by
  simp only [exec, execLoadData, serve_of_reaches s p h, State.taken_ovm, hj, State.taken_refuse]

/-- The checks of R131 on the port's job, in order. -/
theorem exec_loadData_of_job (h : s.Reaches p .loadData r) (hc : chunk = r.payload.drop 1)
    (hj : s.ovm.jobs.get p = some j) : exec (.loadData p) s =
    if chunk.length < 1 ∨ 256 < chunk.length then .next (s.replied p r .badField 0x05#8 [])
    else if j.isVerifying then .next (s.replied p r .busy 0#8 [])
    else if j.isSuspended then .next (s.replied p r .held 0#8 [])
    else if r.arg 0 ≠ j.nextSeq then .next (s.replied p r .sequence 0#8 [j.nextSeq])
    else if j.length < j.cursor + chunk.length then .next (s.replied p r .badField 0x05#8 [])
    else if overlayBytes < s.ovm.jobBase j + j.cursor + chunk.length then .fault .overlayAddress
    else if j.cursor + chunk.length < j.length then
      .next ((s.setOvm (s.ovm.acceptChunk p j r.tag chunk)).replied p r .done 0#8
        (le 4 (j.cursor + chunk.length) ++ [j.nextSeq + 1#8]))
    else .next ((s.setOvm (s.ovm.acceptChunk p j r.tag chunk)).taken p) := by
  subst hc
  simp only [exec, execLoadData, serve_of_reaches s p h, State.taken_ovm, hj, State.taken_refuse, State.taken_badField,
    State.taken_answer, State.taken_setOvm, State.taken_done]

/-- A chunk that passes every check is accepted. -/
theorem exec_loadData_accepted (h : s.Reaches p .loadData r) (hc : chunk = r.payload.drop 1)
    (hj : s.ovm.jobs.get p = some j) (h1 : 1 ≤ chunk.length) (h256 : chunk.length ≤ 256) (hr : j.isReceiving = true)
    (seq : r.arg 0 = j.nextSeq) (fits : j.cursor + chunk.length ≤ j.length)
    (inside : s.ovm.jobBase j + j.cursor + chunk.length ≤ overlayBytes) : exec (.loadData p) s =
    if j.cursor + chunk.length < j.length then
      .next ((s.setOvm (s.ovm.acceptChunk p j r.tag chunk)).replied p r .done 0#8
        (le 4 (j.cursor + chunk.length) ++ [j.nextSeq + 1#8]))
    else .next ((s.setOvm (s.ovm.acceptChunk p j r.tag chunk)).taken p) := by
  obtain ⟨hs, hv⟩ := Job.receiving_place hr
  rw [exec_loadData_of_job h hc hj, if_neg (by omega), if_neg (by simp [hv]), if_neg (by simp [hs]),
    if_neg (not_not.mpr seq), if_neg (Nat.not_lt.mpr fits), if_neg (Nat.not_lt.mpr inside)]

/-- The base of a job's region (R121, R122). -/
theorem Overlay.jobBase_eq {o : Overlay} {x : Region} (hx : o.regions[j.region] = some x) :
    o.jobBase j = 4096 * x.first := by simp [Overlay.jobBase, hx, Region.base, blockBytes]

/-! ABORT_LOAD. -/

theorem exec_abortLoad_of_reaches (h : s.Reaches p .abortLoad r) : exec (.abortLoad p) s =
    match s.ovm.jobs.get p with
    | none => .next (s.replied p r .wrongState 0#8 [])
    | some j =>
      if j.isVerifying then .next (s.replied p r .busy 0#8 [])
      else .next (((s.taken p).endJob p j .empty).done p r (le 4 j.cursor)) := by
  cases hj : s.ovm.jobs.get p <;>
    simp only [exec, execAbortLoad, serve_of_reaches s p h, hj, State.taken_ovm, State.taken_refuse]

end LoadData

/-- Settles O46: the checks in order (`exec_loadData_of_job`); of an accepted chunk, every byte by
`Overlay.byteAt_writeChunk` and every word by `Overlay.readCheck_writeChunk`. -/
theorem loadDataAndAbort : Obligations.LoadDataAndAbort := by
  intro p s r chunk hc
  refine ⟨fun h => ⟨exec_loadData_no_job h, fun j hj => ?_⟩, fun h => ⟨fun hj => ?_, fun j hj hv => ?_⟩⟩
  · have checks := exec_loadData_of_job h hc hj
    refine ⟨fun long => by rw [checks, if_pos long], fun h1 h256 => ?_⟩
    rw [if_neg (by omega)] at checks
    refine ⟨fun hv => by rw [checks, if_pos hv], fun hs => ?_, fun hr seq => ?_, fun hr seq past => ?_,
      fun x hr seq fits hx inside good => ⟨s.ovm.acceptChunk p j r.tag chunk, rfl, rfl, ?bytes, ?words, ?going, ?full⟩⟩
    · rw [checks, if_neg (by simp [Job.suspended_place hs]), if_pos hs]
    · rw [checks, if_neg (by simp [Job.receiving_place hr]), if_neg (by simp [Job.receiving_place hr]), if_pos seq]
    · rw [checks, if_neg (by simp [Job.receiving_place hr]), if_neg (by simp [Job.receiving_place hr]),
        if_neg (not_not.mpr seq), if_pos past]
    case bytes =>
      rw [← Overlay.jobBase_eq hx]
      exact fun a => s.ovm.byteAt_writeChunk good (s.ovm.jobBase j + j.cursor) a chunk
    case words =>
      rintro w base last rfl rfl
      rw [← Overlay.jobBase_eq hx]
      exact s.ovm.readCheck_writeChunk good (s.ovm.jobBase j + j.cursor) chunk h1 w
    all_goals
      intro hlen
      rw [← Overlay.jobBase_eq hx] at inside
      rw [exec_loadData_accepted h hc hj h1 h256 hr seq fits inside]
      unfold Overlay.acceptChunk
      dsimp only
    case going =>
      simp only [if_pos hlen]
      exact ⟨trivial, rfl⟩
    case full =>
      simp only [hlen, lt_irrefl, if_false]
      exact ⟨trivial, rfl⟩
  · rw [exec_abortLoad_of_reaches h, hj]
  · rw [exec_abortLoad_of_reaches h, hj]
    exact if_pos hv

end Sys2Proof.Machine

/-! The end of a load job (R130 to R137): which job resumes and what its port is told, then the three ends, ABORT_LOAD,
RECEIVE_TIMEOUT and VERIFICATION_END, with what verification finds and corrects. -/

namespace Sys2Proof.Machine

/-! ## The job that resumes (R130) -/

/-- The job that resumes as port `p`'s job `j` ends: none if `j` waited itself, else the one of highest rank that
waits. -/
def PerPort.resumes (jobs : PerPort (Option Job)) (p : Port) (j : Job) : Option (Port × Job) :=
  if j.isSuspended then none else (jobs.set p none).firstJob Job.isSuspended

/-- The port of the job that resumes is told (R136). -/
def State.tellResumed : Option (Port × Job) → State → State
  | none, u => u
  | some (q, k), u => u.raiseTo q .loadResumed k.region.val 0

/-- Overlay Memory's block after the end of a job, the next one resumed. -/
def Overlay.endedJob (o : Overlay) (p : Port) (j : Job) (c : RegionContent) : Overlay :=
  match o.jobs.resumes p j with
  | none => (o.setContent j.region c).setJob p none
  | some (q, k) =>
    ((o.setContent j.region c).setJob p none).setJob q (some { k with state := .receiving receiveTime })

theorem State.endJob_eq (s : State) (p : Port) (j : Job) (c : RegionContent) :
    s.endJob p j c = State.tellResumed (s.ovm.jobs.resumes p j) (s.setOvm (s.ovm.endedJob p j c)) := by
  unfold State.endJob State.resumeNext Overlay.endedJob PerPort.resumes
  dsimp only
  split
  · rfl
  · have jobs : (s.setOvm ((s.ovm.setContent j.region c).setJob p none)).ovm.jobs = s.ovm.jobs.set p none := rfl
    rw [jobs]
    cases (s.ovm.jobs.set p none).firstJob Job.isSuspended <;> rfl

theorem State.tells_tellResumed (x : Option (Port × Job)) : State.Tells (State.tellResumed x) := by
  cases x with
  | none => exact State.tells_id
  | some a =>
    refine ⟨fun _ => rfl, fun {u v} h => ?_⟩
    simp only [State.tellResumed, State.raiseTo, State.modPort, State.alertNow, State.setPorts_ports, h.1, h.2]

@[simp] theorem State.tellResumed_ovm (x : Option (Port × Job)) (u : State) : (State.tellResumed x u).ovm = u.ovm := by
  cases x <;> rfl

theorem State.taken_tellResumed (x : Option (Port × Job)) (p : Port) (u : State) :
    State.tellResumed x (u.taken p) = (State.tellResumed x u).taken p := by
  cases x with
  | none => rfl
  | some a => exact State.taken_raiseTo _ _ _ _ _ _

section Resumes

variable {jobs : PerPort (Option Job)} {p q : Port} {j k : Job}

theorem Port.number_injective {p q : Port} (h : Port.number p = Port.number q) : p = q := by
  cases p <;> cases q <;> first | rfl | cases h

/-- Beside a job that holds the place every other waits (R127). -/
theorem PerPort.waits (place : ∀ p q, jobs.holds p → jobs.holds q → p = q) (hj : jobs.get p = some j)
    (held : j.isSuspended = false) (hq : q ≠ p) (hk : jobs.get q = some k) : k.isSuspended = true := by
  by_contra hs
  exact hq (place q p ⟨k, hk, by simpa using hs⟩ ⟨j, hj, held⟩)

theorem PerPort.resumes_some (place : ∀ p q, jobs.holds p → jobs.holds q → p = q) (hj : jobs.get p = some j)
    (h : jobs.resumes p j = some (q, k)) : j.isSuspended = false ∧ q ≠ p ∧ jobs.get q = some k
      ∧ ∀ r i, r ≠ p → jobs.get r = some i → Port.number q ≤ Port.number r := by
  unfold PerPort.resumes at h
  split at h
  · cases h
  · rename_i held
    have held : j.isSuspended = false := by simpa using held
    obtain ⟨hk, -⟩ := PerPort.firstJob_some h
    rw [PerPort.get_set] at hk
    split at hk
    · cases hk
    · rename_i hq
      refine ⟨held, hq, hk, fun r i hr hi => PerPort.firstJob_least h ?_ (PerPort.waits place hj held hr hi)⟩
      rw [PerPort.get_set_of_ne _ _ _ _ hr, hi]

theorem PerPort.resumes_none (place : ∀ p q, jobs.holds p → jobs.holds q → p = q) (hj : jobs.get p = some j)
    (h : jobs.resumes p j = none) : j.isSuspended = true ∨ ∀ q, q ≠ p → jobs.get q = none := by
  unfold PerPort.resumes at h
  split at h
  · exact .inl ‹_›
  · rename_i held
    refine .inr fun q hq => ?_
    cases hk : jobs.get q with
    | none => rfl
    | some k =>
      have waits := PerPort.waits place hj (by simpa using held) hq hk
      rw [PerPort.firstJob_none.mp h q k (by rw [PerPort.get_set_of_ne _ _ _ _ hq, hk])] at waits
      cases waits

end Resumes

/-! ## A job ended -/

/-- The job is gone and its region holds what is left; where the job held the place, the one of highest rank that waits
goes on RECEIVING, and all others wait as they did (R130). -/
def JobEnded (jobs : PerPort (Option Job)) (p : Port) (j : Job) (u : Overlay) : Prop :=
  u.jobs.get p = none ∧ (∃ x, u.regions[j.region] = some x ∧ x.owner = p
      ∧ (x.content = .empty ∨ (j.isVerifying = true ∧ x.content = .valid j.expected)))
    ∧ (j.isSuspended = true → ∀ q, q ≠ p → u.jobs.get q = jobs.get q)
    ∧ (j.isSuspended = false → ∀ q k, q ≠ p → jobs.get q = some k →
        ((∀ q' k', q' ≠ p → jobs.get q' = some k' → Port.number q ≤ Port.number q') →
          u.jobs.get q = some { k with state := .receiving 2000 })
        ∧ ((∃ q' k', q' ≠ p ∧ jobs.get q' = some k' ∧ Port.number q' < Port.number q) →
          u.jobs.get q = some k))

section Ended

variable {o : Overlay} {p : Port} {j : Job} {x : Region} {c : RegionContent}

theorem Overlay.endedJob_regions (hx : o.regions[j.region] = some x) :
    (o.endedJob p j c).regions[j.region] = some { x with content := c } := by
  have content : (o.setContent j.region c).regions[j.region] = some { x with content := c } := by
    rw [Overlay.setContent_get, if_pos rfl, hx]
    rfl
  unfold Overlay.endedJob
  split <;> exact content

theorem Overlay.endedJob_keeps : (o.endedJob p j c).memory = o.memory ∧ (o.endedJob p j c).errors = o.errors
    ∧ (o.endedJob p j c).epoch = o.epoch ∧ (o.endedJob p j c).corrected = o.corrected := by
  unfold Overlay.endedJob
  split <;> exact ⟨rfl, rfl, rfl, rfl⟩

theorem Overlay.endedJob_get_of_none (h : o.jobs.resumes p j = none) (r : Port) :
    (o.endedJob p j c).jobs.get r = if r = p then none else o.jobs.get r := by
  rw [Overlay.endedJob, h]
  exact Overlay.setJob_get _ _ _ _

theorem Overlay.endedJob_get_of_some {q : Port} {k : Job} (h : o.jobs.resumes p j = some (q, k)) (r : Port) :
    (o.endedJob p j c).jobs.get r = if r = q then some { k with state := .receiving receiveTime }
      else if r = p then none else o.jobs.get r := by
  rw [Overlay.endedJob, h]
  dsimp only
  rw [Overlay.setJob_get, Overlay.setJob_get]
  rfl

theorem Overlay.endedJob_ended (place : ∀ p q, o.jobs.holds p → o.jobs.holds q → p = q) (hj : o.jobs.get p = some j)
    (hx : o.regions[j.region] = some x) (owner : x.owner = p)
    (hc : c = .empty ∨ (j.isVerifying = true ∧ c = .valid j.expected)) : JobEnded o.jobs p j (o.endedJob p j c) := by
  have region : ∃ y, (o.endedJob p j c).regions[j.region] = some y ∧ y.owner = p
      ∧ (y.content = .empty ∨ (j.isVerifying = true ∧ y.content = .valid j.expected)) :=
    ⟨_, Overlay.endedJob_regions hx, owner, hc⟩
  cases h : o.jobs.resumes p j with
  | none =>
    have jobs := Overlay.endedJob_get_of_none (c := c) h
    refine ⟨(jobs p).trans (if_pos rfl), region, fun _ q hq => (jobs q).trans (if_neg hq), fun held q k hq hk => ?_⟩
    obtain hs | none_waits := PerPort.resumes_none place hj h
    · rw [hs] at held
      cases held
    · rw [none_waits q hq] at hk
      cases hk
  | some a =>
    obtain ⟨q, k⟩ := a
    obtain ⟨held, hq, hk, least⟩ := PerPort.resumes_some place hj h
    have jobs := Overlay.endedJob_get_of_some (c := c) h
    refine ⟨by rw [jobs, if_neg hq.symm, if_pos rfl], region, fun hs => ?_,
      fun _ r i hr hi => ⟨fun lowest => ?_, fun ⟨r', i', hr', hi', lower⟩ => ?_⟩⟩
    · rw [held] at hs
      cases hs
    · obtain rfl := Port.number_injective (Nat.le_antisymm (least r i hr hi) (lowest q k hq hk))
      rw [hk] at hi
      cases hi
      exact (jobs _).trans (if_pos rfl)
    · have hrq : r ≠ q := by
        rintro rfl
        exact absurd (least r' i' hr' hi') (Nat.not_le.mpr lower)
      rw [jobs, if_neg hrq, if_neg hr, hi]

/-- A rule that tells the resumed job's port and no other is the model's. -/
theorem State.told_eq_tellResumed (place : ∀ p q, o.holdsPlace p → o.holdsPlace q → p = q)
    (hj : o.jobs.get p = some j) {told : State → State}
    (untold : (j.isSuspended = true ∨ ∀ q, q ≠ p → o.jobs.get q = none) → ∀ u, told u = u)
    (tells : ∀ q k, q ≠ p → o.jobs.get q = some k → j.isSuspended = false →
      (∀ q' k', q' ≠ p → o.jobs.get q' = some k' → Port.number q ≤ Port.number q') →
      ∀ u : State, told u = u.raiseTo q .loadResumed k.region.val 0) :
    told = State.tellResumed (o.jobs.resumes p j) := by
  funext u
  cases h : o.jobs.resumes p j with
  | none => exact untold (PerPort.resumes_none place hj h) u
  | some a =>
    obtain ⟨held, hq, hk, least⟩ := PerPort.resumes_some place hj h
    exact tells a.1 a.2 hq hk held least u

end Ended

/-! ## ABORT_LOAD and RECEIVE_TIMEOUT (R133, R134) -/

section Ends

variable {s : State} {p : Port} {j : Job}

theorem exec_abortLoad_ends {r : Request} (h : s.Reaches p .abortLoad r) (hj : s.ovm.jobs.get p = some j)
    (hv : j.isVerifying = false) : exec (.abortLoad p) s = .next ((State.tellResumed (s.ovm.jobs.resumes p j)
      (s.setOvm (s.ovm.endedJob p j .empty))).replied p r .done 0#8 (le 4 j.cursor)) := by
  rw [exec_abortLoad_of_reaches h, hj]
  dsimp only
  rw [if_neg (by simp [hv]), State.endJob_eq, State.taken_ovm, State.taken_setOvm, State.taken_tellResumed,
    State.taken_done]

theorem exec_receiveTimeout_ends (place : ∀ p q, s.ovm.holdsPlace p → s.ovm.holdsPlace q → p = q)
    (hj : s.ovm.jobs.get p = some j) (hr : j.isReceiving = true) : exec .receiveTimeout s = .next
      (State.tellResumed (s.ovm.jobs.resumes p j)
        ((s.raiseTo p .loadTimeout j.region.val 0).setOvm (s.ovm.endedJob p j .empty))) := by
  have found := Overlay.firstJob_of_place place (fun k hk => (Job.receiving_place hk).1) hj hr
  simp only [exec, execReceiveTimeout, State.receiveTimeout, found, State.endJob_eq, State.raiseTo_ovm]

/-! ## VERIFICATION_END (R132) -/

/-- The words that verification reads. -/
def Overlay.jobReads (o : Overlay) (j : Job) : List Nat := jobWords (o.jobBase j) j.length

/-- Overlay Memory's block as verification's reads leave it. -/
def Overlay.verified (o : Overlay) (us : List Upset) (j : Job) : Overlay := ((o.suffer us).verifyWords (o.jobReads j)).1

/-- What verification comes to. -/
def Overlay.verdictOf (o : Overlay) (us : List Upset) (j : Job) : RegionContent × ResultCode × List Byte :=
  verdict j.expected (crc32 ((o.verified us j).bytesFrom (o.jobBase j) j.length))
    ((o.suffer us).verifyWords (o.jobReads j)).2

theorem Overlay.verified_keeps (o : Overlay) (us : List Upset) (j : Job) :
    (o.verified us j).regions = o.regions ∧ (o.verified us j).jobs = o.jobs := by
  obtain ⟨regions, jobs⟩ := Overlay.verifyWords_keeps (o.jobReads j) (o.suffer us)
  exact ⟨regions.trans (o.suffer_keeps us).1, jobs.trans (o.suffer_keeps us).2.1⟩

/-- The completing LOAD_DATA is answered, unless its answer is cancelled (R132, R135). -/
def State.tellVerdict (p : Port) (j : Job) (tag : Tag) (w : RegionContent × ResultCode × List Byte)
    (u : State) : State :=
  if j.answerOpen then u.post p (loadReply tag w.2.1 w.2.2) else u

theorem exec_verificationEnd_ends (place : ∀ p q, s.ovm.holdsPlace p → s.ovm.holdsPlace q → p = q)
    (hj : s.ovm.jobs.get p = some j) {left : Nat} {tag : Tag} (hv : j.state = .verifying left tag) (us : List Upset) :
    exec (.verificationEnd us) s = .next (State.tellResumed (s.ovm.jobs.resumes p j)
      ((State.tellVerdict p j tag (s.ovm.verdictOf us j) s).setOvm
        ((s.ovm.verified us j).endedJob p j (s.ovm.verdictOf us j).1))) := by
  have verifying : j.isVerifying = true := (Job.isVerifying_iff j).mpr ⟨left, tag, hv⟩
  have found := Overlay.firstJob_of_place place (fun k hk => (Job.verifying_place hk).1) hj verifying
  have unfolded : s.finishVerification p j tag us = (State.tellVerdict p j tag (s.ovm.verdictOf us j)
      (s.setOvm (s.ovm.verified us j))).endJob p j (s.ovm.verdictOf us j).1 := rfl
  simp only [exec, execVerificationEnd, State.verificationEnd, found, hv, unfolded, State.endJob_eq]
  unfold State.tellVerdict
  split <;> simp only [State.post_ovm, State.setOvm_ovm, (s.ovm.verified_keeps us j).2] <;> rfl

theorem verdict_content (expected computed : Word32) (double : Bool) :
    (verdict expected computed double).1 = .empty ∨ (verdict expected computed double).1 = .valid expected := by
  unfold verdict
  split
  · exact .inl rfl
  · split
    · rename_i h
      exact .inr (congrArg _ h)
    · exact .inl rfl

/-- The verdict in the words of R132: with no double error by the CRC-32, else LOAD_FAILED with all ones. -/
theorem verdict_eq {expected computed crc : Word32} {double : Bool} {result : ResultCode}
    (h : (double = false ∧ result = (if computed = expected then .done else .loadFailed) ∧ crc = computed)
      ∨ (double = true ∧ result = .loadFailed ∧ crc = 0xFFFFFFFF#32)) :
    verdict expected computed double = (if result = .done then .valid crc else .empty, result, le 4 crc.toNat) := by
  obtain ⟨rfl, rfl, rfl⟩ | ⟨rfl, rfl, rfl⟩ := h
  · unfold verdict
    by_cases he : crc = expected <;> simp [he, crcBytes]
  · rfl

end Ends

/-! ## What verification reads (R132, R137) -/

theorem Overlay.reads_congr {o u : Overlay} (memory : o.memory = u.memory) (errors : o.errors = u.errors)
    (epoch : o.epoch = u.epoch) : (∀ a, o.byteAt a = u.byteAt a) ∧ ∀ w, o.readCheck w = u.readCheck w := by
  refine ⟨fun a => ?_, fun w => ?_⟩
  · rw [Overlay.byteAt, memory, epoch, ← Overlay.byteAt]
  · unfold Overlay.readCheck Overlay.check Overlay.wordWritten
    rw [memory, errors, epoch]

/-- Of the words without repetition that satisfy a condition there are as many as the filter keeps. -/
theorem length_eq_filter_of_mem {ws singles : List Nat} {P : Nat → Prop} [DecidablePred P] (hw : ws.Nodup)
    (hs : singles.Nodup) (h : ∀ w, w ∈ singles ↔ w ∈ ws ∧ P w) :
    singles.length = (ws.filter (fun w => decide (P w))).length :=
  ((List.perm_ext_iff_of_nodup hs (hw.filter _)).mpr fun w => by simp [h]).length_eq

section Verification

variable {o : Overlay} {j : Job} {x : Region}

theorem Overlay.jobReads_nodup (o : Overlay) (j : Job) : (o.jobReads j).Nodup := jobWords_nodup _ _

theorem Overlay.mem_jobReads (hx : o.regions[j.region] = some x) (w : Nat) :
    w ∈ o.jobReads j ↔ ∃ i, i < j.length ∧ w = (4096 * x.first + i) / 8 := by
  rw [Overlay.jobReads, Overlay.jobBase_eq hx]
  exact jobWords_mem x.first j.length w

/-- What verification comes to with no word newly in error, in the words of R132. -/
theorem Overlay.verdictOf_eq (good : o.memory.wf = true) (hx : o.regions[j.region] = some x) {bytes : List Byte}
    (hbytes : bytes = (List.range j.length).map (fun i => o.byteAt (4096 * x.first + i))) {result : ResultCode}
    {crc : Word32} (h : ((∀ i, i < j.length → o.readCheck ((4096 * x.first + i) / 8) ≠ .double)
        ∧ result = (if crc32 bytes = j.expected then .done else .loadFailed) ∧ crc = crc32 bytes)
      ∨ ((∃ i, i < j.length ∧ o.readCheck ((4096 * x.first + i) / 8) = .double)
        ∧ result = .loadFailed ∧ crc = 0xFFFFFFFF#32)) :
    o.verdictOf [] j = (if result = .done then .valid crc else .empty, result, le 4 crc.toNat) := by
  obtain ⟨-, read, double⟩ := Overlay.verifyWords_spec (o.jobReads j) o good (o.jobReads_nodup j)
  have double : (o.verifyWords (o.jobReads j)).2 = true
      ↔ ∃ i, i < j.length ∧ o.readCheck ((4096 * x.first + i) / 8) = .double := by
    rw [double]
    simp only [Overlay.mem_jobReads hx]
    exact ⟨fun ⟨_, ⟨i, hi, rfl⟩, hd⟩ => ⟨i, hi, hd⟩, fun ⟨i, hi, hd⟩ => ⟨_, ⟨i, hi, rfl⟩, hd⟩⟩
  have bytes_read : (o.verified [] j).bytesFrom (o.jobBase j) j.length = bytes := by
    rw [hbytes, Overlay.jobBase_eq hx]
    exact List.map_congr_left fun i _ => read _
  rw [Overlay.verdictOf, bytes_read]
  refine verdict_eq (h.imp (fun ⟨none_double, hr, hc⟩ => ⟨?_, hr, hc⟩) fun ⟨some_double, hr, hc⟩ =>
    ⟨double.mpr some_double, hr, hc⟩)
  rw [← Bool.not_eq_true]
  exact fun hd => (double.mp hd).elim fun i ⟨hi, h⟩ => none_double i hi h

/-- Verification with no double error corrects each word of the job that has a single one, and nothing else. -/
theorem Overlay.verified_corrects (good : o.memory.wf = true) (count : o.corrected ≤ 255)
    (hx : o.regions[j.region] = some x) {inJob : Nat → Prop}
    (hin : ∀ w, inJob w ↔ ∃ i, i < j.length ∧ w = (4096 * x.first + i) / 8)
    (none_double : ∀ i, i < j.length → o.readCheck ((4096 * x.first + i) / 8) ≠ .double) :
    (∀ a, (o.verified [] j).byteAt a = o.byteAt a) ∧ (∀ w, inJob w → (o.verified [] j).readCheck w = .clean)
    ∧ (∀ w, ¬ inJob w → (o.verified [] j).readCheck w = o.readCheck w)
    ∧ ∀ singles : List Nat, singles.Nodup → (∀ w, w ∈ singles ↔ inJob w ∧ o.readCheck w = .single) →
      (o.verified [] j).corrected = min 255 (o.corrected + singles.length) := by
  obtain ⟨-, -, -, -, bytes, checks, corrected⟩ :=
    Overlay.verifyWords_corrects (o.jobReads j) o good count (o.jobReads_nodup j)
  have reads : ∀ w, w ∈ o.jobReads j ↔ inJob w := fun w => (Overlay.mem_jobReads hx w).trans (hin w).symm
  refine ⟨bytes, fun w hw => ?_, fun w hw => ?_, fun singles nodup hs => ?_⟩
  · have undamaged : o.readCheck w ≠ .double := by
      obtain ⟨i, hi, rfl⟩ := (hin w).mp hw
      exact none_double i hi
    refine (checks w).trans ?_
    cases hc : o.readCheck w with
    | clean => simp
    | single => rw [if_pos ⟨(reads w).mpr hw, rfl⟩]
    | double => exact absurd hc undamaged
  · exact (checks w).trans (if_neg fun h => hw ((reads w).mp h.1))
  · rw [length_eq_filter_of_mem (P := fun w => o.readCheck w = .single) (o.jobReads_nodup j) nodup
      fun w => by rw [hs, reads]]
    exact corrected

end Verification

theorem State.replied_ports_congr {s t : State} (h : s.ports = t.ports) (p : Port) (r : Request) (c : ResultCode)
    (i : Byte) (v : List Byte) : (s.replied p r c i v).ports = (t.replied p r c i v).ports := by
  simp only [State.replied, State.setPorts_ports, h]

/-- Settles O47: each end is the model's end of a job (`State.endJob_eq`), whose job and region are as
`Overlay.endedJob_ended` says and whose ports are told by `State.tellResumed`; verification's bytes, words and count are
those of `Overlay.verdictOf_eq` and `Overlay.verified_corrects`. -/
theorem loadJobsEnd : Obligations.LoadJobsEnd := by
  refine ⟨?_, fun s => ⟨fun h => ?_, fun us h => ?_⟩⟩
  · rintro p s j ⟨-, -, ⟨within, -, place⟩, count⟩ hj ended told hended untold tells
    obtain rfl := State.told_eq_tellResumed place hj untold tells
    have told_congr := fun {u v : State} (h : u.SamePorts v) =>
      (State.tells_tellResumed (s.ovm.jobs.resumes p j)).same_ports h
    have ended_of : ∀ t : State, JobEnded s.ovm.jobs p j t.ovm → ended t := fun t h => (hended t).mpr h
    obtain ⟨x, hx, owner, -⟩ := within p j hj
    have empties : JobEnded s.ovm.jobs p j (s.ovm.endedJob p j .empty) :=
      Overlay.endedJob_ended place hj hx owner (.inl rfl)
    refine ⟨fun r h hv => ⟨_, exec_abortLoad_ends h hj hv, ended_of _ ?_, ?_⟩,
      fun hr => ⟨_, exec_receiveTimeout_ends place hj hr, ended_of _ ?_, told_congr ⟨rfl, rfl⟩⟩,
      fun us left tag hv => ⟨_, exec_verificationEnd_ends place hj hv us, ended_of _ ?_, fun cancelled => ?_⟩,
      fun left tag y bytes hv good hy hbytes result crc outcome =>
        ⟨_, exec_verificationEnd_ends place hj hv [], ?_, fun undamaged inJob hin => ?_, fun opened => ?_⟩⟩
    · rwa [State.replied_ovm, State.tellResumed_ovm]
    · exact State.replied_ports_congr
        (told_congr (u := s.setOvm (s.ovm.endedJob p j .empty)) (v := s) ⟨rfl, rfl⟩) p r _ _ _
    · rwa [State.tellResumed_ovm]
    · obtain ⟨regions, jobs⟩ := s.ovm.verified_keeps us j
      rw [State.tellResumed_ovm, State.setOvm_ovm, ← jobs]
      exact Overlay.endedJob_ended (by rwa [jobs]) (by rwa [jobs]) (by rwa [regions]) owner
        ((verdict_content _ _ _).imp_right fun h => ⟨(Job.isVerifying_iff j).mpr ⟨left, tag, hv⟩, h⟩)
    · refine told_congr ?_
      rw [State.tellVerdict, cancelled]
      exact ⟨rfl, rfl⟩
    · rw [State.tellResumed_ovm, State.setOvm_ovm, Overlay.verdictOf_eq good hy hbytes outcome]
      exact Overlay.endedJob_regions (by rwa [(s.ovm.verified_keeps [] j).1])
    · rw [State.tellResumed_ovm, State.setOvm_ovm]
      obtain ⟨memory, errors, epoch, corrected⟩ :=
        Overlay.endedJob_keeps (o := s.ovm.verified [] j) (p := p) (j := j) (c := (s.ovm.verdictOf [] j).1)
      obtain ⟨bytes, checks⟩ := Overlay.reads_congr memory errors epoch
      simp only [bytes, checks, corrected]
      exact Overlay.verified_corrects good count hy hin undamaged
    · refine told_congr ?_
      rw [State.tellVerdict, opened, Overlay.verdictOf_eq good hy hbytes outcome]
      exact ⟨rfl, rfl⟩
  · simp only [exec, execReceiveTimeout, State.receiveTimeout, PerPort.firstJob_none.mpr h]
  · simp only [exec, execVerificationEnd, State.verificationEnd, PerPort.firstJob_none.mpr h]

end Sys2Proof.Machine

/-! The Overlay Memory reads of a line (R137, R138, R150, R152): the words of a line, what reading them leaves of
Overlay Memory, and what a BITMAP entry's reads come to. -/

namespace Sys2Proof.Machine

section LineWords

variable {first cols w : Nat}

theorem lineWords_eq_map (first cols : Nat) : lineWords first cols =
    (List.range (if cols = 0 then 0 else (first + cols - 1) / 16 + 1 - first / 16)).map (fun i => first / 16 + i) := by
  unfold lineWords
  split <;> rfl

theorem mem_lineWords : w ∈ lineWords first cols ↔ ∃ i, i < cols ∧ w = (first + i) / 16 := by
  simp only [lineWords_eq_map, List.mem_map, List.mem_range]
  constructor
  · rintro ⟨a, ha, rfl⟩
    exact ⟨16 * (first / 16 + a) - first, by split at ha <;> omega, by omega⟩
  · rintro ⟨i, hi, rfl⟩
    exact ⟨(first + i) / 16 - first / 16, by split <;> omega, by omega⟩

theorem lineWords_nodup (first cols : Nat) : (lineWords first cols).Nodup := by
  rw [lineWords_eq_map]
  exact List.nodup_range.map fun _ _ h => Nat.add_left_cancel h

/-- The words of a line before one of them are those of the columns before that word's first pixel. -/
theorem lineWords_split (hw : w ∈ lineWords first cols) :
    ∃ rest, lineWords first cols = lineWords first (w * 16 - first) ++ w :: rest := by
  obtain ⟨i, hi, rfl⟩ := mem_lineWords.mp hw
  obtain ⟨before, hbefore⟩ : ∃ n, (first + i) / 16 = first / 16 + n := Nat.exists_eq_add_of_le (by omega)
  obtain ⟨after, hafter⟩ : ∃ n, (first + cols - 1) / 16 + 1 - first / 16 = before + (n + 1) :=
    ⟨(first + cols - 1) / 16 - first / 16 - before, by omega⟩
  have count : (if (first + i) / 16 * 16 - first = 0 then 0
      else (first + ((first + i) / 16 * 16 - first) - 1) / 16 + 1 - first / 16) = before := by
    split <;> omega
  rw [lineWords_eq_map first cols, lineWords_eq_map first (_ - _), count, if_neg (by omega), hafter, List.range_add,
    List.range_succ_eq_map]
  simp only [List.map_append, List.map_cons, Nat.add_zero, ← hbefore]
  exact ⟨_, rfl⟩

end LineWords

/-! ## What the reads leave of Overlay Memory (R137, R152) -/

section Reads

variable {o u : Overlay} {base w : Nat}

theorem Overlay.readWords_clean : ∀ {ws : List Nat}, (∀ w ∈ ws, o.readCheck (base / 8 + w) = .clean) →
    ∀ post : List Nat, o.readWords base (ws ++ post) = o.readWords base post
  | [], _, _ => rfl
  | w :: ws, h, post => by
    rw [List.cons_append, Overlay.readWords, h w (by simp)]
    exact Overlay.readWords_clean (fun v hv => h v (by simp [hv])) post

theorem Overlay.readWords_double (h : o.readCheck (base / 8 + w) = .double) (post : List Nat) :
    o.readWords base (w :: post) = (o, some w) := by
  rw [Overlay.readWords, h]

/-- What a correction of some words leaves, with the words in the rules' own terms (R137). -/
theorem Overlay.Corrects.leaves {ws : List Nat} (h : o.Corrects u ws) (nodup : ws.Nodup) {reads : Nat → Prop}
    (hreads : ∀ w, reads w ↔ w ∈ ws) :
    u.regions = o.regions ∧ u.jobs = o.jobs ∧ u.epoch = o.epoch ∧ u.memory.wf = true
    ∧ (∀ a, u.byteAt a = o.byteAt a)
    ∧ (∀ w, reads w → o.readCheck w = .single → u.readCheck w = .clean)
    ∧ (∀ w, ¬ (reads w ∧ o.readCheck w = .single) → u.readCheck w = o.readCheck w)
    ∧ ∀ singles : List Nat, singles.Nodup → (∀ w, w ∈ singles ↔ reads w ∧ o.readCheck w = .single) →
      u.corrected = min 255 (o.corrected + singles.length) := by
  obtain ⟨regions, jobs, epoch, memory, bytes, checks, corrected⟩ := h
  refine ⟨regions, jobs, epoch, memory, bytes, fun w hw hs => ?_, fun w hw => ?_, fun singles hn hs => ?_⟩
  · rw [checks, if_pos ⟨(hreads w).mp hw, hs⟩]
  · rw [checks, if_neg (by rwa [← hreads])]
  · rw [corrected, length_eq_filter_of_mem (P := fun w => o.readCheck w = .single) nodup hn fun w => by
      rw [hs, hreads]]

end Reads

/-! ## The reads of a BITMAP entry (R138, R150, R152) -/

section ReadBitmap

variable {s : State} {y : Nat} {e : PlanEntry} {b : BitmapPart} {g : Region} {crc : Word32} {o : Overlay}

theorem LayerRecord.coversLine_iff (r : LayerRecord) (y : Nat) :
    r.coversLine y = true ↔ r.destY ≤ y ∧ y < r.destY + r.destH := by
  simp [LayerRecord.coversLine]

theorem State.readEntry_of_bitmap (hb : e.record.part = .bitmap b) : s.readEntry y e = s.readBitmap y e b := by
  simp only [State.readEntry, hb]

theorem State.readEntry_of_not_bitmap (hb : ∀ b, e.record.part ≠ .bitmap b) :
    s.readEntry y e = (s, e.record.destW) := by
  unfold State.readEntry
  split
  case h_1 b h => exact absurd h (hb b)
  all_goals rfl

/-- Whether an entry's picture may read on a line: it is not stopped, and the line is one of its rows (R152). -/
def State.readsRow (s : State) (y : Nat) (e : PlanEntry) (b : BitmapPart) : Prop :=
  ¬ (e.slot ∈ s.cmp.stopped ∨ e.record.coversLine y = false ∨ b.height ≤ y - e.record.destY)

theorem State.readsRow_iff : s.readsRow y e b ↔ ¬ (e.slot ∈ s.cmp.stopped ∨ y < e.record.destY
    ∨ e.record.destY + e.record.destH ≤ y ∨ b.height ≤ y - e.record.destY) := by
  rw [State.readsRow, ← Bool.not_eq_true, LayerRecord.coversLine_iff, not_and_or, Nat.not_le, Nat.not_lt, or_assoc]

theorem State.readBitmap_off (h : ¬ s.readsRow y e b) : s.readBitmap y e b = (s, 0) :=
  if_pos (not_not.mp h)

theorem State.readBitmap_not_valid (row : s.readsRow y e b)
    (h : ∀ g crc, s.ovm.regions[b.region] = some g → g.content ≠ .valid crc) :
    s.readBitmap y e b = (s.stopEntry e.slot, 0) := by
  refine (if_neg row).trans ?_
  cases hg : s.ovm.regions[b.region] with
  | none => rfl
  | some g =>
    refine if_pos ?_
    rw [← Bool.not_eq_true, Region.isValid_iff]
    exact fun ⟨crc, hc⟩ => h g crc hg hc

section Valid

variable (row : s.readsRow y e b) (hg : s.ovm.regions[b.region] = some g) (hc : g.content = .valid crc)
include row hg hc

theorem State.readBitmap_of_reads_all
    (hread : s.ovm.readWords (4096 * g.first)
      (lineWords ((y - e.record.destY) * b.width) (min e.record.destW b.width)) = (o, none)) :
    s.readBitmap y e b = (s.setOvm o, min e.record.destW b.width) := by
  have valid : g.isValid = true := g.isValid_iff.mpr ⟨crc, hc⟩
  refine (if_neg row).trans ?_
  simp only [hg, valid, Bool.true_eq_false, if_false, show g.base = 4096 * g.first from rfl, hread]

theorem State.readBitmap_of_double {w : Nat} (regions : o.regions = s.ovm.regions)
    (hread : s.ovm.readWords (4096 * g.first)
      (lineWords ((y - e.record.destY) * b.width) (min e.record.destW b.width)) = (o, some w)) :
    s.readBitmap y e b = ((((s.setOvm { o with
      regions := o.regions.set b.region (some { g with content := .faulted crc }) }).raiseAll
        .regionFault b.region.val 0).setCmp { s.cmp with stopped := s.cmp.stopped ++ [e.slot] }),
      min (min e.record.destW b.width) (w * 16 - (y - e.record.destY) * b.width)) := by
  have valid : g.isValid = true := g.isValid_iff.mpr ⟨crc, hc⟩
  have faulted : (s.setOvm o).faultRegion b.region = (s.setOvm { o with
      regions := o.regions.set b.region (some { g with content := .faulted crc }) }).raiseAll
        .regionFault b.region.val 0 := by
    rw [State.faultRegion, State.setOvm_ovm, regions, hg, Option.map_some, hc, Overlay.setRegion, regions]
    rfl
  refine (if_neg row).trans ?_
  simp only [hg, valid, Bool.true_eq_false, if_false, show g.base = 4096 * g.first from rfl, hread, faulted]
  rfl

end Valid

end ReadBitmap

end Sys2Proof.Machine

/-! The picture of a line (R148 to R155, R158): an entry's own picture kind by kind, the pixels of a line, and what is
sent for it. -/

namespace Sys2Proof.Machine

/-! ## FILL, GUIDE and BITMAP pictures (R150, R151) -/

section Pictures

variable {v : Scene} {r : LayerRecord} {limit x y : Nat}

theorem Scene.ownPixel_fill {k : Fin 16} (h : r.part = .fill k) : v.ownPixel r limit x y = some v.plan.palette[k] := by
  simp only [Scene.ownPixel, h]

theorem Scene.ownPixel_guide {g : GuidePart} (h : r.part = .guide g) : v.ownPixel r limit x y =
    if g.covers (x - r.destX) (y - r.destY) then some v.plan.palette[g.colour] else none := by
  simp only [Scene.ownPixel, h]

theorem Scene.ownPixel_bitmap {b : BitmapPart} (h : r.part = .bitmap b) :
    v.ownPixel r limit x y = bitmapPixel v.ovm v.plan b limit (x - r.destX) (y - r.destY) := by
  simp only [Scene.ownPixel, h]

theorem Scene.ownPixel_camera {c : CameraPart} (h : r.part = .camera c) :
    v.ownPixel r limit x y = some (cameraPixel v.links v.plan r c x y) := by
  simp only [Scene.ownPixel, h]

/-- `nearest` is the whole number within half a step, a half rounded up (R151). -/
theorem nearest_eq_iff {a t n : Nat} {d c : Int} (hn : n ≠ 0) : nearest a t d n = c ↔
    2 * n * c ≤ 2 * (a * n + t * d) + n ∧ 2 * (a * n + t * d) + n < 2 * n * (c + 1) := by
  have pos : (0 : Int) < 2 * n := by omega
  rw [nearest, if_neg hn, mul_comm (2 * (n : Int)) c, mul_comm (2 * (n : Int)) (c + 1), ← Int.le_ediv_iff_mul_le pos,
    ← Int.ediv_lt_iff_lt_mul pos]
  omega

theorem Segment.centre_eq_iff {sg : Segment} {t : Nat} {cx cy : Int} : sg.centre t = (cx, cy) ↔
    (sg.span = 0 → cx = sg.x0 ∧ cy = sg.y0)
    ∧ (sg.span ≠ 0 → 2 * sg.span * cx ≤ 2 * (sg.x0 * sg.span + t * ((sg.x1 : Int) - sg.x0)) + sg.span
      ∧ 2 * (sg.x0 * sg.span + t * ((sg.x1 : Int) - sg.x0)) + sg.span < 2 * sg.span * (cx + 1)
      ∧ 2 * sg.span * cy ≤ 2 * (sg.y0 * sg.span + t * ((sg.y1 : Int) - sg.y0)) + sg.span
      ∧ 2 * (sg.y0 * sg.span + t * ((sg.y1 : Int) - sg.y0)) + sg.span < 2 * sg.span * (cy + 1)) := by
  rw [Segment.centre, Prod.mk.injEq]
  by_cases h : sg.span = 0
  · simp [h, nearest, eq_comm]
  · simp only [nearest_eq_iff h, h, false_imp_iff, true_and, ne_eq, not_false_eq_true, true_imp_iff, and_assoc]

theorem squareCovers_iff {width : Nat} {cx cy x y : Int} : squareCovers width (cx, cy) x y = true ↔
    cx - ((width - 1) / 2 : Nat) ≤ x ∧ x < cx - ((width - 1) / 2 : Nat) + width
    ∧ cy - ((width - 1) / 2 : Nat) ≤ y ∧ y < cy - ((width - 1) / 2 : Nat) + width := by
  simp [squareCovers, and_assoc]

theorem GuidePart.covers_iff {g : GuidePart} : g.covers x y = true ↔ ∃ sg ∈ g.segments, ∃ t ≤ sg.span,
    squareCovers g.width (sg.centre t) x y = true := by
  simp [GuidePart.covers]

/-- The squares of a guide in the words of R151. -/
theorem GuidePart.covers_iff_nearest {g : GuidePart} : g.covers x y = true ↔
    ∃ sg ∈ g.segments, ∃ (d t back : Nat) (cx cy : Int),
      d = max ((sg.x1 : Int) - sg.x0).natAbs ((sg.y1 : Int) - sg.y0).natAbs ∧ t ≤ d ∧ back = (g.width - 1) / 2
      ∧ (d = 0 → cx = sg.x0 ∧ cy = sg.y0)
      ∧ (d ≠ 0 → 2 * d * cx ≤ 2 * (sg.x0 * d + t * ((sg.x1 : Int) - sg.x0)) + d
        ∧ 2 * (sg.x0 * d + t * ((sg.x1 : Int) - sg.x0)) + d < 2 * d * (cx + 1)
        ∧ 2 * d * cy ≤ 2 * (sg.y0 * d + t * ((sg.y1 : Int) - sg.y0)) + d
        ∧ 2 * (sg.y0 * d + t * ((sg.y1 : Int) - sg.y0)) + d < 2 * d * (cy + 1))
      ∧ cx - back ≤ (x : Int) ∧ (x : Int) < cx - back + g.width
      ∧ cy - back ≤ (y : Int) ∧ (y : Int) < cy - back + g.width := by
  rw [GuidePart.covers_iff]
  refine exists_congr fun sg => and_congr_right fun _ => ⟨fun ⟨t, ht, hc⟩ => ?_, ?_⟩
  · obtain ⟨point, step⟩ := Segment.centre_eq_iff.mp (Prod.mk.eta (p := sg.centre t)).symm
    exact ⟨sg.span, t, _, _, _, rfl, ht, rfl, point, step, squareCovers_iff.mp hc⟩
  · rintro ⟨d, t, back, cx, cy, rfl, ht, rfl, point, step, hc⟩
    refine ⟨t, ht, ?_⟩
    rw [Segment.centre_eq_iff.mpr ⟨point, step⟩]
    exact squareCovers_iff.mpr hc

theorem bitmapPixel_outside {o : Overlay} {plan : FramePlan} {b : BitmapPart} {col row : Nat}
    (h : limit ≤ col ∨ b.width ≤ col ∨ b.height ≤ row) : bitmapPixel o plan b limit col row = none :=
  if_neg (by omega)

theorem Overlay.pixelIndex_eq {o : Overlay} {base n : Nat} {k : Fin 16}
    (hk : k.val = if n % 2 = 0 then (o.byteAt (base + n / 2)).toNat / 16 else (o.byteAt (base + n / 2)).toNat % 16) :
    o.pixelIndex base n = k := by
  have byte := (o.byteAt (base + n / 2)).isLt
  apply Fin.ext
  rw [hk, Overlay.pixelIndex]
  split
  · exact Nat.mod_eq_of_lt (by omega)
  · exact Nat.mod_eq_of_lt (by omega)

theorem bitmapPixel_inside {o : Overlay} {plan : FramePlan} {b : BitmapPart} {col row : Nat} {g : Region} {k : Fin 16}
    (hl : col < limit) (hw : col < b.width) (hh : row < b.height) (hg : o.regions[b.region] = some g)
    (hk : o.pixelIndex (4096 * g.first) (row * b.width + col) = k) :
    bitmapPixel o plan b limit col row = if b.key = some k then none else some plan.palette[k] := by
  have base : ((o.regions[b.region]).map Region.base).getD 0 = 4096 * g.first := by rw [hg]; rfl
  rw [bitmapPixel, if_pos ⟨hl, hw, hh⟩]
  simp only [base, hk]

end Pictures

/-! ## CAMERA pictures (R117 to R119, R149) -/

section CameraPictures

variable {links : Vector CameraLink 4} {plan : FramePlan} {r : LayerRecord} {c : CameraPart} {x y : Nat}

theorem heldFrame_eq_some {k : Fin 4} {f : CameraFrame} : heldFrame links plan k = some f ↔
    plan.answers[k].link = .locked ∧ ∃ i seq, plan.answers[k].held = some (i, seq) ∧ links[k].slots[i] = .held f := by
  unfold heldFrame
  split
  case h_1 i seq locked held =>
    simp only [locked, held, true_and, Option.some.injEq, Prod.mk.injEq]
    split <;> simp_all
  case h_2 other =>
    simp only [reduceCtorEq, false_iff]
    exact fun ⟨locked, i, seq, held, _⟩ => other i seq locked held

/-- Whether a marker's outline shows at a canvas pixel of a camera layer (R117 to R119). -/
def Marker.drawn (m : Marker) (plan : FramePlan) (r : LayerRecord) (c : CameraPart) (x y : Nat) : Bool :=
  c.markers && decide (m.camera = c.camera) && m.shows plan.frame && (m.mapped r c).outlines x y

theorem Marker.shows_iff {m : Marker} {frame : Word16} :
    m.shows frame = true ↔ (m.near = true → frame.toNat % 8 < 4) := by
  cases h : m.near <;> simp [Marker.shows, h, Blink.phaseOn_iff]

theorem MarkerBox.outlines_iff {b : MarkerBox} {x y : Int} : b.outlines x y = true ↔
    b.left ≤ x ∧ x < b.right ∧ b.top ≤ y ∧ y < b.bottom
    ∧ (x < b.left + 2 ∨ b.right - 2 ≤ x ∨ y < b.top + 2 ∨ b.bottom - 2 ≤ y) := by
  simp [MarkerBox.outlines, and_assoc, or_assoc]

theorem Marker.mapped_right (m : Marker) (r : LayerRecord) (c : CameraPart) : (m.mapped r c).right =
    min (r.destX + (if c.mirror then (c.cropX : Int) + c.cropW - m.boxX
      else (m.boxX : Int) + m.boxW - c.cropX) * r.destW / c.cropW) (r.destX + r.destW) := by
  have far : (if c.mirror then (c.cropX : Int) + c.cropW - m.boxX - m.boxW else (m.boxX : Int) - c.cropX) + m.boxW
      = if c.mirror then (c.cropX : Int) + c.cropW - m.boxX else (m.boxX : Int) + m.boxW - c.cropX := by
    split <;> omega
  simp only [Marker.mapped, far]

theorem Marker.mapped_bottom (m : Marker) (r : LayerRecord) (c : CameraPart) : (m.mapped r c).bottom =
    min (r.destY + ((m.boxY : Int) + m.boxH - c.cropY) * r.destH / c.cropH) (r.destY + r.destH) := by
  have far : (m.boxY : Int) - c.cropY + m.boxH = (m.boxY : Int) + m.boxH - c.cropY := by omega
  simp only [Marker.mapped, far]

/-- A drawn marker in the words of R117 to R119. -/
theorem Marker.drawn_iff {m : Marker} : m.drawn plan r c x y = true ↔ c.markers = true ∧ m.camera = c.camera
    ∧ (m.near = true → plan.frame.toNat % 8 < 4) ∧ ∃ left right top bottom : Int,
      left = max (r.destX + (if c.mirror then (c.cropX : Int) + c.cropW - m.boxX - m.boxW
        else (m.boxX : Int) - c.cropX) * r.destW / c.cropW) r.destX
      ∧ right = min (r.destX + (if c.mirror then (c.cropX : Int) + c.cropW - m.boxX
        else (m.boxX : Int) + m.boxW - c.cropX) * r.destW / c.cropW) (r.destX + r.destW)
      ∧ top = max (r.destY + ((m.boxY : Int) - c.cropY) * r.destH / c.cropH) r.destY
      ∧ bottom = min (r.destY + ((m.boxY : Int) + m.boxH - c.cropY) * r.destH / c.cropH) (r.destY + r.destH)
      ∧ left ≤ x ∧ x < right ∧ top ≤ y ∧ y < bottom
      ∧ (x < left + 2 ∨ right - 2 ≤ x ∨ y < top + 2 ∨ bottom - 2 ≤ y) := by
  rw [Marker.drawn, Bool.and_eq_true, Bool.and_eq_true, Bool.and_eq_true, decide_eq_true_iff, Marker.shows_iff,
    MarkerBox.outlines_iff, Marker.mapped_right, Marker.mapped_bottom, and_assoc, and_assoc]
  simp only [exists_eq_left, exists_and_left]
  rfl

theorem foldl_drawn_none {below : Option (Fin 16)} : ∀ {ms : List Marker}, (∀ m ∈ ms, ¬ m.drawn plan r c x y = true) →
    ms.foldl (fun z m => if m.drawn plan r c x y then some m.cls.paletteEntry else z) below = below
  | [], _ => rfl
  | m :: ms, h => by
    rw [List.foldl_cons, if_neg (h m (by simp))]
    exact foldl_drawn_none fun n hn => h n (by simp [hn])

theorem markerAt_none (h : ∀ m ∈ plan.markers, ¬ m.drawn plan r c x y = true) : markerAt plan r c x y = none :=
  foldl_drawn_none h

/-- Among the markers drawn at a pixel the last one shows. -/
theorem markerAt_last {before after : List Marker} {m : Marker} (hm : plan.markers = before ++ m :: after)
    (drawn : m.drawn plan r c x y = true) (last : ∀ z ∈ after, ¬ z.drawn plan r c x y = true) :
    markerAt plan r c x y = some m.cls.paletteEntry := by
  have step : markerAt plan r c x y = plan.markers.foldl
      (fun z m => if m.drawn plan r c x y then some m.cls.paletteEntry else z) none := rfl
  rw [step, hm, List.foldl_append, List.foldl_cons, if_pos drawn]
  exact foldl_drawn_none last

theorem cameraPixel_of_not_held (h : ∀ f, heldFrame links plan c.camera ≠ some f) :
    cameraPixel links plan r c x y = plan.palette[1] := by
  rw [cameraPixel, Option.eq_none_iff_forall_ne_some.mpr h]

theorem cameraPixel_of_marker {f : CameraFrame} {k : Fin 16} (h : heldFrame links plan c.camera = some f)
    (hk : markerAt plan r c x y = some k) : cameraPixel links plan r c x y = plan.palette[k] := by
  rw [cameraPixel, h, hk]

theorem cameraPixel_of_source {f : CameraFrame} (h : heldFrame links plan c.camera = some f)
    (none_drawn : markerAt plan r c x y = none) : cameraPixel links plan r c x y =
      f.pixel (c.sourceCol r.destW (x - r.destX)) (c.sourceRow r.destH (y - r.destY)) := by
  rw [cameraPixel, h, none_drawn]

end CameraPictures

/-! ## Pixels and lines (R148, R155, R158) -/

section Lines

variable {v : Scene} {x y : Nat}

theorem LayerRecord.inDest_iff (r : LayerRecord) (x y : Nat) : r.inDest x y = true ↔
    r.destX ≤ x ∧ x < r.destX + r.destW ∧ r.destY ≤ y ∧ y < r.destY + r.destH := by
  rw [LayerRecord.inDest, Bool.and_eq_true, Bool.and_eq_true, decide_eq_true_iff, decide_eq_true_iff,
    LayerRecord.coversLine_iff, and_assoc]

theorem Scene.pixel_concat (es : List (PlanEntry × Nat)) (e : PlanEntry × Nat) :
    v.pixel (es ++ [e]) x y = v.layOver x y (v.pixel es x y) e := by
  rw [Scene.pixel, List.foldl_append]
  rfl

theorem Scene.layOver_transparent {below : Colour} {e : PlanEntry × Nat}
    (h : ¬ e.1.record.inDest x y = true ∨ v.ownPixel e.1.record e.2 x y = none) : v.layOver x y below e = below := by
  unfold Scene.layOver
  obtain outside | transparent := h
  · rw [if_neg outside]
  · rw [transparent, ite_self]

theorem Scene.layOver_colour {below l : Colour} {e : PlanEntry × Nat} (inside : e.1.record.inDest x y = true)
    (hl : v.ownPixel e.1.record e.2 x y = some l) : v.layOver x y below e = blend e.1.record.alpha l below := by
  rw [Scene.layOver, if_pos inside, hl]

theorem blendChannel_toNat {a : Nat} (ha : a ≤ 15) (l b : Byte) :
    (blendChannel a l b).toNat = (a * l.toNat + (15 - a) * b.toNat) / 15 := by
  rw [blendChannel, BitVec.toNat_ofNat]
  refine Nat.mod_eq_of_lt ?_
  have hl : a * l.toNat ≤ a * 255 := Nat.mul_le_mul_left a (by omega)
  have hb : (15 - a) * b.toNat ≤ (15 - a) * 255 := Nat.mul_le_mul_left _ (by omega)
  omega

end Lines

section DrawLine

variable {s : State} {y : Nat}

theorem State.drawLine_off (h : s.cmp.output = .off) : s.drawLine y = s := by
  simp only [State.drawLine, h]

theorem State.drawLine_black (h : s.cmp.output = .black) :
    s.drawLine y = s.setLinks { s.links with display := .line y (List.replicate 1280 ⟨0#8, 0#8, 0#8⟩) } := by
  simp only [State.drawLine, h, black]

theorem State.drawLine_picture {plan : FramePlan} (h : s.cmp.output = .picture) (hp : s.cmp.plan = some plan) :
    s.drawLine y = s.drawPicture plan y := by
  simp only [State.drawLine, h, hp]

theorem State.drawPicture_of_reads {plan : FramePlan} {t : State} {es : List (PlanEntry × Nat)}
    (h : s.readEntries y plan.entries = (t, es)) : s.drawPicture plan y = t.setLinks { t.links with
      display := .line y ((⟨plan, t.cams.links, t.ovm⟩ : Scene).line es y)
      recorder := if s.cmp.recorder = .send then
          .line y ((⟨plan, t.cams.links, t.ovm⟩ : Scene).line (es.filter (fun e => e.1.record.record)) y)
        else .nothing } := by
  simp only [State.drawPicture, h, recordedEntries]

theorem State.readEntries_cons {e : PlanEntry} {es : List PlanEntry} {a b : State} {n : Nat}
    {rest : List (PlanEntry × Nat)} (he : s.readEntry y e = (a, n)) (hes : a.readEntries y es = (b, rest)) :
    s.readEntries y (e :: es) = (b, (e, n) :: rest) := by
  simp only [State.readEntries, he, hes]

end DrawLine

end Sys2Proof.Machine

/-! What a PICTURE line shows (06_object_markers 6.6, R121, R137, R138, R148 to R152, R155, R158). -/

namespace Sys2Proof.Machine

section CameraEntry

/-- The palette entries of the marker classes (R119). -/
theorem palette_paletteEntry (palette : Vector Colour 16) (k : MarkerClass) : palette[k.paletteEntry] =
    match k with
    | .pedestrian => palette[12]
    | .cyclist => palette[13]
    | .vehicle => palette[14]
    | .object => palette[15] := by
  cases k <;> rfl

variable {v : Scene} {r : LayerRecord} {limit x y : Nat} {c : CameraPart}

/-- No frame handed over, no signal (R149). -/
theorem Scene.ownPixel_no_signal (hc : r.part = .camera c)
    (h : ∀ i seq f, v.plan.answers[c.camera].link = .locked → v.plan.answers[c.camera].held = some (i, seq) →
      v.links[c.camera].slots[i] ≠ .held f) : v.ownPixel r limit x y = some v.plan.palette[1] := by
  rw [Scene.ownPixel_camera hc, cameraPixel_of_not_held]
  intro f hf
  obtain ⟨locked, i, seq, held, slot⟩ := heldFrame_eq_some.mp hf
  exact h i seq f locked held slot

theorem Scene.ownPixel_marker (hc : r.part = .camera c) {f : CameraFrame}
    (hf : heldFrame v.links v.plan c.camera = some f) {before after : List Marker} {m : Marker}
    (hm : v.plan.markers = before ++ m :: after) (drawn : m.drawn v.plan r c x y = true)
    (last : ∀ z ∈ after, ¬ z.drawn v.plan r c x y = true) :
    v.ownPixel r limit x y = some v.plan.palette[m.cls.paletteEntry] := by
  rw [Scene.ownPixel_camera hc, cameraPixel_of_marker hf (markerAt_last hm drawn last)]

theorem Scene.ownPixel_source (hc : r.part = .camera c) {f : CameraFrame}
    (hf : heldFrame v.links v.plan c.camera = some f)
    (none_drawn : ∀ m ∈ v.plan.markers, ¬ m.drawn v.plan r c x y = true) : v.ownPixel r limit x y =
      some (f.pixel (c.sourceCol r.destW (x - r.destX)) (c.sourceRow r.destH (y - r.destY))) := by
  rw [Scene.ownPixel_camera hc, cameraPixel_of_source hf (markerAt_none none_drawn)]

end CameraEntry

section BitmapEntry

variable {s : State} {y : Nat} {e : PlanEntry} {b : BitmapPart} {g : Region} {crc : Word32} {first cols i w : Nat}

/-- The words before the word of a column, and the rest, in a line that has that column. -/
theorem lineWords_split_at (hi : i < cols) (hw : w = (first + i) / 16) :
    ∃ rest, lineWords first cols = lineWords first (w * 16 - first) ++ w :: rest :=
  lineWords_split (mem_lineWords.mpr ⟨i, hi, hw⟩)

variable (row : s.readsRow y e b) (hg : s.ovm.regions[b.region] = some g) (hc : g.content = .valid crc)
  (hfirst : first = (y - e.record.destY) * b.width) (hcols : cols = min e.record.destW b.width)
include row hg hc hfirst hcols

theorem State.readBitmap_of_clean
    (clean : ∀ i, i < cols → s.ovm.readCheck (4096 * g.first / 8 + (first + i) / 16) = .clean) :
    s.readBitmap y e b = (s, cols) := by
  subst hfirst hcols
  have all : ∀ w ∈ lineWords ((y - e.record.destY) * b.width) (min e.record.destW b.width),
      s.ovm.readCheck (4096 * g.first / 8 + w) = .clean := by
    intro w hw
    obtain ⟨i, hi, rfl⟩ := mem_lineWords.mp hw
    exact clean i hi
  have read := Overlay.readWords_clean all []
  rw [List.append_nil] at read
  exact State.readBitmap_of_reads_all row hg hc read

theorem State.readBitmap_of_first_double (hi : i < cols) (hw : w = (first + i) / 16)
    (double : s.ovm.readCheck (4096 * g.first / 8 + w) = .double)
    (clean : ∀ u, first / 16 ≤ u → u < w → s.ovm.readCheck (4096 * g.first / 8 + u) = .clean) :
    s.readBitmap y e b = ((((s.setOvm { s.ovm with
      regions := s.ovm.regions.set b.region (some { g with content := .faulted crc }) }).raiseAll
        .regionFault b.region.val 0).setCmp { s.cmp with stopped := s.cmp.stopped ++ [e.slot] }),
      min cols (w * 16 - first)) := by
  subst hfirst hcols
  obtain ⟨rest, words⟩ := lineWords_split_at hi hw
  refine State.readBitmap_of_double row hg hc rfl ?_
  rw [words, Overlay.readWords_clean ?_ _, Overlay.readWords_double double]
  intro u hu
  obtain ⟨j, hj, rfl⟩ := mem_lineWords.mp hu
  exact clean _ (by omega) (by omega)

variable (good : s.MemoryGood) (count : s.ovm.corrected ≤ 255)
include good count

theorem State.readBitmap_corrects (undamaged : ∀ i, i < cols →
      s.ovm.readCheck (4096 * g.first / 8 + (first + i) / 16) ≠ .double) :
    ∃ o, s.ovm.Corrects o ((lineWords first cols).map (4096 * g.first / 8 + ·))
      ∧ s.readBitmap y e b = (s.setOvm o, cols) := by
  subst hfirst hcols
  obtain ⟨o, corrects, read⟩ := Overlay.readWords_corrects (4096 * g.first) (lineWords _ _) s.ovm good count
    (lineWords_nodup _ _) (fun w hw => by
      obtain ⟨i, hi, rfl⟩ := mem_lineWords.mp hw
      exact undamaged i hi) []
  rw [List.append_nil] at read
  exact ⟨o, corrects, State.readBitmap_of_reads_all row hg hc read⟩

theorem State.readBitmap_corrects_to_double (hi : i < cols) (hw : w = (first + i) / 16)
    (double : s.ovm.readCheck (4096 * g.first / 8 + w) = .double)
    (undamaged : ∀ i, i < w * 16 - first → s.ovm.readCheck (4096 * g.first / 8 + (first + i) / 16) ≠ .double) :
    ∃ o, s.ovm.Corrects o ((lineWords first (w * 16 - first)).map (4096 * g.first / 8 + ·))
      ∧ s.readBitmap y e b = ((((s.setOvm { o with
        regions := o.regions.set b.region (some { g with content := .faulted crc }) }).raiseAll
          .regionFault b.region.val 0).setCmp { s.cmp with stopped := s.cmp.stopped ++ [e.slot] }),
        min cols (w * 16 - first)) := by
  subst hfirst hcols
  obtain ⟨rest, words⟩ := lineWords_split_at hi hw
  obtain ⟨o, corrects, read⟩ := Overlay.readWords_corrects (4096 * g.first) (lineWords _ _) s.ovm good count
    (lineWords_nodup _ _) (fun w hw => by
      obtain ⟨i, hi, rfl⟩ := mem_lineWords.mp hw
      exact undamaged i hi) (w :: rest)
  obtain ⟨regions, -, -, -, -, checks, -⟩ := id corrects
  refine ⟨o, corrects, State.readBitmap_of_double row hg hc regions ?_⟩
  rw [words, read, Overlay.readWords_double]
  rw [checks, if_neg (by rw [double]; exact fun h => nomatch h.2), double]

end BitmapEntry

theorem nodup_map_add_lineWords (k first cols : Nat) : ((lineWords first cols).map (k + ·)).Nodup :=
  (lineWords_nodup first cols).map fun _ _ h => Nat.add_left_cancel h

theorem mem_map_add_lineWords {k first cols w : Nat} :
    w ∈ (lineWords first cols).map (k + ·) ↔ ∃ i, i < cols ∧ w = k + (first + i) / 16 := by
  simp only [List.mem_map, mem_lineWords]
  constructor
  · rintro ⟨_, ⟨i, hi, rfl⟩, rfl⟩
    exact ⟨i, hi, rfl⟩
  · rintro ⟨i, hi, rfl⟩
    exact ⟨_, ⟨i, hi, rfl⟩, rfl⟩

/-- Settles O57: a line's reads entry by entry (`State.readBitmap_of_clean` and the lemmas after it), an entry's own
picture kind by kind (`Scene.ownPixel_fill`, `GuidePart.covers_iff_nearest`, `bitmapPixel_inside`, `Marker.drawn_iff`),
and the entries laid over each other (`Scene.pixel_concat`). -/
theorem pictureFollowsPlan : Obligations.PictureFollowsPlan := by
  refine ⟨fun s y => ⟨State.drawLine_off, State.drawLine_black, ?picture⟩,
    fun s y => ⟨rfl, fun e es a b n rest => State.readEntries_cons⟩,
    fun v es e x y inside hin => ⟨rfl, rfl, ?transparent, ?coloured⟩,
    fun a l b ha => ⟨blendChannel_toNat ha _ _, blendChannel_toNat ha _ _, blendChannel_toNat ha _ _⟩,
    fun v r limit x y => ⟨fun k => Scene.ownPixel_fill, ?guide, ?bitmap, ?camera⟩,
    fun s y e => State.readEntry_of_not_bitmap, fun s y e b hb => ?reads⟩
  case picture =>
    rintro plan output hp t es v hreads rfl
    rw [State.drawLine_picture output hp, State.drawPicture_of_reads hreads]
  case transparent =>
    intro h
    rw [Scene.pixel_concat]
    exact Scene.layOver_transparent (h.imp_left fun out hd => out (hin.mpr ((LayerRecord.inDest_iff _ _ _).mp hd)))
  case coloured =>
    intro l h hl
    rw [Scene.pixel_concat]
    exact Scene.layOver_colour ((LayerRecord.inDest_iff _ _ _).mpr (hin.mp h)) hl
  case guide =>
    intro g hg covered hcovered
    have covers : g.covers (x - r.destX) (y - r.destY) = true ↔ covered :=
      GuidePart.covers_iff_nearest.trans hcovered.symm
    rw [Scene.ownPixel_guide hg]
    exact ⟨fun h => if_pos (covers.mpr h), fun h => if_neg fun hc => h (covers.mp hc)⟩
  case bitmap =>
    rintro b hb _ _ rfl rfl
    rw [Scene.ownPixel_bitmap hb]
    refine ⟨bitmapPixel_outside, ?_⟩
    rintro g _ _ k hl hw hh hg rfl rfl hk
    exact bitmapPixel_inside hl hw hh hg (Overlay.pixelIndex_eq hk)
  case camera =>
    refine fun c hc => ⟨fun unlocked => Scene.ownPixel_no_signal hc fun i seq f locked => absurd locked unlocked,
      fun unheld => Scene.ownPixel_no_signal hc fun i seq f _ held => (nomatch unheld.symm.trans held),
      fun i seq held => ⟨fun gone => Scene.ownPixel_no_signal hc fun j n f _ held' => ?_,
        fun f locked slot shown hshown => ?_⟩⟩
    · rw [held] at held'
      cases held'
      exact gone f
    have hf : heldFrame v.links v.plan c.camera = some f := heldFrame_eq_some.mpr ⟨locked, i, seq, held, slot⟩
    have drawn : ∀ m : Marker, m.drawn v.plan r c x y = true ↔ shown m := fun m =>
      Marker.drawn_iff.trans (hshown m).symm
    simp only [← drawn]
    refine ⟨fun before m after hm hd last => ?_, ?_⟩
    · rw [Scene.ownPixel_marker hc hf hm hd last]
      exact congrArg some (palette_paletteEntry _ _)
    · rintro none_drawn _ _ rfl rfl
      exact Scene.ownPixel_source hc hf none_drawn
  case reads =>
    rw [State.readEntry_of_bitmap hb]
    refine ⟨fun off => State.readBitmap_off fun row => State.readsRow_iff.mp row off, fun run top bottom inside => ?_⟩
    have row : s.readsRow y e b := State.readsRow_iff.mpr (by simp only [run, false_or]; omega)
    refine ⟨State.readBitmap_not_valid row, fun g crc first cols hg hc hfirst hcols =>
      ⟨State.readBitmap_of_clean row hg hc hfirst hcols,
        fun i w => State.readBitmap_of_first_double row hg hc hfirst hcols,
        fun good count reads after hreads hafter => ⟨fun undamaged => ?_, fun i w hi hw double undamaged => ?_⟩⟩⟩
    · obtain ⟨o, corrects, read⟩ := State.readBitmap_corrects row hg hc hfirst hcols good count
        fun i hi => undamaged _ ((hreads _ _).mpr ⟨i, hi, rfl⟩)
      exact ⟨o, (hafter _ _).mpr (corrects.leaves (nodup_map_add_lineWords _ _ _) fun w =>
        (hreads _ w).trans mem_map_add_lineWords.symm), read⟩
    · obtain ⟨o, corrects, read⟩ := State.readBitmap_corrects_to_double row hg hc hfirst hcols good count hi hw double
        fun i hi => undamaged _ ((hreads _ _).mpr ⟨i, hi, rfl⟩)
      exact ⟨o, (hafter _ _).mpr (corrects.leaves (nodup_map_add_lineWords _ _ _) fun w =>
        (hreads _ w).trans mem_map_add_lineWords.symm), read⟩

end Sys2Proof.Machine

/-! The bounds of the port queues over one step (R162, R164, R165, R167, R171). Every step is charged with the reply
places it spends at each port: a reply spends one, a request held open spends one, and an open request answered frees
the one it held. Every step of the part's own spends nothing; the executor spends at most one place, and takes a
request only with one free, a RESET_PORT apart, which frees the port's. -/

namespace Sys2Proof.Machine

/-! ## What the bounds speak of -/

/-- The queues and everything a request can be held open by (R165). -/
structure QueueView where
  ports : PerPort PortState
  sets : PerPort (Option PendingSet)
  jobs : PerPort (Option Job)
  entry : Option PendingEntry
  store : Option StoreInFlight

def State.queues (s : State) : QueueView := ⟨s.ports, s.ltb.sets, s.ovm.jobs, s.stc.entry, s.fst.store⟩

/-- From `s` to `t` no request queue has grown, no alert queue has passed its bound, and at each port the reply
places in use have grown by at most `n`, which is negative where places are freed. -/
def State.Spends (s t : State) (n : Port → ℤ) : Prop := ∀ q : Port,
  (t.ports.get q).requests.length ≤ (s.ports.get q).requests.length
  ∧ ((s.ports.get q).alerts.length ≤ 8 → (t.ports.get q).alerts.length ≤ 8)
  ∧ (t.placesInUse q : ℤ) ≤ s.placesInUse q + n q

/-- One reply place of a port. -/
def replyPlace (p : Port) : Port → ℤ := Pi.single p 1

theorem replyPlace_apply (p q : Port) : replyPlace p q = if q = p then 1 else 0 := Pi.single_apply p 1 q

theorem countIf_eq (b : Bool) : (countIf b : ℤ) = if b = true then 1 else 0 := by cases b <;> rfl

section Places

variable {s t u : State} {l m n : Port → ℤ} (p q : Port)

theorem State.Spends.trans (h : s.Spends t l) (k : t.Spends u m) (hn : l + m = n := by simp) : s.Spends u n := by
  intro q
  obtain ⟨hr, ha, hp⟩ := h q
  obtain ⟨kr, ka, kp⟩ := k q
  refine ⟨kr.trans hr, fun h => ka (ha h), ?_⟩
  rw [← hn, Pi.add_apply]
  omega

/-- Two steps that spend nothing. -/
theorem State.Spends.andThen (h : s.Spends t 0) (k : t.Spends u 0) : s.Spends u 0 := h.trans k (add_zero 0)

/-- With nothing but alerts raised in the queues, the places in use grow as the open requests do. -/
theorem State.Spends.of_raised (h : s.Raised t) (ho : ∀ q, (t.openRequests q : ℤ) ≤ s.openRequests q + n q) :
    s.Spends t n := by
  intro q
  obtain ⟨requests, replies, -, -, -, -, alerts⟩ := h q
  have := ho q
  refine ⟨by rw [requests], alerts, ?_⟩
  simp only [State.placesInUse, replies]
  omega

theorem State.Spends.of_same (h : t.queues = s.queues) : s.Spends t 0 := by
  injection h with hports hsets hjobs hentry hstore
  refine .of_raised (.of_ports hports) fun q => ?_
  simp [State.openRequests, hsets, hjobs, hentry, hstore]

theorem State.Spends.refl (s : State) : s.Spends s 0 := .of_same rfl

/-- Raising alerts holds no request open. -/
theorem State.spends_raiseAll (s : State) (c : AlertCode) (a b : Nat) : s.Spends (s.raiseAll c a b) 0 :=
  .of_raised (s.raised_raiseAll c a b) fun q => by simp [State.openRequests]

theorem State.spends_raiseTo (s : State) (c : AlertCode) (a b : Nat) : s.Spends (s.raiseTo p c a b) 0 :=
  .of_raised (s.raised_raiseTo p c a b) fun q => by simp [State.openRequests]

theorem State.spends_announce (s : State) (c : Cause) : s.Spends (s.announce c) 0 := s.spends_raiseAll _ _ _

/-- A change of one port that adds to none of its queues. -/
theorem State.spends_modPort (s : State) {f : PortState → PortState}
    (hr : (f (s.ports.get p)).requests.length ≤ (s.ports.get p).requests.length)
    (ha : (f (s.ports.get p)).alerts.length ≤ (s.ports.get p).alerts.length)
    (hp : (f (s.ports.get p)).replies.length ≤ (s.ports.get p).replies.length) : s.Spends (s.modPort p f) 0 := by
  intro q
  by_cases hq : q = p
  · subst hq
    rw [State.placesInUse, State.modPort_get]
    refine ⟨hr, ha.trans, ?_⟩
    simp only [State.placesInUse, State.openRequests, State.modPort_ltb, State.modPort_ovm, State.modPort_stc,
      State.modPort_fst, Pi.zero_apply]
    omega
  · rw [State.placesInUse, State.modPort_get_of_ne _ _ _ _ hq]
    exact ⟨le_rfl, id, le_of_eq (add_zero _).symm⟩

theorem State.spends_taken (s : State) : s.Spends (s.taken p) 0 :=
  s.spends_modPort p (f := fun q => { q with requests := q.requests.tail }) (by simp) le_rfl le_rfl

/-- A reply takes one place of its port (R164). -/
theorem State.spends_post (s : State) (r : Reply) : s.Spends (s.post p r) (replyPlace p) := by
  intro q
  by_cases hq : q = p
  · subst hq
    rw [State.placesInUse, State.post, State.modPort_get, replyPlace_apply, if_pos rfl]
    refine ⟨le_rfl, id, ?_⟩
    simp only [PortState.post, State.placesInUse, State.openRequests, State.modPort_ltb, State.modPort_ovm,
      State.modPort_stc, State.modPort_fst, List.length_append, List.length_singleton]
    omega
  · rw [State.placesInUse, State.post, State.modPort_get_of_ne _ _ _ _ hq, replyPlace_apply, if_neg hq]
    exact ⟨le_rfl, id, le_of_eq (add_zero _).symm⟩

/-! The four blocks that hold requests open: a block's update spends what its own open requests grow by. -/

theorem State.spends_setLtb (s : State) (x : LayerTable)
    (h : ∀ q, (countIf (x.sets.get q).isSome : ℤ) ≤ countIf (s.ltb.sets.get q).isSome + n q) :
    s.Spends (s.setLtb x) n :=
  .of_raised (.of_ports rfl) fun q => by
    have := h q
    simp only [State.openRequests, State.setLtb_ltb, State.setLtb_ovm, State.setLtb_stc, State.setLtb_fst]
    omega

theorem State.spends_setOvm (s : State) (x : Overlay)
    (h : ∀ q, (countIf ((x.jobs.get q).any Job.opensRequest) : ℤ)
      ≤ countIf ((s.ovm.jobs.get q).any Job.opensRequest) + n q) : s.Spends (s.setOvm x) n :=
  .of_raised (.of_ports rfl) fun q => by
    have := h q
    simp only [State.openRequests, State.setOvm_ltb, State.setOvm_ovm, State.setOvm_stc, State.setOvm_fst]
    omega

theorem State.spends_setStc (s : State) (x : Controller)
    (h : ∀ q, (countIf (x.entry.any fun e => decide (e.port = q)) : ℤ)
      ≤ countIf (s.stc.entry.any fun e => decide (e.port = q)) + n q) : s.Spends (s.setStc x) n :=
  .of_raised (.of_ports rfl) fun q => by
    have := h q
    simp only [State.openRequests, State.setStc_ltb, State.setStc_ovm, State.setStc_stc, State.setStc_fst]
    omega

theorem State.spends_setFst (s : State) (x : Fitting)
    (h : ∀ q, (countIf (x.store.any fun y => decide (y.port = q) && y.answerOpen) : ℤ)
      ≤ countIf (s.fst.store.any fun y => decide (y.port = q) && y.answerOpen) + n q) : s.Spends (s.setFst x) n :=
  .of_raised (.of_ports rfl) fun q => by
    have := h q
    simp only [State.openRequests, State.setFst_ltb, State.setFst_ovm, State.setFst_stc, State.setFst_fst]
    omega

/-! ## COMMIT's open request (R30, R34, R40, R41) -/

/-- The pending set opened takes a place; closed, it frees it. -/
theorem State.spends_openSet (s : State) (tag : Tag) : s.Spends (s.setLtb (s.ltb.openSet p tag)) (replyPlace p) :=
  s.spends_setLtb _ fun q => by
    rw [LayerTable.openSet_sets, PerPort.get_set, replyPlace_apply, countIf_eq, countIf_eq]
    split_ifs <;> simp_all

theorem State.spends_closeSet (s : State) {x : LayerTable} (hx : x.sets = s.ltb.sets.set p none) {y : PendingSet}
    (hy : s.ltb.sets.get p = some y) : s.Spends (s.setLtb x) (-replyPlace p) :=
  s.spends_setLtb _ fun q => by
    rw [hx, PerPort.get_set, Pi.neg_apply, replyPlace_apply]
    split
    · subst q
      simp [hy, countIf]
    · simp

theorem State.spends_resolveSet (s : State) : s.Spends (s.resolveSet p) 0 := by
  obtain ⟨-, h⟩ | ⟨x, hx, ⟨-, h⟩ | ⟨i, code, -, h⟩⟩ := s.resolveSet_cases p <;> rw [h]
  · exact .refl s
  · exact (s.spends_closeSet p (LayerTable.applySet_sets _ _ _) hx).trans (State.spends_post p _ _)
  · exact (s.spends_closeSet p (LayerTable.refuseSet_sets _ _ _) hx).trans (State.spends_post p _ _)

theorem State.spends_commitEvent (s : State) : s.Spends s.commitEvent 0 :=
  ((s.spends_resolveSet .body).andThen (State.spends_resolveSet .detect _)).andThen (State.spends_resolveSet .cab _)

/-- A slot that leaves a pending set leaves the set there (R32, R33). -/
theorem State.spends_leaveSet (s : State) (o : Owner) (i : Fin 24) : s.Spends (s.setLtb (s.ltb.leaveSet o i)) 0 :=
  s.spends_setLtb _ fun q => by
    have kept : ((s.ltb.leaveSet o i).sets.get q).isSome = (s.ltb.sets.get q).isSome := by
      unfold LayerTable.leaveSet
      split
      · rw [PerPort.get_set]
        split
        · subst q
          exact Option.isSome_map
        · rfl
      all_goals rfl
    rw [kept]
    simp

/-! ## LOAD_DATA's open request (R131, R132, R165) -/

/-- A job written over spends what its own open request grows by. -/
theorem State.spends_setJob (s : State) {o : Overlay} {j : Option Job} (ho : o.jobs = s.ovm.jobs.set p j) {k : ℤ}
    (hk : (countIf (j.any Job.opensRequest) : ℤ) ≤ countIf ((s.ovm.jobs.get p).any Job.opensRequest) + k) :
    s.Spends (s.setOvm o) (k • replyPlace p) :=
  s.spends_setOvm _ fun q => by
    rw [ho, PerPort.get_set, Pi.smul_apply, replyPlace_apply]
    split
    · subst q
      simpa using hk
    · simp

/-- A job written that holds no request open. -/
theorem State.spends_setJob_unopened (s : State) {o : Overlay} {j : Option Job} (ho : o.jobs = s.ovm.jobs.set p j)
    (hj : j.any Job.opensRequest = false) : s.Spends (s.setOvm o) 0 := by
  refine zero_smul ℤ (replyPlace p) ▸ s.spends_setJob p (k := 0) ho ?_
  rw [hj, add_zero]
  exact Nat.cast_nonneg _

theorem Job.opensRequest_iff (j : Job) : j.opensRequest = true ↔ j.isVerifying = true ∧ j.answerOpen = true := by
  unfold Job.opensRequest Job.isVerifying
  cases j.state <;> simp

theorem State.spends_resumeNext (s : State) : s.Spends s.resumeNext 0 := by
  obtain ⟨-, h⟩ | ⟨q, j, -, -, -, h⟩ := s.resumeNext_cases <;> rw [h]
  · exact .refl s
  · exact (s.spends_setJob_unopened q rfl rfl).andThen (State.spends_raiseTo q _ _ _ _)

/-- The end of a job frees the place of its open request. -/
theorem State.spends_endJob (s : State) {j : Job} (hj : s.ovm.jobs.get p = some j) (c : RegionContent) :
    s.Spends (s.endJob p j c) (-(countIf j.opensRequest : ℤ) • replyPlace p) := by
  have ended : s.Spends (s.setOvm ((s.ovm.setContent j.region c).setJob p none))
      (-(countIf j.opensRequest : ℤ) • replyPlace p) :=
    s.spends_setJob p rfl (by simp [hj, countIf])
  unfold State.endJob
  dsimp only
  split
  · exact ended
  · exact ended.trans (State.spends_resumeNext _)

/-- The end of any job spends nothing. -/
theorem State.spends_endJob_zero (s : State) {j : Job} (hj : s.ovm.jobs.get p = some j) (c : RegionContent) :
    s.Spends (s.endJob p j c) 0 := by
  intro q
  obtain ⟨hr, ha, hp⟩ := s.spends_endJob p hj c q
  refine ⟨hr, ha, hp.trans ?_⟩
  rw [Pi.smul_apply, replyPlace_apply, countIf_eq, Pi.zero_apply]
  split_ifs <;> simp

/-- The verdict is posted in the place that the LOAD_DATA has held open. -/
theorem State.spends_finishVerification (s : State) {j : Job} (tag : Tag) (us : List Upset)
    (hj : s.ovm.jobs.get p = some j) (hv : j.isVerifying = true) :
    s.Spends (s.finishVerification p j tag us) 0 := by
  unfold State.finishVerification
  dsimp only
  generalize jobWords (s.ovm.jobBase j) j.length = ws
  generalize verdict _ _ _ = w
  have jobs : ((s.ovm.suffer us).verifyWords ws).1.jobs = s.ovm.jobs := by
    rw [(Overlay.verifyWords_keeps ws _).2, Overlay.suffer_jobs]
  have read : s.Spends (s.setOvm ((s.ovm.suffer us).verifyWords ws).1) 0 :=
    .of_same (by simp [State.queues, jobs])
  have hj : ((s.ovm.suffer us).verifyWords ws).1.jobs.get p = some j := by rw [jobs, hj]
  split
  · rename_i ho
    have opens : j.opensRequest = true := j.opensRequest_iff.mpr ⟨hv, ho⟩
    refine (read.trans (State.spends_post p _ _) (zero_add _)).trans (State.spends_endJob p _ hj w.1) ?_
    simp [opens, countIf]
  · exact read.andThen (State.spends_endJob_zero p _ hj w.1)

theorem State.spends_verificationEnd (s : State) (us : List Upset) : s.Spends (s.verificationEnd us) 0 := by
  unfold State.verificationEnd
  split
  · exact .refl s
  · rename_i q j found
    obtain ⟨hj, hv⟩ := PerPort.firstJob_some found
    split
    · exact s.spends_finishVerification q _ us hj hv
    all_goals exact .refl s

theorem State.spends_receiveTimeout (s : State) : s.Spends s.receiveTimeout 0 := by
  unfold State.receiveTimeout
  split
  · exact .refl s
  · rename_i q j found
    exact (s.spends_raiseTo q .loadTimeout j.region.val 0).andThen
      (State.spends_endJob_zero q (s.raiseTo q .loadTimeout j.region.val 0) (PerPort.firstJob_some found).1 .empty)

/-- A new job holds no request open, and the arbiter gives no other job one (R129). -/
theorem State.spends_admitJob (s : State) (j : Job) : s.Spends (s.admitJob p j).1 0 := by
  have suspended : ∀ k : Job, k.isSuspended = true → (some k).any Job.opensRequest = false := by
    intro k hk
    rw [Option.any_some, ← Bool.not_eq_true, k.opensRequest_iff, (Job.suspended_place hk).2]
    simp
  obtain ⟨st, hst, h⟩ | ⟨-, -, h⟩ | ⟨q, k, -, -, -, -, -, h⟩ := s.admitJob_cases p j <;> rw [h]
  · exact s.spends_setJob_unopened p rfl (suspended _ hst)
  · exact s.spends_setJob_unopened p rfl rfl
  · have displaced : s.Spends (s.setOvm (s.ovm.setJob q (some { k with state := .suspended }))) 0 :=
      s.spends_setJob_unopened q rfl rfl
    exact (displaced.andThen (State.spends_setJob_unopened p (s.setOvm _) rfl rfl)).andThen
      (State.spends_raiseTo q _ _ _ _)

/-! ## QUIET's open request (R176, R177) -/

theorem State.spends_moveTo (s : State) (x : PartState) : s.Spends (s.moveTo x) 0 :=
  s.spends_setStc _ fun q => by
    rw [Pi.zero_apply, add_zero]
    exact Nat.cast_nonneg _

/-- The pending entry taken away frees its place. -/
theorem State.spends_dropEntry (s : State) {x : Controller} (hx : x.entry = none) {e : PendingEntry}
    (he : s.stc.entry = some e) : s.Spends (s.setStc x) (-replyPlace e.port) :=
  s.spends_setStc _ fun q => by
    rw [hx, he, Pi.neg_apply, replyPlace_apply]
    by_cases h : q = e.port
    · simp [h, countIf]
    · simp [h, Ne.symm h, countIf]

/-- The pending entry opened takes a place. -/
theorem State.spends_openEntry (s : State) (tag : Tag) :
    s.Spends (s.setStc { s.stc with entry := some ⟨p, tag⟩ }) (replyPlace p) :=
  s.spends_setStc _ fun q => by
    refine le_add_of_nonneg_of_le (Nat.cast_nonneg _) ?_
    rw [replyPlace_apply]
    by_cases h : q = p
    · simp [h, countIf]
    · simp [h, Ne.symm h, countIf]

theorem State.spends_refuseEntry (s : State) {e : PendingEntry} (he : s.stc.entry = some e) (c : Cause) :
    s.Spends (s.refuseEntry e c) 0 :=
  (s.spends_dropEntry rfl he).trans (State.spends_post e.port _ _)

/-- A reply and an announcement at one moment, in either order. -/
theorem State.spends_answerAndAnnounce (s : State) (first : Bool) (r : Reply) (c : Cause) :
    s.Spends (s.answerAndAnnounce first p r c) (replyPlace p) := by
  unfold State.answerAndAnnounce
  split
  · exact (s.spends_post p r).trans (State.spends_announce _ _)
  · exact State.Spends.trans (s.spends_announce _) (State.spends_post p _ r)

theorem State.spends_blankTest (s : State) (first : Bool) : s.Spends (s.blankTest first) 0 := by
  unfold State.blankTest
  split
  case h_1 =>
    unfold State.entryTest
    split
    · exact .refl s
    · rename_i e he
      split_ifs
      · exact s.spends_refuseEntry he _
      · exact s.spends_refuseEntry he _
      · have dropped : s.Spends (s.moveTo .quiet) (-replyPlace e.port) := s.spends_dropEntry rfl he
        refine (dropped.trans (n := -replyPlace e.port) ?_ (add_zero _)).trans
          (State.spends_answerAndAnnounce e.port _ first _ _)
        exact .of_same rfl
  case h_2 =>
    unfold State.exitTest
    split
    · exact .refl s
    · exact ((s.spends_moveTo .run).andThen (.of_same rfl)).andThen (State.spends_announce _ _)
  all_goals exact .refl s

theorem State.spends_blank (s : State) (o : LineOrder) : s.Spends (s.blank o) 0 := by
  have age : ∀ u : State, u.Spends u.ageStep 0 := fun u => .of_same rfl
  unfold State.blank
  split
  · exact (age s).andThen (State.spends_blankTest _ _)
  · exact (s.spends_blankTest _).andThen (age _)

/-! ## STORE_FITTING's open request (R183, R184) -/

/-- The store opened takes a place. -/
theorem State.spends_openStore (s : State) {f : Fitting} {tag : Tag} {snapshot : List Byte} {layers timer : Nat}
    (hf : f.store = some ⟨p, tag, true, snapshot, layers, timer⟩) : s.Spends (s.setFst f) (replyPlace p) :=
  s.spends_setFst _ fun q => by
    refine le_add_of_nonneg_of_le (Nat.cast_nonneg _) ?_
    rw [hf, replyPlace_apply]
    by_cases h : q = p
    · simp [h, countIf]
    · simp [h, Ne.symm h, countIf]

/-- The store over frees the place of its answer, if that is open. -/
theorem State.spends_endStore (s : State) {f : Fitting} (hf : f.store = none) {x : StoreInFlight}
    (hx : s.fst.store = some x) : s.Spends (s.setFst f) (-(countIf x.answerOpen : ℤ) • replyPlace x.port) :=
  s.spends_setFst _ fun q => by
    rw [hf, hx, Pi.smul_apply, replyPlace_apply]
    by_cases h : q = x.port
    · simp [h, countIf]
    · simp [h, Ne.symm h, countIf]

theorem State.spends_finishStore (s : State) {x : StoreInFlight} (hx : s.fst.store = some x) (good : Bool) :
    s.Spends (s.finishStore x good) 0 := by
  have ended := fun f => s.spends_endStore (f := ⟨f, s.fst.status, none⟩) rfl hx
  unfold State.finishStore
  dsimp only
  by_cases hopen : x.answerOpen = false
  · rw [if_pos hopen]
    exact (ended _).trans (.refl _) (by simp [hopen, countIf])
  · have freed : -(countIf x.answerOpen : ℤ) • replyPlace x.port + replyPlace x.port = 0 := by simp [hopen, countIf]
    rw [if_neg hopen]
    split
    all_goals exact (ended _).trans (State.spends_post x.port _ _) freed

theorem State.spends_storeTimerExpiry (s : State) : s.Spends s.storeTimerExpiry 0 := by
  unfold State.storeTimerExpiry
  split
  · exact .refl s
  · exact s.spends_finishStore ‹_› false

/-! ## The events of a counter value (R51), and the start of the timebase -/

theorem State.spends_fireTop (s : State) (a b : Bool) : s.Spends (s.fireTop a b) 0 :=
  .of_raised (s.fireTop_raised a b) fun q => by simp [State.openRequests]

/-! Drawing a line reads words and can fault regions, and touches no job (R138, R152). -/

theorem Overlay.readWords_jobs (base : Nat) : ∀ (ws : List Nat) (o : Overlay),
    (o.readWords base ws).1.jobs = o.jobs
  | [], _ => rfl
  | w :: ws, o => by
    unfold Overlay.readWords
    split
    · exact Overlay.readWords_jobs base ws o
    · exact Overlay.readWords_jobs base ws (o.correct (base / 8 + w))
    · rfl

theorem State.readBitmap_jobs (s : State) (y : Nat) (e : PlanEntry) (b : BitmapPart) :
    (s.readBitmap y e b).1.ovm.jobs = s.ovm.jobs := by
  unfold State.readBitmap
  dsimp only
  split
  · rfl
  · split
    · rfl
    · rename_i g _
      have read := Overlay.readWords_jobs g.base
        (lineWords ((y - e.record.destY) * b.width) (min e.record.destW b.width)) s.ovm
      split
      · rfl
      · split
        all_goals
          rename_i h
          rw [h] at read
          exact read

theorem State.readEntry_jobs (s : State) (y : Nat) (e : PlanEntry) : (s.readEntry y e).1.ovm.jobs = s.ovm.jobs := by
  unfold State.readEntry
  split
  · exact s.readBitmap_jobs y e _
  all_goals rfl

theorem State.readEntries_jobs (y : Nat) : ∀ (es : List PlanEntry) (s : State),
    (s.readEntries y es).1.ovm.jobs = s.ovm.jobs
  | [], _ => rfl
  | e :: es, s => (State.readEntries_jobs y es (s.readEntry y e).1).trans (s.readEntry_jobs y e)

theorem State.drawLine_jobs (s : State) (y : Nat) : (s.drawLine y).ovm.jobs = s.ovm.jobs := by
  unfold State.drawLine
  split
  · exact State.readEntries_jobs y _ s
  all_goals rfl

theorem State.spends_canvasLine (s : State) : s.Spends s.canvasLine 0 := by
  have jobs : s.canvasLine.ovm.jobs = s.ovm.jobs := by
    unfold State.canvasLine
    dsimp only
    split_ifs <;> simp [State.drawLine_jobs]
  exact .of_raised s.canvasLine_raised fun q => by simp [State.openRequests, jobs]

theorem State.spends_blankAndCommit (s : State) (o : LineOrder) : s.Spends (s.blankAndCommit o) 0 := by
  have commit : ∀ u : State, u.Spends (if u.ftb.line = u.ftb.commitLine then u.commitEvent else u) 0 := by
    intro u
    split
    · exact u.spends_commitEvent
    · exact .refl u
  have blank : ∀ u : State, u.Spends (if u.ftb.line = 720 then u.blank o else u) 0 := by
    intro u
    split
    · exact u.spends_blank o
    · exact .refl u
  unfold State.blankAndCommit
  dsimp only
  split
  · exact (commit s).andThen (blank _)
  · exact (blank s).andThen (commit _)

theorem State.spends_lineEvents (s : State) (a b : Bool) (o : LineOrder) : s.Spends (s.lineEvents a b o) 0 := by
  have strobe : ∀ u : State, u.Spends u.strobe 0 := fun u => .of_same rfl
  unfold State.lineEvents
  dsimp only
  have top : s.Spends (if s.ftb.line = 0 then s.fireTop a b else s) 0 := by
    split
    · exact s.spends_fireTop a b
    · exact .refl s
  have drawn := top.andThen (State.spends_canvasLine _)
  split
  · exact (drawn.andThen (strobe _)).andThen (State.spends_blankAndCommit _ o)
  · exact (drawn.andThen (State.spends_blankAndCommit _ o)).andThen (strobe _)

theorem State.spends_startRun (s : State) (out : Surroundings) : s.Spends (s.startRun out) 0 := by
  have ready : s.Spends (s.readyToRun out) 0 := by
    refine State.Spends.andThen (t := s.openStep out.upsets) ?_ ((State.spends_moveTo _ .run).andThen (.of_same rfl))
    exact .of_same (by simp [State.queues, State.openStep])
  rw [State.startRun_eq]
  exact ready.andThen (State.spends_lineEvents _ _ _ _)

theorem State.spends_wakeUp (s : State) (meets : Waking) : s.Spends (s.wakeUp meets) 0 := by
  obtain ⟨c, hc, -⟩ := State.inputEvents_only meets.inputs ((s.setScn s.scn.wake).moveTo .run)
  unfold State.wakeUp
  rw [hc]
  have woken : s.Spends (((s.setScn s.scn.wake).moveTo .run).setScn c) 0 :=
    (s.spends_moveTo .run).andThen (.of_same rfl)
  exact woken.andThen (State.spends_startRun _ meets.out)

theorem State.spends_settleFitting (s : State) : s.Spends s.settleFitting 0 := by
  have bad : ∀ n, s.Spends (s.fittingBad n) 0 := fun n =>
    State.Spends.andThen (t := s.fittingStatus .bad) (.of_same rfl) (State.spends_raiseAll _ _ _ _)
  unfold State.settleFitting
  split
  · exact .of_same rfl
  · exact bad 1
  · split
    · exact bad 1
    · split_ifs
      · exact bad 2
      · exact bad 3
      · exact .of_same (by simp [State.queues, State.applyFitting, State.fittingStatus, LayerTable.install])

theorem State.spends_endBoot (s : State) (out : Surroundings) : s.Spends (s.endBoot out) 0 := by
  unfold State.endBoot
  dsimp only
  have settled : s.Spends (s.settleFitting.setScn s.settleFitting.scn.endBoot) 0 :=
    s.spends_settleFitting.andThen (.of_same (by simp [State.queues]))
  exact (settled.andThen (State.spends_startRun _ out)).andThen (State.spends_announce _ .bootEnd)

theorem State.spends_enterDormant (s : State) : s.Spends s.enterDormant 0 :=
  State.Spends.andThen (s.spends_moveTo .dormant)
    (.of_same (by simp [State.queues, State.enterDormant, State.setMarkers]))

/-! ## A millisecond of the part's own clock (log 2) -/

theorem State.spends_speedAgeExpiry (s : State) : s.Spends s.speedAgeExpiry 0 := by
  unfold State.speedAgeExpiry
  split
  · exact .refl s
  · exact State.Spends.andThen (t := s.setScn _) (.of_same rfl) (State.spends_raiseAll _ _ _ _)

theorem State.spends_inputEvent (s : State) (e : InputEvent) : s.Spends (s.inputEvent e) 0 := by
  obtain ⟨c, h, -⟩ := s.inputEvent_only e
  rw [h]
  exact .of_same rfl

theorem State.spends_tickReceive (s : State) : s.Spends s.tickReceive 0 := by
  obtain ⟨-, h⟩ | ⟨p, j, a, found, -, h⟩ := s.tickReceive_cases <;> rw [h]
  · exact .refl s
  · obtain ⟨hj, -⟩ := PerPort.firstJob_some found
    split
    · exact s.spends_setJob_unopened p rfl rfl
    · exact (s.spends_raiseTo p .loadTimeout j.region.val 0).andThen
        (State.spends_endJob_zero p (s.raiseTo p .loadTimeout j.region.val 0) hj .empty)

theorem State.spends_tickVerify (s : State) : s.Spends s.tickVerify 0 := by
  obtain ⟨-, h⟩ | ⟨p, j, a, tag, found, hs, h⟩ := s.tickVerify_cases <;> rw [h]
  · exact .refl s
  · obtain ⟨hj, hv⟩ := PerPort.firstJob_some found
    split
    · refine zero_smul ℤ (replyPlace p) ▸ s.spends_setJob p (k := 0) rfl ?_
      simp [hj, Job.opensRequest, hs]
    · exact s.spends_finishVerification p tag [] hj hv

theorem State.spends_tick (s : State) : s.Spends s.tick 0 := by
  cases hr : s.pins.resetLow with
  | true =>
    rw [State.tick_of_reset_low hr]
    exact .refl s
  | false =>
    have inputs : s.Spends s.tickInputs 0 := by
      obtain ⟨inputs, pending, h⟩ := s.tickInputs_changes
      rw [h]
      exact .of_same rfl
    have speed : ∀ u : State, u.Spends u.tickSpeed 0 := by
      intro u
      unfold State.tickSpeed
      repeat' split
      · exact .refl u
      · exact u.spends_speedAgeExpiry
      · exact .of_same rfl
    have cameras : ∀ u : State, u.Spends u.tickCameras 0 := by
      intro u
      obtain ⟨k, h⟩ := u.tickCameras_changes
      rw [h]
      exact .of_same rfl
    have receive : ∀ u : State, u.Spends u.tickReceive 0 := fun u => u.spends_tickReceive
    have verify : ∀ u : State, u.Spends u.tickVerify 0 := fun u => u.spends_tickVerify
    have store : ∀ u : State, u.Spends u.tickStore 0 := by
      intro u
      unfold State.tickStore
      split
      · exact .refl u
      · rename_i x hx
        split
        · exact u.spends_storeTimerExpiry
        · exact u.spends_setFst _ fun q => by simp [hx]
    rw [State.tick_of_reset_high hr]
    exact ((((inputs.andThen (speed _)).andThen (cameras _)).andThen (receive _)).andThen (verify _)).andThen (store _)

end Places

/-! ## The bounds over one command -/

theorem State.portsGood_iff (s : State) : s.PortsGood ↔ ∀ p, s.PortGood p :=
  ⟨fun ⟨body, detect, cab⟩ p => by cases p <;> assumption, fun h => ⟨h .body, h .detect, h .cab⟩⟩

/-- If the command answers a next state, the bounds hold there too. -/
def State.KeepsBounds (s : State) (o : Outcome) : Prop := ∀ t, o = .next t → (∀ p, s.PortGood p) → ∀ p, t.PortGood p

/-- What a block answers for a request taken spends at most one place of its port. -/
def State.SpendsOne (s : State) (p : Port) (o : Outcome) : Prop := ∀ t, o = .next t → s.Spends t (replyPlace p)

section Commands

variable {s t u : State} {p : Port}

theorem State.keepsBounds_next (h : s.Spends t 0) : s.KeepsBounds (.next t) := by
  rintro _ ⟨⟩ good q
  obtain ⟨hr, ha, hp⟩ := h q
  obtain ⟨gr, ga, gp⟩ := good q
  refine ⟨hr.trans gr, ha ga, ?_⟩
  simp only [Pi.zero_apply] at hp
  omega

/-- Where a place of the port is free, one can be spent. -/
theorem State.Spends.portGood (h : s.Spends t (replyPlace p)) (free : s.placesInUse p < 8) (good : ∀ q, s.PortGood q)
    (q : Port) : t.PortGood q := by
  obtain ⟨hr, ha, hp⟩ := h q
  obtain ⟨gr, ga, gp⟩ := good q
  refine ⟨hr.trans gr, ha ga, ?_⟩
  rw [replyPlace_apply] at hp
  split at hp
  · subst q
    omega
  · omega

theorem State.spendsOne_next (h : s.Spends t (replyPlace p)) : s.SpendsOne p (.next t) := by
  rintro _ ⟨⟩
  exact h

theorem State.spendsOne_fault (f : Fault) : s.SpendsOne p (.fault f) := by
  rintro _ ⟨⟩

/-- A reply to the port, the queues and the open requests as they were. -/
theorem State.spends_answered (h : t.queues = s.queues) (r : Reply) : s.Spends (t.post p r) (replyPlace p) :=
  State.Spends.trans (.of_same h) (t.spends_post p r)

/-- A reply to the port, after a step that spends nothing. -/
theorem State.spendsOne_answered (h : s.Spends t 0) (r : Reply) : s.SpendsOne p (.next (t.post p r)) :=
  State.spendsOne_next (h.trans (t.spends_post p r))

theorem RequestKind.code_eq_resetPort {kind : RequestKind} (h : kind.code = RequestKind.code .resetPort) :
    kind = .resetPort := by
  revert h
  cases kind <;> decide

/-- Taken with a place free, a request is answered in it, or held open in it by its block (R164). -/
theorem serve_portGood {kind : RequestKind} {block : Request → State → Outcome} (ht : serve kind p s block = .next t)
    (free : s.placesInUse p < 8) (h : ∀ r, (s.taken p).SpendsOne p (block r (s.taken p))) (good : ∀ q, s.PortGood q)
    (q : Port) : t.PortGood q := by
  obtain ⟨-, hn⟩ | ⟨r, -, ⟨c, i, hn⟩ | ⟨-, -, -, hn⟩⟩ := serve_cases s p ht
  · cases hn
    exact good q
  · cases hn
    rw [← State.taken_answer]
    exact ((s.spends_taken p).trans (State.spends_post p _ _)).portGood free good q
  · exact ((s.spends_taken p).trans (h r t hn.symm)).portGood free good q

/-- No request but a RESET_PORT is taken without a free place (R164). -/
theorem serve_keepsBounds {kind : RequestKind} {block : Request → State → Outcome} (hk : kind ≠ .resetPort)
    (h : ∀ r, (s.taken p).SpendsOne p (block r (s.taken p))) : s.KeepsBounds (serve kind p s block) := by
  intro t ht good
  by_cases free : s.placesInUse p < 8
  · exact serve_portGood ht free h good
  · obtain ⟨-, hn⟩ | ⟨r, hd, -⟩ := serve_cases s p ht
    · cases hn
      exact good
    · obtain ⟨-, code, taken⟩ := s.headIs_some p hd
      have other : r.kind ≠ RequestKind.code .resetPort := fun e => hk (RequestKind.code_eq_resetPort (code ▸ e))
      simp [State.executorFree, other, free] at taken

theorem onSlot_spendsOne {r : Request} {f : Fin 24 → State} (h : ∀ i, s.Spends (f i) (replyPlace p)) :
    s.SpendsOne p (onSlot p r s f) := by
  unfold onSlot
  split
  · exact State.spendsOne_answered (.refl s) _
  · exact State.spendsOne_next (h _)

/-! The blocks that do more than write their own part and answer. -/

theorem seizeSlot_spends (r : Request) (i : Fin 24) : s.Spends (seizeSlot p r s i) (replyPlace p) := by
  have moved : s.Spends ((s.setLtb (s.ltb.leaveSet s.ltb.slots[i].owner i)).setSlot i (s.ltb.slots[i].grant .body)) 0 :=
    (s.spends_leaveSet _ i).andThen (.of_same rfl)
  unfold seizeSlot
  dsimp only
  split
  · exact s.spends_post p _
  · split
    · exact (moved.andThen (State.spends_raiseTo _ _ _ _ _)).trans (State.spends_post p _ _)
    all_goals exact moved.trans (State.spends_post p _ _)

theorem releaseSlot_spends (r : Request) (i : Fin 24) : s.Spends (releaseSlot p r s i) (replyPlace p) := by
  unfold releaseSlot
  split
  · have freed : s.Spends (s.freeSlot i) 0 := (s.spends_leaveSet _ i).andThen (.of_same rfl)
    exact freed.trans (State.spends_post p _ _)
  · exact s.spends_post p _

theorem State.spends_raiseNear (ts : List Nat) : ∀ s : State, s.Spends (s.raiseNear ts) 0 := by
  induction ts with
  | nil => exact State.Spends.refl
  | cons t ts ih => exact fun s => (s.spends_raiseAll _ _ _).andThen (ih _)

theorem openLoadRegion_spends (r : Request) (g : Fin 16) : s.Spends (openLoadRegion p r s g) (replyPlace p) := by
  unfold openLoadRegion
  split
  · exact s.spends_post p _
  · dsimp only
    split_ifs
    iterate 4 exact s.spends_post p _
    have opened : s.Spends (s.setOvm (s.ovm.setContent g .loading)) 0 := .of_same rfl
    exact (opened.andThen (State.spends_admitJob p _ _)).trans (State.spends_post p _ _)

theorem execLoadData_keepsBounds (p : Port) (s : State) : s.KeepsBounds (execLoadData p s) := by
  refine serve_keepsBounds (by decide) fun r => ?_
  generalize s.taken p = s
  dsimp only
  split
  · exact State.spendsOne_answered (.refl s) _
  · rename_i j hj
    have taken : ∀ k : Job, (countIf k.opensRequest : ℤ) ≤ 1 := fun k => by unfold countIf; split <;> simp
    split_ifs with hlen hv hs hseq hpast haddr hend
    iterate 5 exact State.spendsOne_answered (.refl s) _
    · exact State.spendsOne_fault _
    · refine State.spendsOne_answered (t := s.setOvm _) (s.spends_setJob_unopened p rfl ?_) _
      rw [if_pos hend]
      rfl
    · refine State.spendsOne_next (one_smul ℤ (replyPlace p) ▸ s.spends_setJob p (k := 1) rfl ?_)
      exact (taken _).trans (by simp)

/-! ## RESET_PORT (R171): the port's places fall free -/

theorem Job.opensRequest_unanswered (j : Job) : ({ j with answerOpen := false } : Job).opensRequest = false := by
  rw [← Bool.not_eq_true, Job.opensRequest_iff]
  simp

/-- The port's job is gone, or its answer dropped; alerts can have been raised (R135). -/
theorem State.resetJob_shape (s : State) (p : Port) : ∃ o x, s.resetJob p = (s.setOvm o).setPorts x
    ∧ s.Raised (s.resetJob p) ∧ (o.jobs.get p).any Job.opensRequest = false := by
  unfold State.resetJob
  split
  · rename_i h
    exact ⟨s.ovm, s.ports, rfl, .refl s, by rw [h]; rfl⟩
  · rename_i j _
    split
    · refine ⟨_, s.ports, (State.setPorts_self (s.setOvm _)).symm, .of_ports rfl, ?_⟩
      rw [Overlay.setJob_get_self]
      exact j.opensRequest_unanswered
    · obtain ⟨o, x, h, raised, -, -, -, -, -, gone, -⟩ := s.endJob_shape p j .empty
      exact ⟨o, x, h, raised, by rw [gone]; rfl⟩

theorem State.spends_resetJob (s : State) (p : Port) : s.Spends (s.resetJob p) 0 := by
  unfold State.resetJob
  split
  · exact .refl s
  · rename_i j hj
    split
    · exact s.spends_setJob_unopened p rfl j.opensRequest_unanswered
    · exact s.spends_endJob_zero p hj _

/-- What the blocks' rules leave of the open requests before the port's job is seen to. -/
theorem State.resetBlocks_shape (s : State) (p : Port) : ∃ u : State, s.resetBlocks p = u.resetJob p
    ∧ u.queues
      = ⟨s.ports, s.ltb.sets.set p none, s.ovm.jobs, (s.stc.portReset p).entry, (s.fst.portReset p).store⟩ := by
  unfold State.resetBlocks
  refine ⟨_, rfl, ?_⟩
  split <;> simp [State.queues, State.setMarkers]

theorem countIf_le {a b : Bool} (h : a = true → b = true) : countIf a ≤ countIf b := by
  cases a
  · exact Nat.zero_le _
  · rw [h rfl]

/-- A port reset opens no request. -/
theorem State.spends_resetBlocks (s : State) (p : Port) : s.Spends (s.resetBlocks p) 0 := by
  obtain ⟨u, h, hu⟩ := s.resetBlocks_shape p
  injection hu with ports sets jobs entry store
  rw [h]
  refine State.Spends.andThen (.of_raised (.of_ports ports) fun q => ?_) (u.spends_resetJob p)
  have hsets : countIf (u.ltb.sets.get q).isSome ≤ countIf (s.ltb.sets.get q).isSome := by
    rw [sets, PerPort.get_set]
    split
    · exact Nat.zero_le _
    · rfl
  have hentry : countIf (u.stc.entry.any fun e => decide (e.port = q))
      ≤ countIf (s.stc.entry.any fun e => decide (e.port = q)) := by
    rw [entry]
    refine countIf_le ?_
    simp only [Controller.portReset, Option.any_filter, Option.any_eq_true]
    rintro ⟨e, he, hq⟩
    exact ⟨e, he, And.right (by simpa using hq)⟩
  have hstore : countIf (u.fst.store.any fun y => decide (y.port = q) && y.answerOpen)
      ≤ countIf (s.fst.store.any fun y => decide (y.port = q) && y.answerOpen) := by
    rw [store]
    refine countIf_le ?_
    simp only [Fitting.portReset, Option.any_map, Option.any_eq_true]
    rintro ⟨x, hx, hq⟩
    refine ⟨x, hx, ?_⟩
    split at hq
    · simp at hq
    · exact hq
  simp only [State.openRequests, jobs, Pi.zero_apply]
  omega

theorem State.resetBlocks_replies (s : State) (p q : Port) :
    ((s.resetBlocks p).ports.get q).replies = (s.ports.get q).replies := by
  obtain ⟨u, h, hu⟩ := s.resetBlocks_shape p
  obtain ⟨_, _, -, raised, -⟩ := u.resetJob_shape p
  obtain ⟨-, replies, -⟩ := raised q
  rw [h, replies, show u.ports = s.ports from congrArg QueueView.ports hu]

/-- And leaves none of the port open. -/
theorem State.resetBlocks_unopened (s : State) (p : Port) : (s.resetBlocks p).openRequests p = 0 := by
  obtain ⟨u, h, hu⟩ := s.resetBlocks_shape p
  injection hu with ports sets jobs entry store
  obtain ⟨o, x, hx, -, unopened⟩ := u.resetJob_shape p
  rw [h, hx]
  have hentry : (u.stc.entry.any fun e => decide (e.port = p)) = false := by
    rw [entry, Controller.portReset, Option.any_filter]
    simp
  have hstore : (u.fst.store.any fun y => decide (y.port = p) && y.answerOpen) = false := by
    rw [store, Fitting.portReset, Option.any_map, Option.any_eq_false]
    intro y hy
    split <;> simp [*]
  simp [State.openRequests, sets, hentry, hstore, unopened, countIf]

/-- A RESET_PORT may be taken with no place free: its reply takes the first of the places it frees (R171). -/
theorem execResetPort_keepsBounds (p : Port) (s : State) : s.KeepsBounds (execResetPort p s) := by
  have cleared : ∀ u : State, u.Spends ((u.modPort p PortState.clear).resetBlocks p) 0 := fun u =>
    (u.spends_modPort p (Nat.zero_le _) (Nat.zero_le _) (Nat.zero_le _)).andThen (State.spends_resetBlocks _ p)
  have empty : ∀ u : State, ((u.modPort p PortState.clear).resetBlocks p).placesInUse p = 0 := by
    intro u
    rw [State.placesInUse, State.resetBlocks_unopened, State.resetBlocks_replies, State.modPort_get]
    rfl
  intro t ht good
  by_cases free : s.placesInUse p < 8
  · exact serve_portGood ht free (fun r => State.spendsOne_answered (cleared _) _) good
  · have untaken : ∀ q, (s.taken p).PortGood q := State.keepsBounds_next (s.spends_taken p) _ rfl good
    obtain ⟨-, hn⟩ | ⟨r, hd, -⟩ := serve_cases s p ht
    · cases hn
      exact good
    · have payload : r.payload = [] := by
        obtain ⟨-, -, taken⟩ := s.headIs_some p hd
        simp only [State.executorFree, free, decide_false, Bool.false_or, Bool.and_eq_true, decide_eq_true_eq] at taken
        obtain ⟨-, -, empty⟩ := taken
        exact empty
      simp only [execResetPort, serve, hd, RequestKind.permitted, RequestKind.admitted, RequestKind.payloadFits,
        payload, List.length_nil, decide_true, Bool.true_eq_false, if_false, State.dropRequest_eq] at ht
      cases ht
      refine (State.spends_post p _ _).portGood ?_ (State.keepsBounds_next (cleared _) _ rfl untaken)
      rw [empty]
      decide

/-! ## The end of a transaction, and UNKNOWN_KIND -/

theorem PortState.deliver_shrinks (x : PortState) (o : Option Offer) :
    (x.deliver o).requests.length ≤ x.requests.length ∧ (x.deliver o).alerts.length ≤ x.alerts.length
    ∧ (x.deliver o).replies.length ≤ x.replies.length := by
  unfold PortState.deliver
  split
  · exact ⟨le_rfl, le_rfl, le_rfl⟩
  · exact ⟨le_rfl, le_rfl, List.length_filter_le _ _⟩
  · split
    · exact ⟨le_rfl, List.length_filter_le _ _, le_rfl⟩
    · exact ⟨le_rfl, le_rfl, le_rfl⟩

/-- A request joins its queue only below 4, and BAD_CHECK takes a place only if one is free (R162). -/
theorem State.examine_portGood (bytes : List Byte) (good : ∀ q, s.PortGood q) (q : Port) :
    (s.examine p bytes).PortGood q := by
  have overrun : ∀ q, (s.modPort p fun q => { q with overrun := true }).PortGood q :=
    State.keepsBounds_next (s.spends_modPort p le_rfl le_rfl le_rfl) _ rfl good
  unfold State.examine
  dsimp only
  split_ifs with bad free poll full
  · exact (s.spends_post p _).portGood free good q
  · exact overrun q
  · exact good q
  · exact overrun q
  · obtain ⟨hr, ha, hp⟩ := good q
    by_cases hq : q = p
    · subst hq
      rw [State.PortGood, State.placesInUse, State.modPort_get]
      refine ⟨?_, ha, hp⟩
      rw [List.length_append, List.length_singleton]
      omega
    · rw [State.PortGood, State.placesInUse, State.modPort_get_of_ne _ _ _ _ hq]
      exact ⟨hr, ha, hp⟩

theorem execTransactionEnd_keepsBounds (p : Port) (bytes : List Byte) (s : State) :
    s.KeepsBounds (execTransactionEnd p bytes s) := by
  unfold execTransactionEnd
  split
  · exact State.keepsBounds_next (.refl s)
  · rename_i x _
    have ended : s.Spends (s.modPort p fun q =>
        { q with transaction := none, clockedOut := x.clockOut bytes.length }) 0 :=
      s.spends_modPort p le_rfl le_rfl le_rfl
    dsimp only
    split
    · exact State.keepsBounds_next (ended.andThen (State.spends_modPort p _ le_rfl le_rfl le_rfl))
    · rintro _ ⟨⟩ good
      obtain ⟨hr, ha, hp⟩ := PortState.deliver_shrinks
        ((s.modPort p fun q => { q with transaction := none, clockedOut := x.clockOut bytes.length }).ports.get p)
        x.offer
      exact State.examine_portGood bytes (State.keepsBounds_next
        (ended.andThen (State.spends_modPort p _ hr ha hp)) _ rfl good)

theorem RequestKind.mem_all (kind : RequestKind) : kind ∈ RequestKind.all := by cases kind <;> decide

theorem RequestKind.ofCode_eq_none {b : Byte} : RequestKind.ofCode b = none ↔ ∀ kind : RequestKind, b ≠ kind.code := by
  simp only [RequestKind.ofCode, List.find?_eq_none, decide_eq_true_eq]
  exact ⟨fun h kind e => h kind kind.mem_all e.symm, fun h kind _ e => h kind e.symm⟩

/-- The head that the executor can take (R164). -/
theorem State.head_eq_some {r : Request} : s.head p = some r ↔
    (s.ports.get p).requests.head? = some r ∧ s.executorFree p r = true := by
  unfold State.head
  cases h : (s.ports.get p).requests with
  | nil => simp
  | cons a as =>
    dsimp only
    rw [List.head?_cons, Option.ite_none_right_eq_some, Option.some.injEq]
    constructor
    · rintro ⟨free, rfl⟩
      exact ⟨rfl, free⟩
    · rintro ⟨rfl, free⟩
      exact ⟨free, rfl⟩

theorem State.executorFree_of_not_reset {r : Request} (h : r.kind ≠ RequestKind.code .resetPort) :
    s.executorFree p r = true ↔ s.pins.resetLow = false ∧ s.placesInUse p < 8 := by
  simp [State.executorFree, h]

theorem execUnknownKind_keepsBounds (p : Port) (s : State) : s.KeepsBounds (execUnknownKind p s) := by
  unfold execUnknownKind
  split
  · exact State.keepsBounds_next (.refl s)
  · rename_i r hd
    split
    · exact State.keepsBounds_next (.refl s)
    · rename_i unknown
      rintro _ ⟨⟩ good
      have unknown := RequestKind.ofCode_eq_none.mp (by simpa using unknown)
      have free := (State.executorFree_of_not_reset (unknown _)).mp (State.head_eq_some.mp hd).2
      exact ((s.spends_taken p).trans (State.spends_post p _ _)).portGood free.2 good

end Commands

/-! ## Every command -/

/-- The commands whose blocks write nothing that holds a request open, and answer. -/
def Instr.answersAtOnce : Instr → Bool
  | .identify _ | .readLayer _ | .readSignals _ | .readMarkers _ | .readRegions _ | .cameraStatus _ | .claim _ | .edit _
  | .force _ | .alloc _ | .free _ | .eccClear _ | .setPeriod _ | .setCommitLine _ | .setStrobe _ | .setGenlock _
  | .resync _ | .cameraRestart _ | .setInput _ | .speed _ | .setSpeedBands _ | .setVirtual _ | .unmark _
  | .clearMarks _ | .setPalette _ => true
  | _ => false

theorem exec_keepsBounds_of_answersAtOnce {c : Instr} (hc : Instr.answersAtOnce c = true) (s : State) :
    s.KeepsBounds (exec c s) := by
  cases c with
  | readLayer p =>
    simp only [exec, execReadLayer]
    exact serve_keepsBounds (by decide) fun r => onSlot_spendsOne fun i => State.spends_post p _ _
  | claim p | edit p | force p =>
    simp only [exec, execClaim, execEdit, execForce]
    refine serve_keepsBounds (by decide) fun r => onSlot_spendsOne fun i => ?_
    generalize s.taken p = s
    simp only [claimSlot, editSlot, forceSlot]
    repeat' split
    all_goals exact State.spends_answered (by rfl) _
  | identify p | readSignals p | readMarkers p | readRegions p | cameraStatus p | clearMarks p | resync p | setInput p
  | speed p | setSpeedBands p | setVirtual p | unmark p | setPalette p | setPeriod p | setCommitLine p | setStrobe p
  | setGenlock p | alloc p | free p | eccClear p | cameraRestart p =>
    simp only [exec, acceptTimebase, freeRegion, execIdentify, execReadSignals, execReadMarkers, execReadRegions,
      execCameraStatus, execClearMarks, execResync, execSetInput, execSpeed, execSetSpeedBands, execSetVirtual,
      execUnmark, execSetPalette, execSetPeriod, execSetCommitLine, execSetStrobe, execSetGenlock, execAlloc, execFree,
      execEccClear, execCameraRestart]
    refine serve_keepsBounds (by decide) fun r => ?_
    generalize s.taken p = s
    repeat' split
    all_goals exact State.spendsOne_answered (.of_same (by rfl)) _
  | _ => cases hc

/-- Every command that answers a next state keeps the bounds. -/
theorem exec_keepsBounds (c : Instr) (s : State) : s.KeepsBounds (exec c s) := by
  by_cases hc : Instr.answersAtOnce c = true
  · exact exec_keepsBounds_of_answersAtOnce hc s
  cases c with
  | deviceReset campop =>
    rintro _ ⟨⟩ - q
    cases q <;> exact ⟨Nat.zero_le _, Nat.zero_le _, Nat.zero_le _⟩
  | bootStart => exact State.keepsBounds_next (.of_same (by rfl))
  | bootEnd out =>
    simp only [exec, execBootEnd]
    split
    · exact State.keepsBounds_next (s.spends_endBoot out)
    · exact State.keepsBounds_next (.refl s)
  | transactionStart p =>
    simp only [exec, execTransactionStart]
    split
    · exact State.keepsBounds_next (.refl s)
    · exact State.keepsBounds_next (s.spends_modPort p le_rfl le_rfl le_rfl)
  | transactionEnd p bytes => exact execTransactionEnd_keepsBounds p bytes s
  | unknownKind p => exact execUnknownKind_keepsBounds p s
  | resetPort p => exact execResetPort_keepsBounds p s
  | subscribe p =>
    simp only [exec, execSubscribe]
    refine serve_keepsBounds (by decide) fun r => ?_
    split
    · exact State.spendsOne_answered (State.spends_modPort p _ le_rfl le_rfl le_rfl) _
    · exact State.spendsOne_answered (.refl _) _
  | seize p =>
    simp only [exec, execSeize]
    exact serve_keepsBounds (by decide) fun r => onSlot_spendsOne fun i => seizeSlot_spends r i
  | release p =>
    simp only [exec, execRelease]
    exact serve_keepsBounds (by decide) fun r => onSlot_spendsOne fun i => releaseSlot_spends r i
  | discard p =>
    simp only [exec, execDiscard]
    refine serve_keepsBounds (by decide) fun r => ?_
    generalize s.taken p = s
    split
    · exact State.spendsOne_answered (.refl s) _
    · exact State.spendsOne_answered (.of_same (by simp [State.queues])) _
  | commit p =>
    simp only [exec, execCommit]
    refine serve_keepsBounds (by decide) fun r => ?_
    split_ifs
    · exact State.spendsOne_answered (.refl _) _
    · exact State.spendsOne_answered (.refl _) _
    · exact State.spendsOne_next (State.spends_openSet p _ _)
  | openLoad p =>
    simp only [exec, execOpenLoad]
    refine serve_keepsBounds (by decide) fun r => ?_
    split
    · exact State.spendsOne_answered (.refl _) _
    · exact State.spendsOne_next (openLoadRegion_spends r _)
  | loadData p => exact execLoadData_keepsBounds p s
  | abortLoad p =>
    simp only [exec, execAbortLoad]
    refine serve_keepsBounds (by decide) fun r => ?_
    split
    · exact State.spendsOne_answered (.refl _) _
    · rename_i j hj
      split
      · exact State.spendsOne_answered (.refl _) _
      · exact State.spendsOne_answered (State.spends_endJob_zero p _ hj _) _
  | mark p =>
    simp only [exec, execMark]
    refine serve_keepsBounds (by decide) fun r => ?_
    generalize s.taken p = s
    split
    · exact State.spendsOne_answered (.refl s) _
    · have set : ∀ ms, s.Spends (s.setMarkers ms) 0 := fun ms => .of_same rfl
      exact State.spendsOne_answered ((set _).andThen (State.spends_raiseNear _ _)) _
  | setNear p =>
    simp only [exec, execSetNear]
    refine serve_keepsBounds (by decide) fun r => ?_
    generalize s.taken p = s
    split
    · exact State.spendsOne_answered (.refl s) _
    · have set : ∀ m ms, s.Spends ((s.setMkm m).setMarkers ms) 0 := fun m ms => .of_same rfl
      exact State.spendsOne_answered ((set _ _).andThen (State.spends_raiseNear _ _)) _
  | run p =>
    simp only [exec, execRun]
    refine serve_keepsBounds (by decide) fun r => ?_
    generalize s.taken p = s
    split
    · exact State.spendsOne_answered (.of_same (by rfl)) _
    · split
      · exact State.spendsOne_answered (s.spends_refuseEntry ‹_› _) _
      · exact State.spendsOne_answered (.refl s) _
  | quiet p =>
    simp only [exec, execQuiet]
    refine serve_keepsBounds (by decide) fun r => ?_
    generalize s.taken p = s
    split_ifs
    · exact State.spendsOne_answered (.of_same (by rfl)) _
    · exact State.spendsOne_answered (.refl s) _
    · exact State.spendsOne_next (s.spends_openEntry p r.tag)
  | dormant p first =>
    simp only [exec, execDormant]
    refine serve_keepsBounds (by decide) fun r => ?_
    generalize s.taken p = s
    split_ifs
    · exact State.spendsOne_answered (.refl s) _
    · exact State.spendsOne_answered (.refl s) _
    · exact State.spendsOne_next (s.spends_enterDormant.trans (State.spends_answerAndAnnounce p _ _ _ _))
  | wake p meets first =>
    simp only [exec, execWake]
    refine serve_keepsBounds (by decide) fun r => ?_
    generalize s.taken p = s
    split_ifs
    · exact State.spendsOne_answered (.refl s) _
    · refine State.spendsOne_next (State.Spends.trans (s.spends_post p _)
        ((State.spends_wakeUp _ meets).andThen (State.spends_announce _ _)))
    · exact State.spendsOne_answered ((s.spends_wakeUp meets).andThen (State.spends_announce _ _)) _
  | storeFitting p =>
    simp only [exec, execStoreFitting]
    refine serve_keepsBounds (by decide) fun r => ?_
    generalize s.taken p = s
    split_ifs
    · exact State.spendsOne_answered (.refl s) _
    · exact State.spendsOne_answered (.refl s) _
    · exact State.spendsOne_next (s.spends_openStore p rfl)
  | storeEnd ok =>
    simp only [exec, execStoreEnd]
    split
    · exact State.keepsBounds_next (.refl s)
    · exact State.keepsBounds_next (s.spends_finishStore ‹_› ok)
  | storeTimerExpiry => exact State.keepsBounds_next s.spends_storeTimerExpiry
  | lineEnd out o =>
    simp only [exec, execLineEnd]
    split
    · exact State.keepsBounds_next (.refl s)
    · have arrived : s.Spends (s.arrived out) 0 := .of_same (by simp [State.queues])
      exact State.keepsBounds_next (arrived.andThen (State.spends_lineEvents (s.arrived out) _ _ o))
  | dsync =>
    have taken : s.Spends (s.setFtb s.ftb.dsync) 0 := .of_same rfl
    simp only [exec, execDsync]
    split_ifs
    · exact State.keepsBounds_next (.refl s)
    · exact State.keepsBounds_next (taken.andThen (State.spends_raiseAll _ _ _ _))
    · exact State.keepsBounds_next (taken.andThen (State.spends_raiseAll _ _ _ _))
    · exact State.keepsBounds_next taken
  | frameStart | cameraLine | frameEnd =>
    simp only [exec, execFrameStart, execCameraLine, execFrameEnd]
    split <;> exact State.keepsBounds_next (.of_same (by rfl))
  | powerOffExpiry k =>
    simp only [exec, execPowerOffExpiry, State.powerOffExpiry]
    split <;> exact State.keepsBounds_next (.of_same (by rfl))
  | inputRawChange n level =>
    exact State.keepsBounds_next (s.spends_inputEvent (.rawChange n level))
  | debounceExpiry n =>
    exact State.keepsBounds_next (s.spends_inputEvent (.debounceExpiry n))
  | speedAgeExpiry => exact State.keepsBounds_next s.spends_speedAgeExpiry
  | wakeIn meets =>
    simp only [exec, execWakeIn]
    split
    · exact State.keepsBounds_next ((s.spends_wakeUp meets).andThen (State.spends_announce _ _))
    · exact State.keepsBounds_next (.refl s)
  | verificationEnd us => exact State.keepsBounds_next (s.spends_verificationEnd us)
  | receiveTimeout => exact State.keepsBounds_next s.spends_receiveTimeout
  | _ => exact absurd rfl hc

/-- Settles O6: a millisecond spends no place (`State.spends_tick`), and every command keeps the bounds
(`exec_keepsBounds`). -/
theorem everyStepKeepsQueueBounds : Obligations.EveryStepKeepsQueueBounds := by
  intro s t good h
  rw [State.portsGood_iff] at good ⊢
  unfold step at h
  split at h
  · cases h
    exact State.keepsBounds_next s.spends_tick _ rfl good
  · rename_i c rest _
    exact exec_keepsBounds c (s.setPending rest) t h good

end Sys2Proof.Machine

/-! Request frames (R160, R185, 11.1.1): the frame of a request reads back as the request. -/

namespace Sys2Proof.Machine

section Frame

variable (r : Request)

/-- The bytes before the check: the header with the payload's length, and the payload. -/
def Request.body : List Byte :=
  [r.kind, r.tag.zeroExtend 8, byte r.payload.length, byte (r.payload.length / 256)] ++ r.payload

theorem Request.frame_eq :
    r.frame = r.body ++ [(crc16 r.body).extractLsb' 8 8, (crc16 r.body).extractLsb' 0 8] := rfl

theorem Request.body_length : r.body.length = 4 + r.payload.length := by simp [Request.body]; omega

theorem Request.declaredLength_frame (h : r.payload.length < 65536) : declaredLength r.frame = r.payload.length := by
  have header : (r.frame.drop 2).take 2 = le 2 r.payload.length := rfl
  rw [declaredLength, header, fromLe_le 2 _ h]

/-- The two bytes of a CRC-16, high byte first, are the CRC-16 again. -/
theorem extract_append_extract (c : BitVec 16) : c.extractLsb' 8 8 ++ c.extractLsb' 0 8 = c := by
  have glued := BitVec.extractLsb'_append_extractLsb'_eq_extractLsb' (x := c) (len₂ := 8) (Nat.zero_add 8).symm
  exact glued.trans BitVec.extractLsb'_eq_self

theorem Request.frameChecks_frame (h : r.payload.length < 65536) : frameChecks r.frame = true := by
  have body : r.frame.take (4 + r.payload.length) = r.body := by
    rw [r.frame_eq, ← r.body_length, List.take_left]
  have check : ∀ i, r.frame.getD (4 + r.payload.length + i) 0#8
      = [(crc16 r.body).extractLsb' 8 8, (crc16 r.body).extractLsb' 0 8].getD i 0#8 := by
    intro i
    rw [r.frame_eq, ← r.body_length, List.getD_append_right _ _ _ _ (Nat.le_add_right _ _), Nat.add_sub_cancel_left]
  simp only [frameChecks, r.declaredLength_frame h, body, check 1, decide_eq_true_eq]
  have high := check 0
  rw [Nat.add_zero] at high
  rw [high]
  exact (extract_append_extract _).symm

theorem Request.frameRequest_frame (h : r.payload.length < 65536) : frameRequest r.frame = r := by
  have tag : frameTag r.frame = r.tag := by
    have byteAt : r.frame.getD 1 0#8 = r.tag.zeroExtend 8 := rfl
    rw [frameTag, byteAt]
    simp
  have payload : (r.frame.drop 4).take r.payload.length = r.payload := by
    rw [r.frame_eq]
    simp [Request.body]
  rw [frameRequest, tag, r.declaredLength_frame h, payload]
  rfl

end Frame

/-- Settles O14: each of the four readers undoes one part of `Request.frame`. -/
theorem requestFrameReadsBack : Obligations.RequestFrameReadsBack := by
  intro r h
  have h : r.payload.length < 65536 := by omega
  refine ⟨?_, r.declaredLength_frame h, r.frameChecks_frame h, r.frameRequest_frame h⟩
  rw [r.frame_eq, List.length_append, r.body_length]
  simp
  omega

end Sys2Proof.Machine

/-! The end of a transaction (R160, R162, R163, R167, R168): when it came early, what the delivery of its
record does to the queues, and what becomes of its frame. -/

namespace Sys2Proof.Machine

/-- The port as a transaction of `n` bytes ends, before its record is delivered and its frame examined. -/
def PortState.ended (q : PortState) (x : Transaction) (n : Nat) : PortState :=
  { q with transaction := none, clockedOut := x.clockOut n }

theorem PortState.ended_eq (q : PortState) (x : Transaction) (n : Nat) :
    q.ended x n = { q with
      transaction := none
      clockedOut := (List.range n).map (fun i => (x.header.bytes ++ x.record).getD i 0#8) } := by
  rw [PortState.ended, Transaction.clockOut_eq]

theorem endedEarly_iff (x : Transaction) (bytes : List Byte) :
    endedEarly x bytes = true ↔ bytes.length < 4 ∨ bytes.length < 6 + declaredLength bytes
      ∨ (x.offer ≠ none ∧ bytes.length < 4 + x.record.length) := by
  have frame : 4 + declaredLength bytes + 2 = 6 + declaredLength bytes := by omega
  simp only [endedEarly, frame, Bool.or_eq_true, Bool.and_eq_true, decide_eq_true_eq, or_assoc,
    Option.isSome_iff_ne_none]

/-! ## The delivery of the offered record -/

section Deliver

variable (q : PortState) (n : Nat)

theorem PortState.deliver_none : q.deliver none = q := rfl

theorem PortState.deliver_reply :
    q.deliver (some (.reply n)) = { q with replies := q.replies.filter (fun r => decide (r.stamp ≠ n)) } := rfl

theorem PortState.deliver_alert_of_queued (h : ∃ a ∈ q.alerts, a.stamp = n) :
    q.deliver (some (.alert n))
      = { q with alerts := q.alerts.filter (fun a => decide (a.stamp ≠ n)), alertsLost := false } := by
  have queued : q.alerts.any (fun a => decide (a.stamp = n)) = true := by simpa using h
  exact if_pos queued

theorem PortState.deliver_alert_of_removed (h : ∀ a ∈ q.alerts, a.stamp ≠ n) : q.deliver (some (.alert n)) = q := by
  have removed : ¬ q.alerts.any (fun a => decide (a.stamp = n)) = true := by simpa using h
  exact if_neg removed

end Deliver

/-! ## The examination of the frame -/

section Examine

variable (s : State) (p : Port) {bytes : List Byte}

theorem State.examine_bad_of_place (bad : 260 < declaredLength bytes ∨ frameChecks bytes = false)
    (place : s.placesInUse p < 8) :
    s.examine p bytes = s.post p ⟨frameTag bytes, bytes.getD 0 0#8, .badCheck, 0#8, []⟩ := by
  rw [State.examine, if_pos bad, if_pos place]
  rfl

theorem State.examine_bad_of_no_place (bad : 260 < declaredLength bytes ∨ frameChecks bytes = false)
    (full : 8 ≤ s.placesInUse p) :
    s.examine p bytes = s.modPort p (fun q => { q with overrun := true }) := by
  rw [State.examine, if_pos bad, if_neg (by omega)]

section Good

variable (short : declaredLength bytes ≤ 260) (checks : frameChecks bytes = true)
include short checks

theorem frame_not_bad : ¬ (260 < declaredLength bytes ∨ frameChecks bytes = false) := by
  simp [checks, short]

theorem State.examine_poll (poll : bytes.getD 0 0#8 = pollCode) : s.examine p bytes = s := by
  rw [State.examine, if_neg (frame_not_bad short checks)]
  exact if_pos poll

theorem State.examine_full (request : bytes.getD 0 0#8 ≠ pollCode) (full : 4 ≤ (s.ports.get p).requests.length) :
    s.examine p bytes = s.modPort p (fun q => { q with overrun := true }) := by
  rw [State.examine, if_neg (frame_not_bad short checks)]
  exact (if_neg request).trans (if_pos full)

theorem State.examine_queued (request : bytes.getD 0 0#8 ≠ pollCode) (room : (s.ports.get p).requests.length < 4) :
    s.examine p bytes = s.modPort p (fun q => { q with requests := q.requests ++ [frameRequest bytes] }) := by
  rw [State.examine, if_neg (frame_not_bad short checks)]
  exact (if_neg request).trans (if_neg (by omega))

end Good

end Examine

/-! ## TRANSACTION_END -/

section TransactionEnd

variable {p : Port} {bytes : List Byte} {s : State} {x : Transaction}
  (tr : (s.ports.get p).transaction = some x)
include tr

theorem exec_transactionEnd_of_early (early : endedEarly x bytes = true) :
    exec (.transactionEnd p bytes) s
      = .next (s.modPort p (fun q => { q.ended x bytes.length with short := true })) := by
  change execTransactionEnd p bytes s = _
  rw [execTransactionEnd, tr]
  dsimp only
  rw [if_pos early, State.modPort_modPort]
  rfl

theorem exec_transactionEnd_of_complete (complete : ¬ endedEarly x bytes = true) :
    exec (.transactionEnd p bytes) s
      = .next ((s.modPort p (fun q => (q.ended x bytes.length).deliver x.offer)).examine p bytes) := by
  change execTransactionEnd p bytes s = _
  rw [execTransactionEnd, tr]
  dsimp only
  rw [if_neg complete, State.modPort_modPort]
  rfl

end TransactionEnd

/-- Settles O22: the three ways to end early are the three the model tests. -/
theorem transactionEndEarlySetsShort : Obligations.TransactionEndEarlySetsShort := by
  intro p bytes s x tr early
  rw [exec_transactionEnd_of_early tr ((endedEarly_iff x bytes).mpr early), State.modPort, PortState.ended_eq]

/-- Settles O23: the delivery gives the port `q`, and each case of R162 is one case of the examination there. -/
theorem transactionEndTakesFrame : Obligations.TransactionEndTakesFrame := by
  intro p bytes s x tr frame record y hy q u hu nothing reply queued removed
  have complete : ¬ endedEarly x bytes = true := by
    rw [endedEarly_iff]
    rintro (header | early | ⟨offered, early⟩)
    · omega
    · omega
    · have := record.resolve_left offered
      omega
  have delivered : y.deliver x.offer = q := by
    cases hx : x.offer with
    | none => rw [nothing hx, PortState.deliver_none]
    | some offer =>
      cases offer with
      | reply n => rw [reply n hx, PortState.deliver_reply]
      | alert n =>
        by_cases h : ∃ a ∈ y.alerts, a.stamp = n
        · rw [queued n hx h, PortState.deliver_alert_of_queued y n h]
        · have gone : ∀ a ∈ y.alerts, a.stamp ≠ n := fun a ha hn => h ⟨a, ha, hn⟩
          rw [removed n hx gone, PortState.deliver_alert_of_removed y n gone]
  have ended : exec (.transactionEnd p bytes) s = .next (u.examine p bytes) := by
    rw [exec_transactionEnd_of_complete tr complete, State.modPort, PortState.ended_eq, ← hy, delivered, hu]
  have port : u.ports.get p = q := by rw [hu, State.setPorts_ports, PerPort.get_set_self]
  rw [ended]
  refine ⟨fun bad place => ?_, fun bad full => ?_, fun short checks poll => ?_, fun short checks request full => ?_,
    fun short checks request room => ?_⟩
  · rw [u.examine_bad_of_place p bad place, State.post, State.modPort, port, PortState.post]
  · rw [u.examine_bad_of_no_place p bad full, State.modPort, port]
  · rw [u.examine_poll p short checks poll]
  · rw [u.examine_full p short checks request (port ▸ full), State.modPort, port]
  · rw [u.examine_queued p short checks request (port ▸ room), State.modPort, port]

end Sys2Proof.Machine

/-! The executor (R164, R171, R185, section 9.6): the order of its checks, the table of the kinds, and when it
waits. -/

namespace Sys2Proof.Machine

/-! ## The checks, in order -/

section Serve

variable {s : State} {p : Port} {r : Request}

/-- Every check of R164 on a request the executor takes, in its order. -/
theorem serve_of_takes {kind : RequestKind} (takes : s.Takes p r) (hk : r.kind = kind.code)
    (block : Request → State → Outcome) :
    serve kind p s block =
      if kind.permitted p = false then .next (s.replied p r .rankRefused 0xFE#8 [])
      else if kind.admitted s.stc.part = false then .next (s.replied p r .wrongState 0#8 [])
      else if kind.payloadFits r.payload = false then .next (s.replied p r .badField 0xFF#8 [])
      else block r (s.taken p) := by
  simp only [serve, s.headIs_of_takes p takes hk, State.dropRequest_eq, State.taken_answer, State.taken_refuse,
    State.taken_badField]

theorem State.head_of_takes (takes : s.Takes p r) : s.head p = some r := by
  obtain ⟨head, reset, place⟩ := takes
  refine State.head_eq_some.mpr ⟨head, ?_⟩
  simp [State.executorFree, reset, place]

theorem exec_unknownKind_of_takes (takes : s.Takes p r) (unknown : ∀ kind : RequestKind, r.kind ≠ kind.code) :
    exec (.unknownKind p) s = .next (s.replied p r .unknownKind 0#8 []) := by
  change execUnknownKind p s = _
  simp only [execUnknownKind, State.head_of_takes takes, RequestKind.ofCode_eq_none.mpr unknown, Option.isSome_none,
    Bool.false_eq_true, if_false, State.dropRequest_eq, State.taken_refuse]

end Serve

/-! ## The table of the kinds -/

section Table

variable (kind : RequestKind)

theorem RequestKind.permitted_body_iff : kind.permitted .body = true ↔ kind ∉ [RequestKind.mark, .unmark] := by
  cases kind <;> decide

theorem RequestKind.permitted_detect_iff :
    kind.permitted .detect = true ↔ kind ∉ [RequestKind.seize, .force, .eccClear, .setStrobe, .setInput, .speed,
      .setSpeedBands, .setNear, .setPalette, .dormant, .storeFitting, .setPeriod, .setCommitLine, .setGenlock,
      .resync, .cameraRestart, .quiet] := by
  cases kind <;> decide

theorem RequestKind.permitted_cab_iff :
    kind.permitted .cab = true ↔ kind ∉ [RequestKind.seize, .force, .eccClear, .setStrobe, .setInput, .speed,
      .setSpeedBands, .setNear, .setPalette, .dormant, .storeFitting, .mark, .unmark, .setVirtual, .clearMarks] := by
  cases kind <;> decide

theorem RequestKind.admitted_iff (part : PartState) :
    kind.admitted part = true ↔ kind ∈ [RequestKind.identify, .resetPort]
      ∨ (kind = .wake ∧ part ≠ .boot) ∨ part = .run ∨ part = .quiet := by
  cases kind with
  | wake => cases part <;> decide
  | _ => simp [RequestKind.admitted]

end Table

/-! ## Payload lengths (11.1.2) -/

/-- A row of kinds whose payload has one length. -/
theorem RequestKind.payloadFits_iff_of_row {kinds : List RequestKind} {size : Nat}
    (row : ∀ k ∈ kinds, ∀ payload, k.payloadFits payload = decide (payload.length = size))
    {kind : RequestKind} (h : kind ∈ kinds) {bytes : List Byte} {n : Nat} (hn : n = bytes.length) :
    kind.payloadFits bytes = true ↔ n = size := by
  rw [row kind h, decide_eq_true_eq, hn]

/-- Whether a payload is a count and that many entries of a size. -/
def countedFits (size : Nat) : List Byte → Bool
  | count :: rest => decide (rest.length = size * count.toNat)
  | [] => false

theorem countedFits_iff (size : Nat) (bytes : List Byte) :
    countedFits size bytes = true ↔ 1 ≤ bytes.length ∧ bytes.length = 1 + size * (bytes.getD 0 0#8).toNat := by
  cases bytes with
  | nil => simp [countedFits]
  | cons count rest =>
    rw [countedFits, decide_eq_true_eq, List.length_cons, List.getD_cons_zero]
    omega

theorem RequestKind.payloadFits_setVirtual (bytes : List Byte) :
    RequestKind.payloadFits .setVirtual bytes = countedFits 2 bytes := by cases bytes <;> rfl

theorem RequestKind.payloadFits_mark (bytes : List Byte) :
    RequestKind.payloadFits .mark bytes = countedFits 15 bytes := by cases bytes <;> rfl

theorem RequestKind.payloadFits_setPalette (bytes : List Byte) :
    RequestKind.payloadFits .setPalette bytes = countedFits 3 bytes := by cases bytes <;> rfl

theorem RequestKind.payloadFits_edit_cons_cons (slot count : Byte) (rest : List Byte) :
    RequestKind.payloadFits .edit (slot :: count :: rest) = (editPairs count rest).isSome := rfl

theorem RequestKind.payloadFits_edit_iff (bytes : List Byte) :
    RequestKind.payloadFits .edit bytes = true ↔ ∃ (slot : Byte) (pairs : List EditPair), pairs.length < 256
      ∧ (∀ x ∈ pairs, x.value.length < 256) ∧ bytes = slot :: byte pairs.length
        :: pairs.flatMap (fun x => x.id :: byte x.value.length :: x.value) := by
  constructor
  · intro fits
    match bytes, fits with
    | slot :: count :: rest, fits =>
      rw [RequestKind.payloadFits_edit_cons_cons, Option.isSome_iff_exists] at fits
      obtain ⟨pairs, hp⟩ := fits
      obtain ⟨length, values, rfl⟩ := (editPairs_iff count rest pairs).mp hp
      refine ⟨slot, pairs, length ▸ count.isLt, fun x hx => Nat.lt_succ_of_le (values x hx), ?_⟩
      rw [← byte_of_toNat length.symm]
      rfl
  · rintro ⟨slot, pairs, length, values, rfl⟩
    rw [RequestKind.payloadFits_edit_cons_cons, Option.isSome_iff_exists]
    exact ⟨pairs, (editPairs_iff _ _ pairs).mpr
      ⟨(byte_toNat length).symm, fun x hx => Nat.le_of_lt_succ (values x hx), rfl⟩⟩

/-! ## When the executor waits -/

section Waits

variable {s : State} {p : Port}

theorem State.headIs_eq_none_of_full {kind : RequestKind} (hk : kind ≠ .resetPort) (full : 8 ≤ s.placesInUse p) :
    s.headIs p kind = none := by
  rw [Option.eq_none_iff_forall_ne_some]
  intro r hr
  obtain ⟨-, code, free⟩ := s.headIs_some p hr
  have other : r.kind ≠ RequestKind.code .resetPort := fun h => hk (RequestKind.code_eq_resetPort (code ▸ h))
  have := ((State.executorFree_of_not_reset other).mp free).2
  omega

theorem State.headIs_eq_none_of_head {kind : RequestKind}
    (other : ∀ r, (s.ports.get p).requests.head? = some r → r.kind ≠ kind.code) : s.headIs p kind = none := by
  rw [Option.eq_none_iff_forall_ne_some]
  intro r hr
  obtain ⟨⟨rs, queue⟩, code, -⟩ := s.headIs_some p hr
  exact other r (by rw [queue, List.head?_cons]) code

theorem State.head_eq_none_of_full
    (other : ∀ r, (s.ports.get p).requests.head? = some r → r.kind ≠ RequestKind.code .resetPort)
    (full : 8 ≤ s.placesInUse p) : s.head p = none := by
  rw [Option.eq_none_iff_forall_ne_some]
  intro r hr
  obtain ⟨head, free⟩ := State.head_eq_some.mp hr
  have := ((State.executorFree_of_not_reset (other r head)).mp free).2
  omega

theorem serve_of_headIs_none {kind : RequestKind} (h : s.headIs p kind = none) (block : Request → State → Outcome) :
    serve kind p s block = .next s := by
  rw [serve, h]

theorem exec_unknownKind_of_head_none (h : s.head p = none) : exec (.unknownKind p) s = .next s := by
  change execUnknownKind p s = _
  rw [execUnknownKind, h]

end Waits

/-- Settles O24: the checks by `serve_of_takes`, the rows of 9.6 and 11.1.2 by the lemmas on the table. -/
theorem executorChecksInOrder : Obligations.ExecutorChecksInOrder := by
  refine ⟨?checks, fun p s r takes unknown => exec_unknownKind_of_takes takes unknown, ?table, RequestKind.mem_all,
    rfl, rfl⟩
  case checks =>
    intro c kind p s r hc takes hk
    obtain ⟨block, hblock⟩ := exec_of_requestOf hc
    rw [hblock, serve_of_takes takes hk]
    refine ⟨fun refused => if_pos refused, fun permitted refused => ?_, fun permitted admitted bad => ?_⟩
    · rw [permitted, if_neg Bool.noConfusion, if_pos refused]
    · rw [permitted, if_neg Bool.noConfusion, admitted, if_neg Bool.noConfusion, if_pos bad]
  case table =>
    intro kind
    refine ⟨kind.permitted_body_iff, kind.permitted_detect_iff, kind.permitted_cab_iff, kind.admitted_iff, ?_⟩
    intro bytes n hn
    refine ⟨fun h => ?_, fun h => ?_, fun h => ?_, fun h => ?_, fun h => ?_, ?_, ?_, ?_, ?_, ?_, ?_⟩
    iterate 5 exact RequestKind.payloadFits_iff_of_row (by simp [RequestKind.payloadFits]) h hn
    · rintro rfl
      rw [hn, RequestKind.payloadFits, decide_eq_true_eq]
    · rintro rfl
      rw [hn, RequestKind.payloadFits, decide_eq_true_eq]
    · rintro rfl
      rw [hn, RequestKind.payloadFits_setVirtual, countedFits_iff]
    · rintro rfl
      rw [hn, RequestKind.payloadFits_mark, countedFits_iff]
    · rintro rfl
      rw [hn, RequestKind.payloadFits_setPalette, countedFits_iff]
    · rintro rfl
      exact RequestKind.payloadFits_edit_iff bytes

/-- Settles O25: a head that waits for a place, or is of another kind, is not handed to the command. -/
theorem executorWaitsForPlace : Obligations.ExecutorWaitsForPlace := by
  intro c kind p s hc
  obtain ⟨block, hblock⟩ := exec_of_requestOf hc
  rw [hblock]
  exact ⟨fun hk full => serve_of_headIs_none (State.headIs_eq_none_of_full hk full) block,
    fun other => serve_of_headIs_none (State.headIs_eq_none_of_head other) block,
    fun other full => exec_unknownKind_of_head_none (State.head_eq_none_of_full other full)⟩

end Sys2Proof.Machine

/-! STORE_FITTING (R183, R184): what it stores, what the executor's command answers, and how a store ends. -/

namespace Sys2Proof.Machine

section StoreFitting

variable {s : State} {p : Port} {r : Request}

/-- The slots stored are those of owner FITTED or BODY whose active record is no bitmap. -/
theorem LayerTable.storedSlots_eq (t : LayerTable) :
    t.storedSlots = (List.finRange 24).filter (fun i => decide ((t.slots[i].owner = .fitted
      ∨ t.slots[i].owner = .port .body) ∧ t.slots[i].active.part.kind ≠ .bitmap)) := by
  refine List.filter_congr fun i _ => ?_
  rw [LayerSlot.isStored, Bool.decide_and]

@[simp] theorem State.taken_fittingSnapshot : (s.taken p).fittingSnapshot = s.fittingSnapshot := rfl

/-- The three ways of R183 for a STORE_FITTING that reaches the Fitting Store. -/
theorem exec_storeFitting_of_reaches (h : s.Reaches p .storeFitting r) :
    exec (.storeFitting p) s =
      if s.stc.part = .run then .next (s.replied p r .wrongState 0#8 [])
      else if s.fst.store.isSome then .next (s.replied p r .busy 0#8 [])
      else .next ((s.setFst ⟨.spoiled, s.fst.status,
        some ⟨p, r.tag, true, s.fittingSnapshot, s.ltb.storedSlots.length, storeTime⟩⟩).taken p) := by
  change execStoreFitting p s = _
  simp only [execStoreFitting, serve_of_reaches s p h, State.taken_stc, State.taken_fst, State.taken_ltb,
    State.taken_refuse, State.taken_setFst, State.taken_fittingSnapshot]

/-! ## The end of a store -/

theorem State.finishStore_answered {x : StoreInFlight} (answer : x.answerOpen = true) (good : Bool) :
    s.finishStore x good
      = (s.setFst ⟨if good then .present x.snapshot else .spoiled, s.fst.status, none⟩).post x.port
          (if good then storeReply x.tag .done [byte x.layers] else storeReply x.tag .storeFailed []) := by
  rw [State.finishStore, answer, if_neg Bool.noConfusion]
  cases good <;> rfl

theorem State.finishStore_dropped {x : StoreInFlight} (dropped : x.answerOpen = false) (good : Bool) :
    s.finishStore x good = s.setFst ⟨if good then .present x.snapshot else .spoiled, s.fst.status, none⟩ := by
  rw [State.finishStore, if_pos dropped]

theorem exec_storeEnd_of_none (idle : s.fst.store = none) (ok : Bool) : exec (.storeEnd ok) s = .next s := by
  change execStoreEnd ok s = _
  rw [execStoreEnd, idle]

theorem exec_storeTimerExpiry_of_none (idle : s.fst.store = none) : exec .storeTimerExpiry s = .next s := by
  change execStoreTimerExpiry s = _
  rw [execStoreTimerExpiry, State.storeTimerExpiry, idle]

theorem exec_storeEnd_of_some {x : StoreInFlight} (store : s.fst.store = some x) (ok : Bool) :
    exec (.storeEnd ok) s = .next (s.finishStore x ok) := by
  change execStoreEnd ok s = _
  rw [execStoreEnd, store]

theorem exec_storeTimerExpiry_of_some {x : StoreInFlight} (store : s.fst.store = some x) :
    exec .storeTimerExpiry s = .next (s.finishStore x false) := by
  change execStoreTimerExpiry s = _
  rw [execStoreTimerExpiry, State.storeTimerExpiry, store]

end StoreFitting

/-- Settles O60: the start by the command's three cases, the end by those of `State.finishStore`. -/
theorem storeFittingRunsToItsEnd : Obligations.StoreFittingRunsToItsEnd := by
  intro s
  refine ⟨fun r reaches => ?start, fun idle => ⟨exec_storeEnd_of_none idle, exec_storeTimerExpiry_of_none idle⟩,
    fun x store => ?finish⟩
  case start =>
    rw [exec_storeFitting_of_reaches reaches, s.ltb.storedSlots_eq]
    refine ⟨fun run => if_pos run, fun quiet busy => ?_, fun quiet idle => ?_⟩
    · rw [quiet, if_neg PartState.noConfusion, if_pos (Option.isSome_iff_ne_none.mpr busy)]
    · rw [quiet, if_neg PartState.noConfusion, idle, if_neg Bool.noConfusion]
      rfl
  case finish =>
    rw [exec_storeEnd_of_some store, exec_storeEnd_of_some store, exec_storeTimerExpiry_of_some store]
    constructor
    · intro answer
      simp only [State.finishStore_answered answer]
      exact ⟨rfl, rfl, rfl⟩
    · intro dropped
      simp only [State.finishStore_dropped dropped]
      exact ⟨rfl, rfl, rfl⟩

end Sys2Proof.Machine

/-! Records, and how they join and leave their queues (R161, R163, R164, R166 to R168, R186): the transaction
that TRANSACTION_START begins, and the place an alert takes. -/

namespace Sys2Proof.Machine

/-! ## The record offered -/

section Offer

variable {q : PortState} {a : Stamped Alert} {as : List (Stamped Alert)} {r : Stamped Reply}
  {rs : List (Stamped Reply)}

theorem PortState.chooseOffer_of_empty (alerts : q.alerts = []) (replies : q.replies = []) :
    q.chooseOffer = (none, []) := by
  rw [PortState.chooseOffer, alerts, replies]
  rfl

theorem PortState.chooseOffer_of_alert_only (alerts : q.alerts = a :: as) (replies : q.replies = []) :
    q.chooseOffer = (some (.alert a.stamp), a.item.record) := by
  rw [PortState.chooseOffer, alerts, replies]
  rfl

theorem PortState.chooseOffer_of_reply_only (alerts : q.alerts = []) (replies : q.replies = r :: rs) :
    q.chooseOffer = (some (.reply r.stamp), r.item.record) := by
  rw [PortState.chooseOffer, alerts, replies]
  rfl

theorem PortState.chooseOffer_of_both (alerts : q.alerts = a :: as) (replies : q.replies = r :: rs) :
    q.chooseOffer = if a.item.code.cls = .safety ∨ a.stamp < r.stamp then (some (.alert a.stamp), a.item.record)
      else (some (.reply r.stamp), r.item.record) := by
  rw [PortState.chooseOffer, alerts, replies]
  simp [isSafety]

/-- The alert queue's head is offered if it is of class S, has no reply beside it, or is the older head. -/
theorem PortState.chooseOffer_alert (alerts : q.alerts = a :: as)
    (first : a.item.code.cls = .safety ∨ q.replies = [] ∨ ∃ r rs, q.replies = r :: rs ∧ a.stamp < r.stamp) :
    q.chooseOffer = (some (.alert a.stamp), a.item.record) := by
  cases replies : q.replies with
  | nil => exact PortState.chooseOffer_of_alert_only alerts replies
  | cons r rs =>
    rw [PortState.chooseOffer_of_both alerts replies, if_pos]
    rcases first with safety | noReply | ⟨r', rs', replies', older⟩
    · exact .inl safety
    · rw [noReply] at replies
      cases replies
    · rw [replies'] at replies
      cases replies
      exact .inr older

/-- The reply queue's head is offered if it has no alert beside it, or an alert neither of class S nor older. -/
theorem PortState.chooseOffer_reply (replies : q.replies = r :: rs)
    (first : q.alerts = [] ∨ ∃ a as, q.alerts = a :: as ∧ a.item.code.cls ≠ .safety ∧ ¬ a.stamp < r.stamp) :
    q.chooseOffer = (some (.reply r.stamp), r.item.record) := by
  rcases first with alerts | ⟨a, as, alerts, ordinary, younger⟩
  · exact PortState.chooseOffer_of_reply_only alerts replies
  · rw [PortState.chooseOffer_of_both alerts replies, if_neg (not_or.mpr ⟨ordinary, younger⟩)]

end Offer

/-! ## The header -/

theorem sixteen_mul_bitsToNat (o s l : Bool) :
    16 * bitsToNat [o, s, l] = (if o then 16 else 0) + (if s then 32 else 0) + (if l then 64 else 0) := by
  cases o <;> cases s <;> cases l <;> rfl

theorem StatusHeader.bytes_eq (h : StatusHeader) :
    h.bytes = [byte (h.credits + 16 * h.repliesPending),
      byte (h.alertsPending + (if h.overrun then 16 else 0) + (if h.short then 32 else 0)
        + (if h.alertsLost then 64 else 0)), byte h.recordLength, byte (h.recordLength / 256)] := by
  rw [StatusHeader.bytes, sixteen_mul_bitsToNat, ← Nat.add_assoc, ← Nat.add_assoc, le_two]
  rfl

theorem exec_transactionStart {p : Port} {s : State} (reset : s.pins.resetLow = false)
    (idle : (s.ports.get p).transaction = none) :
    exec (.transactionStart p) s = .next (s.modPort p PortState.begin) := by
  change execTransactionStart p s = _
  rw [execTransactionStart, if_neg (by simp [reset, idle])]

/-! ## The place of an alert -/

/-- Whether a queued alert takes up a new one: it is of its code and subject and is not being offered. -/
def PortState.coalesces (q : PortState) (code : AlertCode) (subject : Nat) : Stamped Alert → Bool :=
  fun a => decide (a.item.code = code) && decide (a.item.subject = subject) && !q.offers a.stamp

theorem PortState.offers_iff (q : PortState) (n : Nat) :
    q.offers n = true ↔ ∃ x, q.transaction = some x ∧ x.offer = some (.alert n) := by
  unfold PortState.offers
  cases q.transaction <;> simp

theorem PortState.coalesces_iff (q : PortState) (code : AlertCode) (subject : Nat) (a : Stamped Alert) :
    q.coalesces code subject a = true ↔ a.item.code = code ∧ a.item.subject = subject
      ∧ ∀ x, q.transaction = some x → x.offer ≠ some (.alert a.stamp) := by
  rw [PortState.coalesces, Bool.and_eq_true, Bool.and_eq_true, decide_eq_true_eq, decide_eq_true_eq,
    Bool.not_eq_true', ← Bool.not_eq_true, PortState.offers_iff, and_assoc]
  simp

section Bump

variable {m : Stamped Alert → Bool}

theorem bumpFirst_eq_none : ∀ {as : List (Stamped Alert)}, (∀ a ∈ as, ¬ m a = true) → bumpFirst m as = none
  | [], _ => rfl
  | a :: as, h => by
    rw [bumpFirst, if_neg (h a List.mem_cons_self), bumpFirst_eq_none fun b hb => h b (List.mem_cons_of_mem a hb)]

theorem bumpFirst_append_cons {a : Stamped Alert} {after : List (Stamped Alert)} (ha : m a = true) :
    ∀ {before : List (Stamped Alert)}, (∀ b ∈ before, ¬ m b = true) →
      bumpFirst m (before ++ a :: after)
        = some (before ++ ⟨a.stamp, { a.item with count := min 255 (a.item.count + 1) }⟩ :: after)
  | [], _ => by rw [List.nil_append, bumpFirst, if_pos ha, List.nil_append]
  | b :: before, h => by
    rw [List.cons_append, bumpFirst, if_neg (h b List.mem_cons_self),
      bumpFirst_append_cons ha fun c hc => h c (List.mem_cons_of_mem b hc), List.cons_append]

end Bump

section Place

variable {q : PortState} {a : Alert}

theorem PortState.place_of_bumped {as : List (Stamped Alert)}
    (h : bumpFirst (q.coalesces a.code a.subject) q.alerts = some as) : q.place a = { q with alerts := as } := by
  unfold PortState.coalesces at h
  rw [PortState.place, h]

/-- With no queued alert to take it up, an alert is dropped at a full queue, or joins at its class's place. -/
theorem PortState.place_of_new (new : ∀ b ∈ q.alerts, ¬ q.coalesces a.code a.subject b = true) :
    q.place a =
      if 8 ≤ q.alerts.length then { q with alertsLost := true }
      else if a.code.cls = .safety then
        { q with
          alerts := q.alerts.takeWhile isSafety ++ ⟨q.nextStamp, a⟩ :: q.alerts.dropWhile isSafety
          nextStamp := q.nextStamp + 1 }
      else { q with alerts := q.alerts ++ [⟨q.nextStamp, a⟩], nextStamp := q.nextStamp + 1 } := by
  have h := bumpFirst_eq_none new
  unfold PortState.coalesces at h
  rw [PortState.place, h]

/-- The class S alerts at the head of a queue are what `takeWhile` takes. -/
theorem takeWhile_dropWhile_isSafety {before after : List (Stamped Alert)}
    (safety : ∀ b ∈ before, b.item.code.cls = .safety)
    (other : ∀ b, after.head? = some b → b.item.code.cls ≠ .safety) :
    (before ++ after).takeWhile isSafety = before ∧ (before ++ after).dropWhile isSafety = after := by
  have safety : ∀ b ∈ before, isSafety b = true := fun b hb => decide_eq_true (safety b hb)
  rw [List.takeWhile_append_of_pos safety, List.dropWhile_append_of_pos safety]
  cases after with
  | nil => simp
  | cons b after =>
    have hb : ¬ isSafety b = true := by simpa [isSafety] using other b rfl
    rw [List.takeWhile_cons_of_neg hb, List.dropWhile_cons_of_neg hb, List.append_nil]
    exact ⟨rfl, rfl⟩

end Place

/-! ## Routing -/

theorem Subscription.routes_iff (u : Subscription) (c : AlertClass) :
    u.routes c = true ↔ c = .safety ∨ (c = .camera ∧ u.camera = true) ∨ (c = .layer ∧ u.layer = true)
      ∨ (c = .timing ∧ u.timing = true) ∨ (c = .part ∧ u.part = true) := by
  cases c <;> simp [Subscription.routes]

section Raise

variable {s : State} {p : Port} {code : AlertCode} {subject : Nat}

theorem State.raiseTo_of_not_routed (routed : ¬ (s.ports.get p).subscription.routes code.cls = true)
    (detail : Nat) : s.raiseTo p code subject detail = s := by
  have kept : (s.ports.get p).raise (s.alertNow code subject detail) = s.ports.get p := if_neg routed
  rw [State.raiseTo, State.modPort, kept, PerPort.set_get_self, State.setPorts_self]

theorem State.raiseTo_of_routed (routed : (s.ports.get p).subscription.routes code.cls = true) (detail : Nat) :
    s.raiseTo p code subject detail
      = s.setPorts (s.ports.set p ((s.ports.get p).place (s.alertNow code subject detail))) := by
  have placed : (s.ports.get p).raise (s.alertNow code subject detail)
      = (s.ports.get p).place (s.alertNow code subject detail) := if_pos routed
  rw [State.raiseTo, State.modPort, placed]

end Raise

/-- The classes of R166, code by code. -/
theorem AlertCode.cls_rows (code : AlertCode) :
    (code.cls = .safety ↔ code ∈ [AlertCode.cameraLost, .nearObject, .regionFault, .speedStale])
    ∧ (code.cls = .camera ↔ code ∈ [AlertCode.cameraStarted, .cameraBack])
    ∧ (code.cls = .layer ↔ code ∈ [AlertCode.layerSeized, .loadSuspended, .loadResumed, .loadTimeout, .planOverflow])
    ∧ (code.cls = .timing ↔ code ∈ [AlertCode.syncSlip, .genlockLost, .genlockAcquired])
    ∧ (code.cls = .part ↔ code ∈ [AlertCode.stateChanged, .fittingBad]) := by
  cases code <;> decide

/-- Settles O21: the transaction begun, the tables by evaluation, and one lemma for each place an alert takes. -/
theorem transactionStartAndRecordsOffered : Obligations.TransactionStartAndRecordsOffered := by
  refine ⟨fun p s reset idle => ?start, fun _ => rfl, fun _ => rfl, AlertCode.cls_rows, rfl, rfl, rfl,
    fun _ _ _ => rfl, fun _ _ _ _ => rfl, fun s p code subject detail q hq routed matching hr hm => ?raised⟩
  case start =>
    refine ⟨_, exec_transactionStart reset idle, rfl, fun alerts replies => ?_, fun a as alerts first => ?_,
      fun r rs replies first => ?_, StatusHeader.bytes_eq _⟩
    · simp only [PortState.chooseOffer_of_empty alerts replies, and_self]
    · simp only [PortState.chooseOffer_alert alerts first, and_self]
    · simp only [PortState.chooseOffer_reply replies first, and_self]
  case raised =>
    subst hq
    rw [← Subscription.routes_iff] at hr
    have hm : ∀ a, matching a ↔ (s.ports.get p).coalesces code subject a = true := fun a => by
      rw [hm, PortState.coalesces_iff]
    simp only [hr, hm]
    refine ⟨fun kept => State.raiseTo_of_not_routed kept detail, fun placed => ?_⟩
    rw [State.raiseTo_of_routed placed detail]
    refine ⟨fun before a after alerts others same => ?_, fun new full => ?_,
      fun new room safety before after alerts front back => ?_, fun new room ordinary => ?_⟩
    · rw [PortState.place_of_bumped (by rw [alerts]; exact bumpFirst_append_cons same others)]
    · rw [PortState.place_of_new new, if_pos full]
    · obtain ⟨taken, dropped⟩ := takeWhile_dropWhile_isSafety front back
      rw [PortState.place_of_new new, if_neg (by omega), alerts, taken, dropped]
      exact congrArg _ (congrArg _ (if_pos safety))
    · rw [PortState.place_of_new new, if_neg (by omega)]
      exact congrArg _ (congrArg _ (if_neg ordinary))

end Sys2Proof.Machine

/-! The stored fitting record (R181, R183, R188, 11.1.6): the snapshot's bytes by their places, and what `readFitting`
reads of them. -/

namespace Sys2Proof.Machine

/-! ## A layer's bytes (11.1.4) -/

theorem getLsbD_byte {k : Nat} (n : Nat) (h : k < 8) : (byte n).getLsbD k = true ↔ n / 2 ^ k % 2 = 1 := by
  rw [byte, BitVec.getLsbD_ofNat, Nat.testBit_eq_decide_div_mod_eq, decide_eq_true h, Bool.true_and, decide_eq_true_iff]

/-- The number that a record's first byte holds (11.1.4). -/
def LayerRecord.flagsNumber (r : LayerRecord) : Nat :=
  r.enabled.toNat + 2 * r.cls.number + 4 * r.part.kind.number + 16 * r.blink.number + 64 * r.record.toNat

section LayerBytes

variable {r : LayerRecord} {c : List Byte}

theorem LayerRecord.bytes_eq (r : LayerRecord) :
    r.bytes = byte r.flagsNumber :: byte r.z :: (le 2 r.destX ++ le 2 r.destY ++ le 2 r.destW ++ le 2 r.destH
      ++ [byte r.alpha, byte r.condition.length] ++ termBytes r.condition ++ r.part.bytes) := by
  have enabled : (if r.enabled then 1 else 0) = r.enabled.toNat := by cases r.enabled <;> rfl
  have record : (if r.record then 64 else 0) = 64 * r.record.toNat := by cases r.record <;> rfl
  simp only [LayerRecord.bytes, LayerRecord.flagsNumber, enabled, record, List.cons_append, List.nil_append,
    List.append_assoc]

/-- Each field of the first byte stands at its own bits. -/
theorem LayerRecord.flagsNumber_fields (r : LayerRecord) :
    r.flagsNumber < 256 ∧ (r.flagsNumber / 2 ^ 0 % 2 = 1 ↔ r.enabled = true)
    ∧ (r.flagsNumber / 2 ^ 1 % 2 = 1 ↔ r.cls = .safety) ∧ r.flagsNumber / 4 % 4 = r.part.kind.number
    ∧ r.flagsNumber / 16 % 4 = r.blink.number ∧ (r.flagsNumber / 2 ^ 6 % 2 = 1 ↔ r.record = true) := by
  have enabled := Bool.toNat_le r.enabled
  have record := Bool.toNat_le r.record
  have cls : r.cls.number ≤ 1 ∧ (r.cls.number = 1 ↔ r.cls = .safety) := by cases r.cls <;> decide
  have kind : r.part.kind.number < 4 := by cases r.part.kind <;> decide
  have blink : r.blink.number < 4 := by cases r.blink <;> decide
  rw [← Bool.toNat_eq_one, ← Bool.toNat_eq_one, ← cls.2]
  unfold LayerRecord.flagsNumber
  omega

theorem LayerRecord.spelledBy_part (range : r.InRange) (kind : r.part.kind ≠ .bitmap) :
    ∃ e, r.part.spelledBy e r.part.bytes := by
  obtain ⟨-, -, -, -, -, -, -, -, -, part⟩ := range
  cases content : r.part with
  | camera c =>
    rw [content] at part
    obtain ⟨x, y, w, w', h, h'⟩ := part
    have mirror := getLsbD_byte_bitsToNat [c.mirror, c.markers] (by simp) 0
    have markers := getLsbD_byte_bitsToNat [c.mirror, c.markers] (by simp) 1
    exact ⟨_, x, y, w, w', h, h', mirror, markers, by simp only [KindPart.bytes, List.cons_append]⟩
  | bitmap b => exact absurd (congrArg KindPart.kind content) kind
  | guide g =>
    rw [content] at part
    obtain ⟨w, w', few, segments⟩ := part
    exact ⟨0#8, w, w', few, segments, rfl⟩
  | fill k => exact ⟨0#8, rfl⟩

/-- A record in range of a kind that a fitted layer may have is spelled by the bytes it is written as. -/
theorem LayerRecord.spelledBy_bytes (range : r.InRange) (kind : r.part.kind ≠ .bitmap) : r.spelledBy r.bytes := by
  obtain ⟨e, spelled⟩ := LayerRecord.spelledBy_part range kind
  obtain ⟨z, x, y, w, w', h, h', alpha, terms, -⟩ := range
  obtain ⟨small, enabled, cls, kind, blink, record⟩ := r.flagsNumber_fields
  refine ⟨byte r.flagsNumber, e, r.part.bytes, ?_, ?_, ?_, ?_, ?_, z, x, y, w, w', h, h', alpha, terms, spelled,
    r.bytes_eq⟩
  · exact Bool.eq_iff_iff.mpr ((getLsbD_byte _ (by decide)).trans enabled)
  · exact Bool.eq_iff_iff.mpr ((getLsbD_byte _ (by decide)).trans (cls.trans decide_eq_true_iff.symm))
  · rw [byte_toNat small, kind]
  · rw [byte_toNat small, blink]
  · exact Bool.eq_iff_iff.mpr ((getLsbD_byte _ (by decide)).trans record)

theorem flatMap_length {α : Type} {f : α → List Byte} {k : Nat} (size : ∀ x, (f x).length = k) (l : List α) :
    (l.flatMap f).length = k * l.length := by
  simp only [List.length_flatMap, size, List.map_const', List.sum_replicate, smul_eq_mul, Nat.mul_comm]

theorem KindPart.spelledBy_length {p : KindPart} {e : Byte} (h : p.spelledBy e c) : c.length ≤ 51 := by
  cases p with
  | camera x =>
    obtain ⟨-, -, -, -, -, -, -, -, rfl⟩ := h
    exact Nat.le_of_ble_eq_true rfl
  | bitmap x => exact h.elim
  | guide g =>
    obtain ⟨-, -, few, -, rfl⟩ := h
    rw [List.length_append, segmentBytes, flatMap_length (k := 8) fun _ => rfl]
    simp only [List.length_cons, List.length_nil]
    omega
  | fill x =>
    cases h
    exact Nat.le_of_ble_eq_true rfl

/-- The longest layer is a guide of 6 segments under a condition of 4 terms. -/
theorem LayerRecord.spelledBy_length (h : r.spelledBy c) : c.length ≤ 71 := by
  obtain ⟨a, e, part, -, -, -, -, -, -, -, -, -, -, -, -, -, few, spelled, rfl⟩ := h
  have part := KindPart.spelledBy_length spelled
  have terms : (termBytes r.condition).length = 2 * r.condition.length :=
    flatMap_length (k := 2) (fun _ => rfl) _
  simp only [List.length_cons, List.length_append, le_length, List.length_nil, terms]
  omega

end LayerBytes

/-! ## Bytes at their places -/

/-- `piece` stands in `bs` from place `i` on. -/
def StandsAt (bs : List Byte) (i : Nat) (piece : List Byte) : Prop := piece <+: bs.drop i

section Places

variable {bs p q : List Byte} {i : Nat}

@[simp] theorem standsAt_append : StandsAt bs i (p ++ q) ↔ StandsAt bs i p ∧ StandsAt bs (i + p.length) q := by
  unfold StandsAt
  constructor
  · rintro ⟨rest, h⟩
    rw [List.append_assoc] at h
    refine ⟨⟨q ++ rest, h⟩, rest, ?_⟩
    rw [← List.drop_drop, ← h, List.drop_left]
  · rintro ⟨⟨rest, h⟩, rest', h'⟩
    rw [← List.drop_drop, ← h, List.drop_left] at h'
    exact ⟨rest', by rw [List.append_assoc, h', h]⟩

theorem StandsAt.getD (h : StandsAt bs i p) {j : Nat} (hj : j < p.length) (d : Byte) :
    bs.getD (i + j) d = p.getD j d := by
  obtain ⟨rest, h⟩ := h
  rw [List.getD_eq_getElem?_getD, ← List.getElem?_drop, ← h, ← List.getD_eq_getElem?_getD,
    List.getD_append _ _ _ _ hj]

theorem StandsAt.head {b : Byte} (h : StandsAt bs i (b :: p)) (d : Byte) : bs.getD i d = b :=
  h.getD (Nat.zero_lt_succ _) d

theorem StandsAt.three {a b c : Byte} (h : StandsAt bs i [a, b, c]) (d : Byte) :
    bs.getD i d = a ∧ bs.getD (i + 1) d = b ∧ bs.getD (i + 2) d = c :=
  ⟨h.head d, h.getD (j := 1) (Nat.le_of_ble_eq_true rfl) d, h.getD (j := 2) (Nat.le_of_ble_eq_true rfl) d⟩

theorem StandsAt.drop (h : StandsAt bs i p) : StandsAt (bs.drop i) 0 p := h

/-- A number written at a place is read back from it. -/
theorem StandsAt.fromLe_take {k n : Nat} (h : StandsAt bs i (le k n)) (hn : n < 256 ^ k) :
    fromLe ((bs.drop i).take k) = n := by
  obtain ⟨rest, h⟩ := h
  rw [← h, List.take_left' (le_length k n), fromLe_le k n hn]

/-- The piece of the `n`-th element, when every piece has the same length. -/
theorem StandsAt.flatMap {α : Type} {f : α → List Byte} {k : Nat} (size : ∀ x, (f x).length = k) :
    ∀ {l : List α} {i : Nat}, StandsAt bs i (l.flatMap f) → ∀ (n : Nat) (hn : n < l.length),
      StandsAt bs (i + k * n) (f l[n])
  | x :: l, i, h, 0, _ => (standsAt_append.mp h).1
  | x :: l, i, h, n + 1, hn => by
    have rest := StandsAt.flatMap size (standsAt_append.mp h).2 n (Nat.lt_of_succ_lt_succ hn)
    rw [size, Nat.add_assoc, Nat.add_comm k, ← Nat.mul_succ] at rest
    exact rest

theorem StandsAt.vector {α : Type} {f : α → List Byte} {k m : Nat} {v : Vector α m}
    (h : StandsAt bs i (v.toList.flatMap f)) (size : ∀ x, (f x).length = k) (n : Fin m) :
    StandsAt bs (i + k * n.val) (f v[n]) := by
  simpa using h.flatMap size n.val (by simp)

end Places

/-! ## A record of a content (R188) -/

/-- The bytes of a record that its check covers. -/
def fittingBody (content : List Byte) : List Byte := 0x01#8 :: le 2 (content.length + 3) ++ content

section Record

variable (content : List Byte)

theorem fittingRecord_eq :
    fittingRecord content = fittingBody content ++ le 4 (crc32 (fittingBody content)).toNat := rfl

theorem fittingBody_length : (fittingBody content).length = content.length + 3 := by
  rw [fittingBody, List.cons_append, List.length_cons, List.length_append, le_length]
  omega

theorem fittingRecord_length : (fittingRecord content).length = content.length + 3 + 4 := by
  rw [fittingRecord_eq, List.length_append, fittingBody_length, le_length]

theorem fittingRecord_take : (fittingRecord content).take (content.length + 3) = fittingBody content := by
  rw [fittingRecord_eq, List.take_left' (fittingBody_length content)]

theorem fittingRecord_drop :
    (fittingRecord content).drop (content.length + 3) = le 4 (crc32 (fittingBody content)).toNat := by
  rw [fittingRecord_eq, List.drop_left' (fittingBody_length content)]

theorem fittingRecord_standsAt : StandsAt (fittingRecord content) 3 content := by
  rw [fittingRecord_eq]
  exact ⟨_, rfl⟩

variable {content}

/-- A word written as bytes is read back. -/
theorem ofNat_fromLe_le (w : Word32) : BitVec.ofNat 32 (fromLe (le 4 w.toNat)) = w := by
  rw [fromLe_le 4 _ w.isLt, BitVec.ofNat_toNat, BitVec.setWidth_eq]

/-- A record of a content whose layers can be read, each of a slot of its own, has a good check. -/
theorem readFitting_fittingRecord {layers : List FittedLayer} (long : 96 ≤ content.length)
    (short : content.length + 3 < 65536) (count : content.getD 95 0#8 = byte layers.length)
    (read : readLayers layers.length (content.drop 96) = some layers) (slots : (layers.map FittedLayer.slot).Nodup) :
    readFitting (fittingRecord content) = some (readSettings (fittingRecord content) layers) := by
  have few : layers.length ≤ 24 := by simpa using slots.length_le_card
  have length := fittingRecord_length content
  have counted : ((fittingRecord content).getD 98 0#8).toNat = layers.length := by
    rw [← byte_toNat (show layers.length < 256 by omega), ← count]
    exact congrArg _ ((fittingRecord_standsAt content).getD (j := 95) (by omega) 0#8)
  have declared : fromLe (((fittingRecord content).drop 1).take 2) = content.length + 3 :=
    fromLe_le 2 (content.length + 3) short
  have layersAt : (fittingBody content).drop 99 = content.drop 96 := rfl
  unfold readFitting
  simp only [counted, declared, length, Nat.add_sub_cancel, fittingRecord_take, fittingRecord_drop, ofNat_fromLe_le,
    layersAt, read, if_pos slots]
  refine if_neg ?_
  rintro (tooShort | format | wrongLength | wrongCheck | tooMany)
  · omega
  · exact format rfl
  · exact wrongLength rfl
  · exact wrongCheck rfl
  · omega

end Record

/-! ## The layers of a snapshot (R183) -/

section StoredLayers

variable {t : LayerTable}

theorem LayerTable.mem_storedSlots {i : Fin 24} : i ∈ t.storedSlots ↔
    (t.slots[i].owner = .fitted ∨ t.slots[i].owner = .port .body) ∧ t.slots[i].active.part.kind ≠ .bitmap := by
  simp only [t.storedSlots_eq, List.mem_filter, List.mem_finRange, true_and, decide_eq_true_iff]

theorem LayerTable.storedSlots_nodup (t : LayerTable) : t.storedSlots.Nodup := (List.nodup_finRange 24).filter _

theorem LayerTable.storedSlots_length (t : LayerTable) : t.storedSlots.length ≤ 24 := by
  simpa using t.storedSlots_nodup.length_le_card

/-- The layers a store takes, as they are read back. -/
def LayerTable.storedLayers (t : LayerTable) : List FittedLayer :=
  t.storedSlots.map fun i => ⟨i, t.slots[i].active⟩

/-- The layers' bytes in a snapshot. -/
def LayerTable.storedBytes (t : LayerTable) : List Byte :=
  t.storedSlots.flatMap fun i => byte i.val :: t.slots[i].active.bytes

theorem LayerTable.storedLayers_length (t : LayerTable) : t.storedLayers.length = t.storedSlots.length :=
  List.length_map _

theorem LayerTable.storedLayers_slots (t : LayerTable) : t.storedLayers.map FittedLayer.slot = t.storedSlots := by
  rw [LayerTable.storedLayers, List.map_map]
  exact List.map_id _

theorem LayerTable.spelledBy_active (range : t.RangesGood) {i : Fin 24} (stored : i ∈ t.storedSlots) :
    t.slots[i].active.spelledBy t.slots[i].active.bytes :=
  LayerRecord.spelledBy_bytes (range i).2 (LayerTable.mem_storedSlots.mp stored).2

theorem LayerTable.readLayers_storedBytes (range : t.RangesGood) :
    readLayers t.storedSlots.length t.storedBytes = some t.storedLayers := by
  rw [readLayers_iff, LayerTable.storedBytes, List.flatMap_def]
  refine ⟨t.storedLayers_length, _, rfl, ?_⟩
  rw [LayerTable.storedLayers, List.forall₂_map_left_iff, List.forall₂_map_right_iff, List.forall₂_same]
  exact fun i stored => ⟨_, LayerTable.spelledBy_active range stored, rfl⟩

theorem LayerTable.storedBytes_length (range : t.RangesGood) : t.storedBytes.length ≤ 24 * 72 := by
  have each : ∀ n ∈ t.storedSlots.map fun i => (byte i.val :: t.slots[i].active.bytes).length, n ≤ 72 := by
    simp only [List.mem_map, List.length_cons, forall_exists_index, and_imp, forall_apply_eq_imp_iff₂]
    intro i stored
    have := LayerRecord.spelledBy_length (LayerTable.spelledBy_active range stored)
    omega
  have sum := List.sum_le_card_nsmul _ 72 each
  rw [List.length_map, smul_eq_mul] at sum
  rw [LayerTable.storedBytes, List.length_flatMap]
  exact sum.trans (Nat.mul_le_mul_right 72 t.storedSlots_length)

/-- A slot is found among the layers of some slots exactly if it is one of them. -/
theorem find?_slot (g : Fin 24 → LayerRecord) (i : Fin 24) : ∀ l : List (Fin 24),
    ((l.map fun j => FittedLayer.mk j (g j)).find? fun x => decide (x.slot = i)).map FittedLayer.record
      = if i ∈ l then some (g i) else none
  | [] => rfl
  | j :: l => by
    have ih := find?_slot g i l
    by_cases h : j = i
    · rw [List.map_cons, List.find?_cons_of_pos (by simp [h]), if_pos (by simp [h])]
      exact congrArg (fun k => some (g k)) h
    · rw [List.map_cons, List.find?_cons_of_neg (by simp [h]), ih]
      simp [Ne.symm h]

end StoredLayers

/-! ## The settings of a snapshot (R181, R183) -/

theorem bitsToNat_append : ∀ l m : List Bool, bitsToNat (l ++ m) = bitsToNat l + 2 ^ l.length * bitsToNat m
  | [], m => by simp [bitsToNat]
  | b :: l, m => by
    rw [List.cons_append, bitsToNat, bitsToNat, bitsToNat_append l m, List.length_cons, Nat.pow_succ]
    ring

/-- The population byte: the four present bits, and bit 7 as 1 (R188). -/
theorem populationByte_bit (v : Vector Bool 4) :
    (∀ k : Fin 4, bit (byte (bitsToNat v.toList + 128)) k.val = v[k])
    ∧ bit (byte (bitsToNat v.toList + 128)) 7 = true := by
  have bits : bitsToNat v.toList + 128 = bitsToNat (v.toList ++ [false, false, false, true]) := by
    rw [bitsToNat_append, Vector.length_toList]
    rfl
  have read := getLsbD_byte_bitsToNat (v.toList ++ [false, false, false, true]) (by simp)
  simp only [bit, bits, read]
  constructor
  · intro k
    rw [List.getD_append _ _ _ _ (by simp), List.getD_eq_getElem _ _ (by simp)]
    simp
  · rw [List.getD_append_right _ _ _ _ (by simp), Vector.length_toList]
    rfl

/-- The settings' bytes in a snapshot: all of its content before the layers' count. -/
def State.settingsBytes (s : State) : List Byte :=
  byte (bitsToNat s.cams.population.toList + 128) :: s.scn.inputs.toList.flatMap Input.fittingBytes
    ++ le 2 s.scn.stopThreshold ++ le 2 s.scn.slowThreshold ++ le 2 s.mkm.threshold
    ++ s.ftb.fittingBytes ++ s.cmp.palette.toList.flatMap Colour.bytes

section Settings

variable {s : State} {bs : List Byte} {layers : List FittedLayer}

theorem inputs_length (v : Vector Input 8) : (v.toList.flatMap Input.fittingBytes).length = 24 := by
  rw [flatMap_length (k := 3) fun _ => rfl, Vector.length_toList]

theorem strobes_length (v : Vector Nat 4) : (v.toList.flatMap (le 2)).length = 8 := by
  rw [flatMap_length (k := 2) fun _ => rfl, Vector.length_toList]

theorem palette_length (v : Vector Colour 16) : (v.toList.flatMap Colour.bytes).length = 48 := by
  rw [flatMap_length (k := 3) fun _ => rfl, Vector.length_toList]

theorem State.settingsBytes_length (s : State) : s.settingsBytes.length = 95 := by
  simp only [State.settingsBytes, Timebase.fittingBytes, List.length_append, List.length_cons, List.length_nil,
    List.cons_append, le_length, inputs_length, strobes_length, palette_length]

/-- Where each setting stands in a record (11.1.6). -/
theorem State.settings_places (h : StandsAt bs 3 s.settingsBytes) :
    StandsAt bs 3 [byte (bitsToNat s.cams.population.toList + 128)]
    ∧ StandsAt bs 4 (s.scn.inputs.toList.flatMap Input.fittingBytes)
    ∧ StandsAt bs 28 (le 2 s.scn.stopThreshold) ∧ StandsAt bs 30 (le 2 s.scn.slowThreshold)
    ∧ StandsAt bs 32 (le 2 s.mkm.threshold) ∧ StandsAt bs 34 (le 2 s.ftb.stagedPeriod)
    ∧ StandsAt bs 36 (le 2 s.ftb.commitLine) ∧ StandsAt bs 38 (s.ftb.strobes.toList.flatMap (le 2))
    ∧ StandsAt bs 46 (le 2 s.ftb.phase) ∧ StandsAt bs 48 [flag s.ftb.genlockOn, 0#8]
    ∧ StandsAt bs 50 (s.cmp.palette.toList.flatMap Colour.bytes) := by
  rw [State.settingsBytes, ← List.singleton_append] at h
  simpa only [Timebase.fittingBytes, standsAt_append, List.length_append, List.length_cons, List.length_nil, le_length,
    inputs_length, strobes_length, and_assoc, Nat.reduceAdd] using h

/-- The settings that are read as they stand. -/
theorem readSettings_fields (bs : List Byte) (layers : List FittedLayer) :
    (readSettings bs layers).stop = fromLe ((bs.drop 28).take 2)
    ∧ (readSettings bs layers).slow = fromLe ((bs.drop 30).take 2)
    ∧ (readSettings bs layers).near = fromLe ((bs.drop 32).take 2)
    ∧ (readSettings bs layers).period = fromLe ((bs.drop 34).take 2)
    ∧ (readSettings bs layers).commitLine = fromLe ((bs.drop 36).take 2)
    ∧ (readSettings bs layers).phase = fromLe ((bs.drop 46).take 2)
    ∧ (readSettings bs layers).genlock = bs.getD 48 0#8
    ∧ (readSettings bs layers).palette = paletteFrom (bs.drop 50) :=
  ⟨rfl, rfl, rfl, rfl, rfl, rfl, rfl, rfl⟩

theorem readSettings_layerAt (bs : List Byte) (t : LayerTable) (i : Fin 24) :
    (readSettings bs t.storedLayers).layerAt i
      = if i ∈ t.storedSlots then some t.slots[i].active else none :=
  find?_slot (fun j => t.slots[j].active) i t.storedSlots

theorem readSettings_population (h : StandsAt bs 3 [byte (bitsToNat s.cams.population.toList + 128)]) :
    (readSettings bs layers).population = some s.cams.population := by
  obtain ⟨present, carried⟩ := populationByte_bit s.cams.population
  unfold readSettings
  simp only [h.head, carried, present, if_true, Option.some.injEq]
  exact Vector.ext fun k hk => by simp

theorem readSettings_input (h : StandsAt bs 4 (s.scn.inputs.toList.flatMap Input.fittingBytes)) (n : Fin 8)
    (range : s.scn.inputs[n].debounce ≤ 250) : (readSettings bs layers).inputs[n]
      = ⟨byte s.scn.inputs[n].polarity.number, s.scn.inputs[n].debounce, flag s.scn.inputs[n].mask⟩ := by
  have place : StandsAt bs (4 + 3 * n.val) s.scn.inputs[n].fittingBytes := h.vector (fun _ => rfl) n
  obtain ⟨polarity, debounce, mask⟩ := place.three 0#8
  rw [Nat.add_right_comm] at debounce mask
  have read : (byte s.scn.inputs[n].debounce).toNat = s.scn.inputs[n].debounce := byte_toNat (by omega)
  rw [← read, ← polarity, ← debounce, ← mask]
  exact ofFn_get _ n

theorem readSettings_strobes (h : StandsAt bs 38 (s.ftb.strobes.toList.flatMap (le 2)))
    (range : ∀ k : Fin 4, s.ftb.strobes[k] < 65536) : (readSettings bs layers).strobes = s.ftb.strobes := by
  refine Vector.ext fun k hk => ?_
  have place := h.vector (fun _ => le_length 2 _) ⟨k, hk⟩
  exact (ofFn_get _ ⟨k, hk⟩).trans (place.fromLe_take (range ⟨k, hk⟩))

theorem paletteFrom_drop {v : Vector Colour 16} {i : Nat} (h : StandsAt bs i (v.toList.flatMap Colour.bytes)) :
    paletteFrom (bs.drop i) = v := by
  refine Vector.ext fun k hk => ?_
  have place := h.drop.vector (k := 3) (fun _ => rfl) ⟨k, hk⟩
  obtain ⟨red, green, blue⟩ := place.three 0#8
  rw [Nat.zero_add] at red green blue
  refine (ofFn_get _ ⟨k, hk⟩).trans ?_
  rw [red, green, blue]
  rfl

/-- A snapshot's check is good, and what is read are its settings and its layers. -/
theorem State.readFitting_fittingSnapshot (range : s.ltb.RangesGood) :
    readFitting s.fittingSnapshot = some (readSettings s.fittingSnapshot s.ltb.storedLayers) := by
  have content : s.fittingContent = s.settingsBytes ++ byte s.ltb.storedSlots.length :: s.ltb.storedBytes := rfl
  have settings := s.settingsBytes_length
  have layers := LayerTable.storedBytes_length range
  have length : s.fittingContent.length = 96 + s.ltb.storedBytes.length := by
    rw [content, List.length_append, List.length_cons]
    omega
  refine readFitting_fittingRecord (by omega) (by omega) ?_ ?_ ?_
  · rw [content, List.getD_append_right _ _ _ _ (by omega), settings, s.ltb.storedLayers_length]
    rfl
  · rw [content, List.drop_append, List.drop_eq_nil_of_le (by omega), settings, s.ltb.storedLayers_length]
    exact LayerTable.readLayers_storedBytes range
  · rw [s.ltb.storedLayers_slots]
    exact s.ltb.storedSlots_nodup

end Settings

/-- Settles O16: the snapshot is a record of a content whose layers can be read, and each setting is read at the place
where it was written. -/
theorem storedFittingReadsBack : Obligations.StoredFittingReadsBack := by
  intro s layers timebase debounce stop slow near
  obtain ⟨-, -, -, -, period, -, -, commitLine, strobes, -, phase, -⟩ := timebase
  have settings : StandsAt s.fittingSnapshot 3 s.settingsBytes :=
    (standsAt_append.mp (fittingRecord_standsAt s.fittingContent)).1
  obtain ⟨population, inputs, stopAt, slowAt, nearAt, periodAt, commitLineAt, strobesAt, phaseAt, genlockAt,
    paletteAt⟩ := State.settings_places settings
  obtain ⟨stopRead, slowRead, nearRead, periodRead, commitLineRead, phaseRead, genlockRead, paletteRead⟩ :=
    readSettings_fields s.fittingSnapshot s.ltb.storedLayers
  refine ⟨_, State.readFitting_fittingSnapshot layers, readSettings_population population,
    fun n => readSettings_input inputs n (debounce n), stopRead.trans (stopAt.fromLe_take (by omega)),
    slowRead.trans (slowAt.fromLe_take (by omega)), nearRead.trans (nearAt.fromLe_take (by omega)),
    periodRead.trans (periodAt.fromLe_take (by omega)), commitLineRead.trans (commitLineAt.fromLe_take (by omega)),
    readSettings_strobes strobesAt (fun k => (strobes k).2.trans (by omega)),
    phaseRead.trans (phaseAt.fromLe_take (by omega)), genlockRead.trans (genlockAt.head _),
    paletteRead.trans (paletteFrom_drop paletteAt), fun i => ?_⟩
  simp only [readSettings_layerAt, LayerTable.mem_storedSlots]

end Sys2Proof.Machine

/-! The Layer Table's requests (chapter 1) and FORCE (R153): one equation for each request, as it stands before the
port's request leaves its queue, and what each way of it leaves. -/

namespace Sys2Proof.Machine

/-! ## Requests that name a slot (R15) -/

theorem slotOf_val (i : Fin 24) : slotOf i.val = some i := dif_pos i.isLt

theorem slotOf_eq_none {n : Nat} (h : 24 ≤ n) : slotOf n = none := dif_neg (Nat.not_lt.mpr h)

theorem onSlot_of_slot {r : Request} {i : Fin 24} (h : (r.arg 0).toNat = i.val) (p : Port) (s : State)
    (f : Fin 24 → State) : onSlot p r s f = .next (f i) := by
  rw [onSlot, h, slotOf_val]

theorem onSlot_of_no_slot {r : Request} (h : 24 ≤ (r.arg 0).toNat) (p : Port) (s : State) (f : Fin 24 → State) :
    onSlot p r s f = .next (s.badField p r 0x00#8) := by
  rw [onSlot, slotOf_eq_none h]

/-- Each request that names a slot is an executor's command whose block works on that slot. -/
theorem exec_of_slot_request {c : Instr} {kind : RequestKind} {p : Port} (h : requestOf c = some (kind, p))
    (hk : kind ∈ [RequestKind.claim, .seize, .release, .edit, .readLayer, .force]) :
    ∃ f : Request → State → Fin 24 → State, ∀ s, exec c s = serve kind p s (fun r s => onSlot p r s (f r s)) := by
  cases c <;> simp only [requestOf, Option.some.injEq, Prod.mk.injEq, reduceCtorEq] at h
  case claim q => obtain ⟨rfl, rfl⟩ := h; exact ⟨claimSlot q, fun _ => rfl⟩
  case seize q => obtain ⟨rfl, rfl⟩ := h; exact ⟨seizeSlot q, fun _ => rfl⟩
  case release q => obtain ⟨rfl, rfl⟩ := h; exact ⟨releaseSlot q, fun _ => rfl⟩
  case edit q => obtain ⟨rfl, rfl⟩ := h; exact ⟨editSlot q, fun _ => rfl⟩
  case force q => obtain ⟨rfl, rfl⟩ := h; exact ⟨forceSlot q, fun _ => rfl⟩
  case readLayer q => obtain ⟨rfl, rfl⟩ := h; exact ⟨fun r s i => s.done q r (layerValues s i), fun _ => rfl⟩
  all_goals obtain ⟨rfl, rfl⟩ := h; simp at hk

/-- Settles O28: the slot number is read before the block does anything (`onSlot_of_no_slot`). -/
theorem slotNumberIsCheckedFirst : Obligations.SlotNumberIsCheckedFirst := by
  intro c kind p s r hc hk reaches large
  obtain ⟨f, hf⟩ := exec_of_slot_request hc hk
  rw [hf, serve_of_reaches s p reaches, onSlot_of_no_slot large, State.taken_badField]

section SlotRequests

variable {s : State} {p : Port} {r : Request} {i : Fin 24} (slot : (r.arg 0).toNat = i.val)
include slot

theorem exec_claim_of_slot (h : s.Reaches p .claim r) : exec (.claim p) s = .next (claimSlot p r (s.taken p) i) := by
  change execClaim p s = _
  rw [execClaim, serve_of_reaches s p h, onSlot_of_slot slot]

theorem exec_seize_of_slot (h : s.Reaches p .seize r) : exec (.seize p) s = .next (seizeSlot p r (s.taken p) i) := by
  change execSeize p s = _
  rw [execSeize, serve_of_reaches s p h, onSlot_of_slot slot]

theorem exec_release_of_slot (h : s.Reaches p .release r) :
    exec (.release p) s = .next (releaseSlot p r (s.taken p) i) := by
  change execRelease p s = _
  rw [execRelease, serve_of_reaches s p h, onSlot_of_slot slot]

theorem exec_edit_of_slot (h : s.Reaches p .edit r) : exec (.edit p) s = .next (editSlot p r (s.taken p) i) := by
  change execEdit p s = _
  rw [execEdit, serve_of_reaches s p h, onSlot_of_slot slot]

theorem exec_force_of_slot (h : s.Reaches p .force r) : exec (.force p) s = .next (forceSlot p r (s.taken p) i) := by
  change execForce p s = _
  rw [execForce, serve_of_reaches s p h, onSlot_of_slot slot]

theorem exec_readLayer_of_slot (h : s.Reaches p .readLayer r) :
    exec (.readLayer p) s = .next (s.replied p r .done 0#8 (layerValues s i)) := by
  change execReadLayer p s = _
  rw [execReadLayer, serve_of_reaches s p h, onSlot_of_slot slot, State.taken_done]
  rfl

end SlotRequests

/-! ## CLAIM (R16) -/

theorem LayerSlot.holdsSafety_iff (x : LayerSlot) :
    x.holdsSafety = true ↔ x.active.cls = .safety ∨ x.staged.cls = .safety := by
  simp [LayerSlot.holdsSafety]

theorem LayerSlot.not_holdsSafety_of_ordinary {x : LayerSlot} (active : x.active.cls = .ordinary)
    (staged : x.staged.cls = .ordinary) : ¬ x.holdsSafety = true := by
  simp [LayerSlot.holdsSafety, active, staged]

section Claim

variable {s : State} {p : Port} {r : Request} {i : Fin 24}

theorem claimSlot_of_own (own : s.ltb.slots[i].owner = .port p) :
    claimSlot p r (s.taken p) i = s.replied p r .granted 0#8 [] := by
  rw [claimSlot, State.taken_ltb]
  exact (if_pos own).trans (s.taken_refuse p r _)

theorem claimSlot_of_safety (other : s.ltb.slots[i].owner ≠ .port p) (rank : p ≠ .body)
    (safety : s.ltb.slots[i].holdsSafety = true) :
    claimSlot p r (s.taken p) i = s.replied p r .rankRefused 0xFE#8 [] := by
  rw [claimSlot, State.taken_ltb]
  exact (if_neg other).trans ((if_pos ⟨rank, safety⟩).trans (s.taken_answer p r _ _ _))

section Allowed

variable (allowed : ¬ (p ≠ .body ∧ s.ltb.slots[i].holdsSafety = true))
include allowed

theorem claimSlot_of_held {q : Port} (held : s.ltb.slots[i].owner = .port q) (other : q ≠ p) :
    claimSlot p r (s.taken p) i = s.replied p r .heldBy 0#8 [byte (Owner.port q).number] := by
  have not_own : Owner.port q ≠ .port p := by simpa using other
  rw [claimSlot, State.taken_ltb]
  simp only [if_neg allowed, held, if_neg not_own, State.taken_answer]

theorem claimSlot_of_free (free : s.ltb.slots[i].owner = .none) :
    claimSlot p r (s.taken p) i
      = (s.setSlot i { LayerSlot.unowned with owner := .port p }).replied p r .granted 0#8 [] := by
  rw [claimSlot, State.taken_ltb]
  simp only [if_neg allowed, free, reduceCtorEq, if_false, State.taken_setSlot, State.taken_refuse]

theorem claimSlot_of_fitted (fitted : s.ltb.slots[i].owner = .fitted) :
    claimSlot p r (s.taken p) i = (s.setSlot i (s.ltb.slots[i].grant p)).replied p r .granted 0#8 [] := by
  rw [claimSlot, State.taken_ltb]
  simp only [if_neg allowed, fitted, reduceCtorEq, if_false, State.taken_setSlot, State.taken_refuse]

end Allowed

end Claim

/-- Settles O29: the five cases of R16, each by its lemma above. -/
theorem claimTestsInOrder : Obligations.ClaimTestsInOrder := by
  intro p s r i reaches slot x hx
  subst hx
  rw [exec_claim_of_slot slot reaches]
  refine ⟨fun own => ?_, fun other rank safety => ?_, fun ok => ?_⟩
  · rw [claimSlot_of_own own]
  · rw [claimSlot_of_safety other rank ((LayerSlot.holdsSafety_iff _).mpr safety)]
  · have allowed : ¬ (p ≠ .body ∧ s.ltb.slots[i].holdsSafety = true) := by
      rintro ⟨rank, safety⟩
      obtain rfl | ⟨active, staged⟩ := ok
      · exact rank rfl
      · exact LayerSlot.not_holdsSafety_of_ordinary active staged safety
    refine ⟨fun q held other => ?_, fun free => ?_, fun fitted => ?_⟩
    · rw [claimSlot_of_held allowed held other]
      rfl
    · rw [claimSlot_of_free allowed free]
      rfl
    · rw [claimSlot_of_fitted allowed fitted]
      rfl

/-! ## SEIZE (R17, R18, R32) -/

section Seize

variable {s : State} {r : Request} {i : Fin 24}

/-- The state with slot `i` taken from its owner and given to BODY. -/
def State.seized (s : State) (i : Fin 24) : State :=
  (s.setLtb (s.ltb.leaveSet s.ltb.slots[i].owner i)).setSlot i (s.ltb.slots[i].grant .body)

theorem seizeSlot_of_own (own : s.ltb.slots[i].owner = .port .body) :
    seizeSlot .body r (s.taken .body) i = s.replied .body r .granted 0#8 [2#8] := by
  rw [seizeSlot, State.taken_ltb]
  simp only [own, if_true, State.taken_answer]
  rfl

theorem seizeSlot_of_no_port (none : ∀ q, s.ltb.slots[i].owner ≠ .port q) :
    seizeSlot .body r (s.taken .body) i
      = (s.setSlot i (s.ltb.slots[i].grant .body)).replied .body r .granted 0#8 [byte s.ltb.slots[i].owner.number] := by
  rw [seizeSlot, State.taken_ltb]
  cases ho : s.ltb.slots[i].owner with
  | port q => exact absurd ho (none q)
  | none | fitted =>
    simp only [reduceCtorEq, if_false, LayerTable.leaveSet, State.taken_setLtb, State.taken_setSlot,
      State.taken_answer]
    rfl

theorem seizeSlot_of_port {q : Port} (held : s.ltb.slots[i].owner = .port q) (other : q ≠ .body) :
    seizeSlot .body r (s.taken .body) i
      = ((s.seized i).raiseTo q .layerSeized i.val 0).replied .body r .granted 0#8 [byte (Owner.port q).number] := by
  rw [seizeSlot, State.taken_ltb, State.seized]
  simp only [held, Owner.port.injEq, if_neg other, State.taken_setLtb, State.taken_setSlot, State.taken_raiseTo,
    State.taken_answer]

end Seize

/-- Settles O30, by the owner before. -/
theorem seizeTakesAnySlot : Obligations.SeizeTakesAnySlot := by
  intro s r i reaches slot x hx
  subst hx
  rw [exec_seize_of_slot slot reaches]
  refine ⟨fun own => ?_, fun free => ?_, fun fitted => ?_, fun q other held => ?_⟩
  · rw [seizeSlot_of_own own]
  · rw [seizeSlot_of_no_port (by rw [free]; nofun), free]
    rfl
  · rw [seizeSlot_of_no_port (by rw [fitted]; nofun), fitted]
    rfl
  · rw [seizeSlot_of_port held other, State.seized, held]
    rfl

/-! ## RELEASE (R2, R19, R33) -/

section Release

variable {s : State} {p : Port} {r : Request} {i : Fin 24}

theorem releaseSlot_of_other (other : s.ltb.slots[i].owner ≠ .port p) :
    releaseSlot p r (s.taken p) i = s.replied p r .notOwner 0#8 [] := by
  rw [releaseSlot, State.taken_ltb, if_neg other, State.taken_refuse]

theorem releaseSlot_of_own (own : s.ltb.slots[i].owner = .port p) :
    releaseSlot p r (s.taken p) i = (s.freeSlot i).replied p r .done 0#8 [] := by
  rw [releaseSlot, State.taken_ltb, if_pos own, State.freeSlot, State.freeSlot, State.taken_ltb, State.taken_setLtb,
    State.taken_setSlot, State.taken_done]

end Release

/-- Settles O31. -/
theorem releaseFreesOwnSlot : Obligations.ReleaseFreesOwnSlot := by
  intro p s r i reaches slot
  rw [exec_release_of_slot slot reaches]
  refine ⟨fun other => ?_, fun own => ?_⟩
  · rw [releaseSlot_of_other other]
  · rw [releaseSlot_of_own own, State.freeSlot, own]
    rfl

/-! ## EDIT (R20, R21) -/

section Edit

variable {s : State} {p : Port} {r : Request} {i : Fin 24}

/-- The payload of an EDIT that reaches the Layer Table lays out the pairs it carries (R185, 11.1.2). -/
theorem Request.pairs_of_fits (fits : RequestKind.payloadFits .edit r.payload = true) :
    r.pairs.length = (r.arg 1).toNat ∧ (∀ z ∈ r.pairs, z.value.length ≤ 255)
    ∧ r.payload = [r.arg 0, r.arg 1] ++ r.pairs.flatMap (fun z => [z.id, byte z.value.length] ++ z.value) := by
  match hp : r.payload with
  | [] | [_] => rw [hp] at fits; cases fits
  | slot :: count :: rest =>
    rw [hp, RequestKind.payloadFits_edit_cons_cons, Option.isSome_iff_exists] at fits
    obtain ⟨pairs, read⟩ := fits
    have first : r.arg 0 = slot := by simp [Request.arg, hp]
    have second : r.arg 1 = count := by simp [Request.arg, hp]
    have carried : r.pairs = pairs := by rw [Request.pairs, second, hp]; exact congrArg (Option.getD · []) read
    obtain ⟨length, values, rfl⟩ := (editPairs_iff count rest pairs).mp read
    rw [first, second, carried]
    exact ⟨length, values, rfl⟩

/-- The pairs are the ones laid out. -/
theorem Request.pairs_eq {pairs : List EditPair} (length : pairs.length = (r.arg 1).toNat)
    (values : ∀ z ∈ pairs, z.value.length ≤ 255)
    (layout : r.payload = [r.arg 0, r.arg 1] ++ pairs.flatMap (fun z => [z.id, byte z.value.length] ++ z.value)) :
    r.pairs = pairs := by
  have rest : r.payload.drop 2 = pairs.flatMap (fun z => [z.id, byte z.value.length] ++ z.value) := by
    rw [layout]
    rfl
  rw [Request.pairs, rest, (editPairs_iff _ _ pairs).mpr ⟨length, values, rfl⟩]
  rfl

theorem editSlot_of_bad_count (count : (r.arg 1).toNat < 1 ∨ 16 < (r.arg 1).toNat) :
    editSlot p r (s.taken p) i = s.replied p r .badField 0x0F#8 [] := by
  rw [editSlot]
  exact (if_pos count).trans (s.taken_badField p r _)

section Counted

variable (count : ¬ ((r.arg 1).toNat < 1 ∨ 16 < (r.arg 1).toNat))
include count

theorem editSlot_of_other (other : s.ltb.slots[i].owner ≠ .port p) :
    editSlot p r (s.taken p) i = s.replied p r .notOwner 0#8 [] := by
  rw [editSlot, State.taken_ltb]
  exact (if_neg count).trans ((if_pos other).trans (s.taken_refuse p r _))

section Own

variable (own : s.ltb.slots[i].owner = .port p)
include own

theorem editSlot_of_pending (pending : s.ltb.slots[i].status = .pending) :
    editSlot p r (s.taken p) i = s.replied p r .busy 0#8 [] := by
  rw [editSlot, State.taken_ltb]
  exact (if_neg count).trans ((if_neg (not_not.mpr own)).trans ((if_pos pending).trans (s.taken_refuse p r _)))

variable (settled : s.ltb.slots[i].status ≠ .pending)
include settled

theorem editSlot_of_error {result : ResultCode} {field : Byte}
    (bad : applyPairs p r.pairs s.ltb.slots[i].staged = .error (result, field)) :
    editSlot p r (s.taken p) i = s.replied p r result field [] := by
  rw [editSlot, State.taken_ltb]
  simp only [if_neg count, own, ne_eq, not_true_eq_false, if_false, if_neg settled, bad, State.taken_answer]

theorem editSlot_of_ok {w : LayerRecord} (ok : applyPairs p r.pairs s.ltb.slots[i].staged = .ok w) :
    editSlot p r (s.taken p) i
      = (s.setSlot i { s.ltb.slots[i] with staged := w, status := .edited }).replied p r .done 0#8 [] := by
  rw [editSlot, State.taken_ltb]
  simp only [if_neg count, own, ne_eq, not_true_eq_false, if_false, if_neg settled, ok, State.taken_setSlot,
    State.taken_done]

end Own

end Counted

end Edit

/-- Settles O32: the tests of R20 in their order, the pairs those that the payload lays out (`Request.pairs_eq`). -/
theorem editWritesAllOrNothing : Obligations.EditWritesAllOrNothing := by
  intro p s r i reaches slot x n laidOut hx hn hpairs
  subst hx hn
  rw [exec_edit_of_slot slot reaches]
  refine ⟨fun bad => ?_, fun low high other => ?_, fun low high own pending => ?_, fun low high own settled => ?_⟩
  · rw [editSlot_of_bad_count bad]
  · rw [editSlot_of_other (by omega) other]
  · rw [editSlot_of_pending (by omega) own pending]
  · have count : ¬ ((r.arg 1).toNat < 1 ∨ 16 < (r.arg 1).toNat) := by omega
    refine ⟨⟨r.pairs, (hpairs _).mpr (Request.pairs_of_fits reaches.2.2.2.2)⟩, fun pairs laid => ?_⟩
    obtain ⟨length, values, layout⟩ := (hpairs pairs).mp laid
    obtain rfl := Request.pairs_eq length values layout
    refine ⟨fun result field bad => ?_, fun w ok => ?_⟩
    · rw [editSlot_of_error count own settled bad]
    · rw [editSlot_of_ok count own settled ok]

/-! ## DISCARD (R22) -/

/-- A DISCARD that reaches the Layer Table is BUSY, or returns the port's EDITED slots. -/
theorem exec_discard_of_reaches {s : State} {p : Port} {r : Request} (h : s.Reaches p .discard r) :
    exec (.discard p) s =
      if s.ltb.sets.get p ≠ none then .next (s.replied p r .busy 0#8 [])
      else .next ((s.setLtb (s.ltb.discard p)).replied p r .done 0#8 [byte (s.ltb.editedSlots p).length]) := by
  change execDiscard p s = _
  rw [execDiscard, serve_of_reaches s p h]
  simp only [State.taken_ltb, State.taken_refuse, State.taken_setLtb, State.taken_done, Option.isSome_iff_ne_none]

/-- Settles O34. -/
theorem discardReturnsEditedSlots : Obligations.DiscardReturnsEditedSlots := by
  intro p s r reaches
  rw [exec_discard_of_reaches reaches]
  refine ⟨fun busy => if_pos busy, fun idle => ⟨s.ltb.discard p, ?_, LayerTable.discard_sets _ _, fun i => ?_⟩⟩
  · rw [if_neg (not_not.mpr idle), LayerTable.editedSlots_eq_filter]
  · rw [LayerTable.discard_slot]
    simp only [LayerSlot.editedBy_iff]
    split_ifs with edited
    · rw [edited.1]
    · rfl

/-! ## FORCE (R153) and SET_PALETTE (R154) -/

theorem forceOf_number (f : Force) : forceOf (byte f.number) = some f := by cases f <;> rfl

theorem forceOf_eq_none {b : Byte} (h : 2 < b.toNat) : forceOf b = none := by
  have not_small : ∀ n : Byte, n.toNat ≤ 2 → b ≠ n := by rintro n hn rfl; omega
  rw [forceOf, if_neg (not_small _ (by decide)), if_neg (not_small _ (by decide)), if_neg (not_small _ (by decide))]

section Force

variable {s : State} {p : Port} {r : Request} {i : Fin 24}

theorem forceSlot_of_bad_value (bad : forceOf (r.arg 1) = none) :
    forceSlot p r (s.taken p) i = s.replied p r .badField 0x01#8 [] := by
  rw [forceSlot]
  simp only [bad, State.taken_badField]

variable {f : Force} (value : forceOf (r.arg 1) = some f)
include value

theorem forceSlot_of_unowned (free : s.ltb.slots[i].owner = .none) :
    forceSlot p r (s.taken p) i = s.replied p r .notOwner 0#8 [] := by
  rw [forceSlot, State.taken_ltb]
  simp only [value, free, if_true, State.taken_refuse]

theorem forceSlot_of_owned (owned : s.ltb.slots[i].owner ≠ .none) :
    forceSlot p r (s.taken p) i
      = (s.setSlot i { s.ltb.slots[i] with force := f }).replied p r .done 0#8 [byte s.ltb.slots[i].force.number] := by
  rw [forceSlot, State.taken_ltb]
  simp only [value, if_neg owned, State.taken_setSlot, State.taken_done]

end Force

theorem exec_setPalette_of_reaches {s : State} {p : Port} {r : Request} (h : s.Reaches p .setPalette r) :
    exec (.setPalette p) s =
      if (r.arg 0).toNat ≠ 16 then .next (s.replied p r .badField 0x0F#8 [])
      else .next ((s.setCmp { s.cmp with palette := paletteFrom (r.payload.drop 1) }).replied p r .done 0#8 []) := by
  change execSetPalette p s = _
  rw [execSetPalette, serve_of_reaches s p h]
  simp only [State.taken_cmp, State.taken_badField, State.taken_setCmp, State.taken_done]

/-- Entry `i` of a palette read behind a payload's first byte. -/
theorem Request.paletteFrom_get (r : Request) (i : Fin 16) : (paletteFrom (r.payload.drop 1))[i]
    = ⟨r.arg (1 + 3 * i.val), r.arg (2 + 3 * i.val), r.arg (3 + 3 * i.val)⟩ := by
  have byteAt : ∀ k, (r.payload.drop 1).getD k 0#8 = r.arg (1 + k) := fun k => by
    rw [Request.arg, List.getD_eq_getElem?_getD, List.getElem?_drop, List.getD_eq_getElem?_getD]
  rw [paletteFrom, ofFn_get, byteAt, byteAt, byteAt, ← Nat.add_assoc, ← Nat.add_assoc, Nat.add_right_comm 1 _ 1,
    Nat.add_right_comm 1 _ 2]

/-- Settles O38: FORCE by its value and the slot's owner, SET_PALETTE by its count. -/
theorem forceAndPaletteAreWrittenByBody : Obligations.ForceAndPaletteAreWrittenByBody := by
  refine ⟨fun s r i reaches slot x hx => ?force, fun s r reaches => ?palette⟩
  case force =>
    subst hx
    rw [exec_force_of_slot slot reaches]
    refine ⟨fun large => ?_, fun f value free => ?_, fun f value owned => ?_⟩
    · rw [forceSlot_of_bad_value (forceOf_eq_none large)]
    · rw [forceSlot_of_unowned (value ▸ forceOf_number f) free]
    · rw [forceSlot_of_owned (value ▸ forceOf_number f) owned]
  case palette =>
    rw [exec_setPalette_of_reaches reaches]
    exact ⟨fun bad => if_pos bad, fun count => ⟨_, if_neg (not_not.mpr count), r.paletteFrom_get⟩⟩

end Sys2Proof.Machine

/-! The footprint of every command (R1, R49, R69, R88, R104, R121, R141, R174, R181): the blocks it can change beside
the ports and the queue of waiting commands. -/

namespace Sys2Proof.Machine

/-- A block of the state, the ports and the waiting commands apart. -/
inductive Block where
  | ltb
  | ftb
  | cams
  | scn
  | mkm
  | ovm
  | cmp
  | stc
  | fst
  | links
  | pins

/-- The block is in `t` as it is in `s`. -/
def Block.Same (s t : State) : Block → Prop
  | .ltb => t.ltb = s.ltb
  | .ftb => t.ftb = s.ftb
  | .cams => t.cams = s.cams
  | .scn => t.scn = s.scn
  | .mkm => t.mkm = s.mkm
  | .ovm => t.ovm = s.ovm
  | .cmp => t.cmp = s.cmp
  | .stc => t.stc = s.stc
  | .fst => t.fst = s.fst
  | .links => t.links = s.links
  | .pins => t.pins = s.pins

theorem Block.Same.trans {s t u : State} {b : Block} (h : b.Same s t) (k : b.Same t u) : b.Same s u := by
  cases b <;> exact Eq.trans k h

theorem Block.Same.symm {s t : State} {b : Block} (h : b.Same s t) : b.Same t s := by
  cases b <;> exact Eq.symm h

/-- Of the blocks, at most those of `bs` are in `t` otherwise than in `s`. -/
def State.Within (bs : List Block) (s t : State) : Prop := ∀ b, b ∉ bs → b.Same s t

/-- Of a next state that an outcome answers `P` holds. -/
def NextState (P : State → Prop) (o : Outcome) : Prop := ∀ t, o = .next t → P t

theorem nextState_next {P : State → Prop} {t : State} (h : P t) : NextState P (.next t) := by
  rintro _ ⟨⟩
  exact h

/-- What holds of the state before, of every reply of the executor's own and of what the block makes of the request
taken, holds of the next state (R164). -/
theorem serve_nextState {P : State → Prop} {s : State} {p : Port} {kind : RequestKind}
    {block : Request → State → Outcome} (hs : P s) (refused : ∀ r c i, P (s.replied p r c i []))
    (h : ∀ r, kind.admitted s.stc.part = true → NextState P (block r (s.taken p))) :
    NextState P (serve kind p s block) := by
  intro t ht
  obtain ⟨-, hn⟩ | ⟨r, -, ⟨c, i, hn⟩ | ⟨-, admitted, -, hn⟩⟩ := serve_cases s p ht
  · cases hn; exact hs
  · cases hn; exact refused r c i
  · exact h r admitted t hn.symm

/-- A next state that an outcome answers differs from `s` at most in the blocks of `bs`. -/
abbrev State.AnswersWithin (bs : List Block) (s : State) (o : Outcome) : Prop := NextState (State.Within bs s) o

theorem State.answersWithin_next {bs : List Block} {s t : State} (h : State.Within bs s t) :
    State.AnswersWithin bs s (.next t) := nextState_next h

section Updates

variable {bs : List Block} {s : State} (t : State) (p : Port) (r : Request)

@[simp] theorem State.Within.refl (bs : List Block) (s : State) : State.Within bs s s := fun b _ => by cases b <;> rfl

theorem State.Within.trans {t u : State} (h : State.Within bs s t) (k : State.Within bs t u) : State.Within bs s u :=
  fun b hb => (h b hb).trans (k b hb)

/-- A change of the listed blocks, the ports and the queue alone is not seen. -/
theorem State.within_iff_of_same {t u : State} (h : State.Within bs t u) :
    State.Within bs s u ↔ State.Within bs s t :=
  ⟨fun k b hb => (k b hb).trans (h b hb).symm, fun k => k.trans h⟩

/-! One lemma for each block's update. -/

@[simp] theorem State.within_setPorts (x : PerPort PortState) :
    State.Within bs s (t.setPorts x) ↔ State.Within bs s t :=
  State.within_iff_of_same fun b _ => by cases b <;> rfl

@[simp] theorem State.within_setPending (x : List Instr) :
    State.Within bs s (t.setPending x) ↔ State.Within bs s t :=
  State.within_iff_of_same fun b _ => by cases b <;> rfl

/-- An update of one listed block is not seen. -/
theorem State.within_iff_of_update {t u : State} {b₀ : Block} (h : b₀ ∈ bs) (other : ∀ b, b ≠ b₀ → b.Same t u) :
    State.Within bs s u ↔ State.Within bs s t :=
  State.within_iff_of_same fun b hb => other b fun e => hb (e ▸ h)

@[simp] theorem State.within_setLtb (h : Block.ltb ∈ bs) (x : LayerTable) :
    State.Within bs s (t.setLtb x) ↔ State.Within bs s t :=
  State.within_iff_of_update h fun b hb => by cases b <;> [exact absurd rfl hb; rfl; rfl; rfl; rfl; rfl; rfl; rfl; rfl; rfl; rfl]

@[simp] theorem State.within_setFtb (h : Block.ftb ∈ bs) (x : Timebase) :
    State.Within bs s (t.setFtb x) ↔ State.Within bs s t :=
  State.within_iff_of_update h fun b hb => by cases b <;> [rfl; exact absurd rfl hb; rfl; rfl; rfl; rfl; rfl; rfl; rfl; rfl; rfl]

@[simp] theorem State.within_setCams (h : Block.cams ∈ bs) (x : Cameras) :
    State.Within bs s (t.setCams x) ↔ State.Within bs s t :=
  State.within_iff_of_update h fun b hb => by cases b <;> [rfl; rfl; exact absurd rfl hb; rfl; rfl; rfl; rfl; rfl; rfl; rfl; rfl]

@[simp] theorem State.within_setScn (h : Block.scn ∈ bs) (x : Conditioner) :
    State.Within bs s (t.setScn x) ↔ State.Within bs s t :=
  State.within_iff_of_update h fun b hb => by cases b <;> [rfl; rfl; rfl; exact absurd rfl hb; rfl; rfl; rfl; rfl; rfl; rfl; rfl]

@[simp] theorem State.within_setMkm (h : Block.mkm ∈ bs) (x : MarkerMap) :
    State.Within bs s (t.setMkm x) ↔ State.Within bs s t :=
  State.within_iff_of_update h fun b hb => by cases b <;> [rfl; rfl; rfl; rfl; exact absurd rfl hb; rfl; rfl; rfl; rfl; rfl; rfl]

@[simp] theorem State.within_setOvm (h : Block.ovm ∈ bs) (x : Overlay) :
    State.Within bs s (t.setOvm x) ↔ State.Within bs s t :=
  State.within_iff_of_update h fun b hb => by cases b <;> [rfl; rfl; rfl; rfl; rfl; exact absurd rfl hb; rfl; rfl; rfl; rfl; rfl]

@[simp] theorem State.within_setCmp (h : Block.cmp ∈ bs) (x : Composer) :
    State.Within bs s (t.setCmp x) ↔ State.Within bs s t :=
  State.within_iff_of_update h fun b hb => by cases b <;> [rfl; rfl; rfl; rfl; rfl; rfl; exact absurd rfl hb; rfl; rfl; rfl; rfl]

@[simp] theorem State.within_setStc (h : Block.stc ∈ bs) (x : Controller) :
    State.Within bs s (t.setStc x) ↔ State.Within bs s t :=
  State.within_iff_of_update h fun b hb => by cases b <;> [rfl; rfl; rfl; rfl; rfl; rfl; rfl; exact absurd rfl hb; rfl; rfl; rfl]

@[simp] theorem State.within_setFst (h : Block.fst ∈ bs) (x : Fitting) :
    State.Within bs s (t.setFst x) ↔ State.Within bs s t :=
  State.within_iff_of_update h fun b hb => by cases b <;> [rfl; rfl; rfl; rfl; rfl; rfl; rfl; rfl; exact absurd rfl hb; rfl; rfl]

@[simp] theorem State.within_setLinks (h : Block.links ∈ bs) (x : LinkOutputs) :
    State.Within bs s (t.setLinks x) ↔ State.Within bs s t :=
  State.within_iff_of_update h fun b hb => by cases b <;> [rfl; rfl; rfl; rfl; rfl; rfl; rfl; rfl; rfl; exact absurd rfl hb; rfl]

@[simp] theorem State.within_setPins (h : Block.pins ∈ bs) (x : Pins) :
    State.Within bs s (t.setPins x) ↔ State.Within bs s t :=
  State.within_iff_of_update h fun b hb => by cases b <;> [rfl; rfl; rfl; rfl; rfl; rfl; rfl; rfl; rfl; rfl; exact absurd rfl hb]

/-! The shared operations (chapter 9): the ports alone, or one part of a block. -/

@[simp] theorem State.within_modPort (f : PortState → PortState) :
    State.Within bs s (t.modPort p f) ↔ State.Within bs s t := State.within_setPorts t _

@[simp] theorem State.within_post (x : Reply) : State.Within bs s (t.post p x) ↔ State.Within bs s t :=
  State.within_modPort t p _

@[simp] theorem State.within_answer (c : ResultCode) (i : Byte) (v : List Byte) :
    State.Within bs s (t.answer p r c i v) ↔ State.Within bs s t := State.within_post t p _

@[simp] theorem State.within_done (v : List Byte) : State.Within bs s (t.done p r v) ↔ State.Within bs s t :=
  State.within_post t p _

@[simp] theorem State.within_refuse (c : ResultCode) : State.Within bs s (t.refuse p r c) ↔ State.Within bs s t :=
  State.within_post t p _

@[simp] theorem State.within_badField (i : Byte) : State.Within bs s (t.badField p r i) ↔ State.Within bs s t :=
  State.within_post t p _

@[simp] theorem State.within_dropRequest : State.Within bs s (t.dropRequest p) ↔ State.Within bs s t :=
  State.within_modPort t p _

@[simp] theorem State.within_taken : State.Within bs s (t.taken p) ↔ State.Within bs s t := State.within_setPorts t _

@[simp] theorem State.within_replied (c : ResultCode) (i : Byte) (v : List Byte) :
    State.Within bs s (t.replied p r c i v) ↔ State.Within bs s t := State.within_setPorts t _

@[simp] theorem State.within_raiseTo (c : AlertCode) (a b : Nat) :
    State.Within bs s (t.raiseTo p c a b) ↔ State.Within bs s t := State.within_modPort t p _

@[simp] theorem State.within_raiseAll (c : AlertCode) (a b : Nat) :
    State.Within bs s (t.raiseAll c a b) ↔ State.Within bs s t := by
  simp only [State.raiseAll, State.within_raiseTo]

@[simp] theorem State.within_announce (c : Cause) : State.Within bs s (t.announce c) ↔ State.Within bs s t :=
  State.within_raiseAll t _ _ _

@[simp] theorem State.within_answerAndAnnounce (replyFirst : Bool) (x : Reply) (c : Cause) :
    State.Within bs s (t.answerAndAnnounce replyFirst p x c) ↔ State.Within bs s t := by
  cases replyFirst <;> simp [State.answerAndAnnounce]

@[simp] theorem State.within_raiseNear (ts : List Nat) : ∀ t : State,
    State.Within bs s (t.raiseNear ts) ↔ State.Within bs s t := by
  induction ts with
  | nil => exact fun _ => .rfl
  | cons n ts ih => exact fun t => (ih (t.raiseAll .nearObject n 0)).trans (State.within_raiseAll t _ _ _)

@[simp] theorem State.within_setSlot (h : Block.ltb ∈ bs) (i : Fin 24) (x : LayerSlot) :
    State.Within bs s (t.setSlot i x) ↔ State.Within bs s t := State.within_setLtb t h _

@[simp] theorem State.within_freeSlot (h : Block.ltb ∈ bs) (i : Fin 24) :
    State.Within bs s (t.freeSlot i) ↔ State.Within bs s t := by
  simp [State.freeSlot, h]

@[simp] theorem State.within_setLink (h : Block.cams ∈ bs) (k : Fin 4) (x : CameraLink) :
    State.Within bs s (t.setLink k x) ↔ State.Within bs s t := State.within_setCams t h _

@[simp] theorem State.within_setMarkers (hm : Block.mkm ∈ bs) (hs : Block.scn ∈ bs) (ms : List Marker) :
    State.Within bs s (t.setMarkers ms) ↔ State.Within bs s t := by
  simp [State.setMarkers, hm, hs]

@[simp] theorem State.within_refuseEntry (h : Block.stc ∈ bs) (e : PendingEntry) (c : Cause) :
    State.Within bs s (t.refuseEntry e c) ↔ State.Within bs s t := by
  simp [State.refuseEntry, h]

@[simp] theorem State.within_moveTo (h : Block.stc ∈ bs) (part : PartState) :
    State.Within bs s (t.moveTo part) ↔ State.Within bs s t := State.within_setStc t h _

/-! The shared operations of the blocks. -/

@[simp] theorem State.within_admitJob (h : Block.ovm ∈ bs) (j : Job) :
    State.Within bs s (t.admitJob p j).1 ↔ State.Within bs s t := by
  unfold State.admitJob
  repeat' split
  all_goals simp [h]

@[simp] theorem State.within_endJob (h : Block.ovm ∈ bs) (j : Job) (c : RegionContent) :
    State.Within bs s (t.endJob p j c) ↔ State.Within bs s t := by
  obtain ⟨o, x, e, -⟩ := t.endJob_shape p j c
  simp [e, h]

@[simp] theorem State.within_verificationEnd (h : Block.ovm ∈ bs) (us : List Upset) :
    State.Within bs s (t.verificationEnd us) ↔ State.Within bs s t := by
  unfold State.verificationEnd State.finishVerification
  dsimp only
  repeat' split
  all_goals simp [h]

@[simp] theorem State.within_receiveTimeout (h : Block.ovm ∈ bs) :
    State.Within bs s t.receiveTimeout ↔ State.Within bs s t := by
  unfold State.receiveTimeout
  split <;> simp [h]

@[simp] theorem State.within_resetJob (h : Block.ovm ∈ bs) :
    State.Within bs s (t.resetJob p) ↔ State.Within bs s t := by
  unfold State.resetJob
  repeat' split
  all_goals simp [h]

@[simp] theorem State.within_inputEvent (h : Block.scn ∈ bs) (e : InputEvent) :
    State.Within bs s (t.inputEvent e) ↔ State.Within bs s t := by
  obtain ⟨c, shape, -⟩ := t.inputEvent_only e
  simp [shape, h]

@[simp] theorem State.within_speedAgeExpiry (h : Block.scn ∈ bs) :
    State.Within bs s t.speedAgeExpiry ↔ State.Within bs s t := by
  unfold State.speedAgeExpiry
  split <;> simp [h]

@[simp] theorem State.within_powerOffExpiry (h : Block.cams ∈ bs) (k : Fin 4) :
    State.Within bs s (t.powerOffExpiry k) ↔ State.Within bs s t := by
  unfold State.powerOffExpiry
  dsimp only
  split <;> simp [h]

@[simp] theorem State.within_finishStore (h : Block.fst ∈ bs) (x : StoreInFlight) (good : Bool) :
    State.Within bs s (t.finishStore x good) ↔ State.Within bs s t := by
  unfold State.finishStore
  dsimp only
  repeat' split
  all_goals simp [h]

@[simp] theorem State.within_storeTimerExpiry (h : Block.fst ∈ bs) :
    State.Within bs s t.storeTimerExpiry ↔ State.Within bs s t := by
  unfold State.storeTimerExpiry
  split <;> simp [h]

@[simp] theorem State.within_examine (bytes : List Byte) :
    State.Within bs s (t.examine p bytes) ↔ State.Within bs s t := by
  unfold State.examine
  dsimp only
  repeat' split
  all_goals simp

end Updates

/-! ## The requests (R164) -/

section Requests

variable {bs : List Block} (s : State) (p : Port) (r : Request)

/-- Taking and answering a request changes its port alone. -/
theorem serve_answersWithin {kind : RequestKind} {block : Request → State → Outcome}
    (h : ∀ r, State.AnswersWithin bs s (block r (s.taken p))) : State.AnswersWithin bs s (serve kind p s block) :=
  serve_nextState (.refl bs s) (fun r c i => by simp) fun r _ => h r

theorem onSlot_answersWithin {f : Fin 24 → State} {u : State} (hu : State.Within bs s u)
    (h : ∀ i, State.Within bs s (f i)) : State.AnswersWithin bs s (onSlot p r u f) := by
  unfold onSlot
  split
  · exact State.answersWithin_next (by simpa using hu)
  · exact State.answersWithin_next (h _)

theorem State.within_openLoadRegion (h : Block.ovm ∈ bs) (g : Fin 16) (hs : State.Within bs s t) :
    State.Within bs s (openLoadRegion p r t g) := by
  unfold openLoadRegion
  dsimp only
  repeat' split
  all_goals simp [h, hs]

end Requests

/-! ## The footprints -/

/-- Every block. -/
def Block.all : List Block := [.ltb, .ftb, .cams, .scn, .mkm, .ovm, .cmp, .stc, .fst, .links, .pins]

theorem Block.mem_all (b : Block) : b ∈ Block.all := by cases b <;> simp [Block.all]

/-- The blocks that a command can change. A TOP at the commit line, which R50 shuts out, is where a wake could commit. -/
def Instr.footprint : Instr → List Block
  | .deviceReset _ | .bootEnd _ => Block.all
  | .lineEnd _ _ => [.ltb, .ftb, .cams, .scn, .mkm, .ovm, .cmp, .stc, .links, .pins]
  | .wakeIn _ | .wake _ _ _ => [.ltb, .ftb, .cams, .scn, .ovm, .cmp, .stc, .links, .pins]
  | .dormant _ _ => [.ftb, .cams, .scn, .mkm, .cmp, .stc, .links]
  | .resetPort _ => [.ltb, .scn, .mkm, .ovm, .stc, .fst]
  | .claim _ | .release _ | .edit _ | .discard _ | .commit _ | .seize _ | .force _ => [.ltb]
  | .setPeriod _ | .setCommitLine _ | .setStrobe _ | .setGenlock _ | .resync _ | .dsync => [.ftb]
  | .frameStart _ _ | .cameraLine _ _ | .frameEnd _ | .powerOffExpiry _ | .cameraRestart _ => [.cams]
  | .inputRawChange _ _ | .debounceExpiry _ | .speedAgeExpiry | .setInput _ | .speed _ | .setSpeedBands _
  | .setVirtual _ => [.scn]
  | .mark _ | .unmark _ | .clearMarks _ | .setNear _ => [.scn, .mkm]
  | .verificationEnd _ | .receiveTimeout | .alloc _ | .free _ | .openLoad _ | .loadData _ | .abortLoad _
  | .eccClear _ => [.ovm]
  | .setPalette _ => [.cmp]
  | .run _ | .quiet _ => [.stc]
  | .storeEnd _ | .storeTimerExpiry | .storeFitting _ => [.fst]
  | .bootStart => [.pins]
  | .transactionStart _ | .transactionEnd _ _ | .unknownKind _ | .identify _ | .subscribe _ | .readLayer _
  | .readSignals _ | .readMarkers _ | .readRegions _ | .cameraStatus _ => []

/-- The start of the timebase leaves the Fitting Store and the Marker Map. -/
theorem State.startRun_within (s : State) (out : Surroundings) :
    State.Within [.ltb, .ftb, .cams, .scn, .ovm, .cmp, .stc, .links, .pins] s (s.startRun out) := by
  obtain ⟨-, -, mkm, fst, -⟩ := s.startRun_keeps out
  intro b hb
  cases b
  case mkm => exact mkm
  case fst => exact fst
  all_goals simp at hb

theorem State.wakeUp_within {bs : List Block} {s u : State} (meets : Waking)
    (hbs : bs = [.ltb, .ftb, .cams, .scn, .ovm, .cmp, .stc, .links, .pins]) (h : State.Within bs s u) :
    State.Within bs s (u.wakeUp meets) := by
  subst hbs
  obtain ⟨c, e, -⟩ := State.inputEvents_only meets.inputs ((u.setScn u.scn.wake).moveTo .run)
  rw [State.wakeUp, e]
  refine State.Within.trans ?_ (State.startRun_within _ _)
  simpa using h

theorem State.enterDormant_within (s : State) :
    State.Within [.ftb, .cams, .scn, .mkm, .cmp, .stc, .links] s s.enterDormant := by
  intro b hb
  cases b
  case ltb | ovm | fst | pins => simp [Block.Same, State.enterDormant, State.setMarkers]
  all_goals simp at hb

theorem State.resetBlocks_within (s : State) (p : Port) :
    State.Within [.ltb, .scn, .mkm, .ovm, .stc, .fst] s (s.resetBlocks p) := by
  unfold State.resetBlocks
  dsimp only
  split <;> simp

/-- A command changes the blocks of its footprint alone. -/
theorem exec_within (c : Instr) (s : State) : State.AnswersWithin (Instr.footprint c) s (exec c s) := by
  cases c with
  | deviceReset | bootEnd => exact fun _ _ b hb => absurd (Block.mem_all b) hb
  | lineEnd out o =>
    simp only [exec, execLineEnd]
    split
    · exact State.answersWithin_next (.refl _ _)
    · refine State.answersWithin_next fun b hb => ?_
      cases b
      case fst => simp [Block.Same]
      all_goals simp [Instr.footprint] at hb
  | wakeIn meets =>
    simp only [exec, execWakeIn]
    split
    · exact State.answersWithin_next (by simpa using State.wakeUp_within (bs := Instr.footprint _) meets rfl (.refl _ _))
    · exact State.answersWithin_next (.refl _ _)
  | wake p meets replyFirst =>
    simp only [exec, execWake]
    refine serve_answersWithin s p fun r => ?_
    split_ifs
    · exact State.answersWithin_next (by simp)
    · exact State.answersWithin_next (by simpa using State.wakeUp_within (bs := Instr.footprint _) meets rfl (by simp))
    · exact State.answersWithin_next (by simpa using State.wakeUp_within (bs := Instr.footprint _) meets rfl (by simp))
  | dormant p replyFirst =>
    simp only [exec, execDormant]
    refine serve_answersWithin s p fun r => ?_
    split_ifs
    · exact State.answersWithin_next (by simp)
    · exact State.answersWithin_next (by simp)
    · refine State.answersWithin_next ?_
      rw [State.within_answerAndAnnounce]
      exact State.Within.trans (t := s.taken p) (by simp) (State.enterDormant_within _)
  | resetPort p =>
    simp only [exec, execResetPort]
    refine serve_answersWithin s p fun r => State.answersWithin_next ?_
    rw [State.within_done]
    exact State.Within.trans (by simp) (State.resetBlocks_within _ p)
  | claim p | seize p | release p | edit p | force p =>
    simp only [exec, execClaim, execSeize, execRelease, execEdit, execForce]
    refine serve_answersWithin s p fun r => onSlot_answersWithin s p r (by simp) fun i => ?_
    simp only [claimSlot, seizeSlot, releaseSlot, editSlot, forceSlot]
    repeat' split
    all_goals simp [Instr.footprint]
  | readLayer p =>
    simp only [exec, execReadLayer]
    exact serve_answersWithin s p fun r => onSlot_answersWithin s p r (by simp) fun i => by simp
  | free p =>
    simp only [exec, execFree, freeRegion]
    refine serve_answersWithin s p fun r => ?_
    repeat' split
    all_goals exact State.answersWithin_next (by simp [Instr.footprint])
  | openLoad p =>
    simp only [exec, execOpenLoad]
    refine serve_answersWithin s p fun r => ?_
    split
    · exact State.answersWithin_next (by simp)
    · exact State.answersWithin_next (State.within_openLoadRegion s p r (by simp [Instr.footprint]) _ (by simp))
  | loadData p =>
    simp only [exec, execLoadData]
    refine serve_answersWithin s p fun r => ?_
    repeat' split
    iterate 6 exact State.answersWithin_next (by simp [Instr.footprint])
    · rintro _ ⟨⟩
    all_goals exact State.answersWithin_next (by simp [Instr.footprint])
  | identify p | readSignals p | readMarkers p | readRegions p | cameraStatus p | eccClear p | clearMarks p | resync p
  | subscribe p | discard p | commit p | alloc p | setInput p | speed p | setSpeedBands p | setVirtual p | unmark p
  | setPalette p | run p | quiet p | storeFitting p | abortLoad p | mark p | setNear p | setPeriod p
  | setCommitLine p | setStrobe p | setGenlock p | cameraRestart p =>
    simp only [exec, acceptTimebase, execIdentify, execReadSignals, execReadMarkers, execReadRegions,
      execCameraStatus, execEccClear, execClearMarks, execResync, execSubscribe, execDiscard,
      execCommit, execAlloc, execSetInput, execSpeed, execSetSpeedBands, execSetVirtual, execUnmark,
      execSetPalette, execRun, execQuiet, execStoreFitting, execAbortLoad, execMark, execSetNear,
      execSetPeriod, execSetCommitLine, execSetStrobe, execSetGenlock, execCameraRestart]
    refine serve_answersWithin s p fun r => ?_
    repeat' split
    all_goals exact State.answersWithin_next (by simp [Instr.footprint])
  | inputRawChange n level =>
    exact State.answersWithin_next ((State.within_inputEvent s (by simp [Instr.footprint]) (.rawChange n level)).mpr (.refl _ _))
  | debounceExpiry n =>
    exact State.answersWithin_next ((State.within_inputEvent s (by simp [Instr.footprint]) (.debounceExpiry n)).mpr (.refl _ _))
  | speedAgeExpiry => exact State.answersWithin_next (by simp [Instr.footprint])
  | verificationEnd us => exact State.answersWithin_next (by simp [Instr.footprint])
  | receiveTimeout => exact State.answersWithin_next (by simp [Instr.footprint])
  | powerOffExpiry k => exact State.answersWithin_next (by simp [Instr.footprint])
  | storeTimerExpiry => exact State.answersWithin_next (by simp [Instr.footprint])
  | bootStart => exact State.answersWithin_next (by simp [Instr.footprint])
  | transactionStart | transactionEnd | unknownKind | storeEnd | dsync | frameStart | cameraLine | frameEnd =>
    simp only [exec, execTransactionStart, execTransactionEnd, execUnknownKind, execStoreEnd, execDsync, execFrameStart,
      execCameraLine, execFrameEnd]
    repeat' split
    all_goals exact State.answersWithin_next (by simp [Instr.footprint])

end Sys2Proof.Machine

/-! The bytes of Overlay Memory over one command (R121, R137): only LOAD_DATA and a device reset change what is read, as
the write-back of a corrected word writes what was read. With it, the blocks by their commands. -/

namespace Sys2Proof.Machine

/-! ## The same bytes -/

/-- With `o` in its canonical form, so is `u`, and every byte of `u` reads as in `o`. -/
def Overlay.SameBytes (o u : Overlay) : Prop :=
  o.memory.wf = true → u.memory.wf = true ∧ ∀ a, u.byteAt a = o.byteAt a

theorem Overlay.SameBytes.refl (o : Overlay) : o.SameBytes o := fun h => ⟨h, fun _ => rfl⟩

theorem Overlay.SameBytes.trans {o u v : Overlay} (h : o.SameBytes u) (k : u.SameBytes v) : o.SameBytes v := by
  intro ho
  obtain ⟨hu, bu⟩ := h ho
  obtain ⟨hv, bv⟩ := k hu
  exact ⟨hv, fun a => (bv a).trans (bu a)⟩

theorem Overlay.SameBytes.of_eq {o u : Overlay} (h : u = o) : o.SameBytes u := h ▸ .refl o

/-- What is read depends on the written bytes and on the count of device resets alone. -/
theorem Overlay.SameBytes.of_memory {o u : Overlay} (memory : u.memory = o.memory) (epoch : u.epoch = o.epoch) :
    o.SameBytes u := by
  intro h
  refine ⟨memory ▸ h, fun a => ?_⟩
  rw [Overlay.byteAt, Overlay.byteAt, memory, epoch]

theorem Overlay.SameBytes.suffer (o : Overlay) (us : List Upset) : o.SameBytes (o.suffer us) := by
  obtain ⟨-, -, -, epoch⟩ := Overlay.suffer_keeps us o
  exact .of_memory (o.suffer_memory us) epoch

/-- The write-back of a corrected word writes what was read (R137). -/
theorem Overlay.SameBytes.correct {o : Overlay} {w : Nat} (h : o.readCheck w = .single) : o.SameBytes (o.correct w) :=
  fun ho => ⟨o.correct_wf ho w (Overlay.readCheck_lt (by rw [h]; nofun)), o.byteAt_correct ho w⟩

theorem Overlay.SameBytes.readWords (base : Nat) : ∀ (ws : List Nat) (o : Overlay),
    o.SameBytes (o.readWords base ws).1
  | [], o => .refl o
  | w :: ws, o => by
    unfold Overlay.readWords
    split
    · exact .readWords base ws o
    · exact .trans (.correct ‹_›) (.readWords base ws (o.correct (base / 8 + w)))
    · exact .refl o

theorem Overlay.SameBytes.verifyWords : ∀ (ws : List Nat) (o : Overlay), o.SameBytes (o.verifyWords ws).1
  | [], o => .refl o
  | w :: ws, o => by
    unfold Overlay.verifyWords
    split
    · exact .verifyWords ws o
    · exact .trans (.correct ‹_›) (.verifyWords ws (o.correct w))
    · exact .verifyWords ws o

/-! ## The operations on the state -/

/-- Every byte reads in `t` as in `s`. -/
def State.SameBytes (s t : State) : Prop := s.ovm.SameBytes t.ovm

theorem State.SameBytes.trans {s t u : State} (h : s.SameBytes t) (k : t.SameBytes u) : s.SameBytes u :=
  Overlay.SameBytes.trans h k

theorem State.SameBytes.of_ovm {s t : State} (h : t.ovm = s.ovm) : s.SameBytes t := Overlay.SameBytes.of_eq h

theorem State.SameBytes.refl (s : State) : s.SameBytes s := .of_ovm rfl

theorem State.SameBytes.of_memory {s t : State} (memory : t.ovm.memory = s.ovm.memory)
    (epoch : t.ovm.epoch = s.ovm.epoch) : s.SameBytes t := Overlay.SameBytes.of_memory memory epoch

theorem State.SameBytes.setOvm {s : State} {o : Overlay} (h : s.ovm.SameBytes o) : s.SameBytes (s.setOvm o) := h

section Operations

variable (s : State) (p : Port)

theorem State.endJob_sameBytes (j : Job) (c : RegionContent) : s.SameBytes (s.endJob p j c) := by
  obtain ⟨o, x, e, -, memory, -, epoch, -⟩ := s.endJob_shape p j c
  rw [e]
  exact .of_memory memory epoch

theorem State.admitJob_sameBytes (j : Job) : s.SameBytes (s.admitJob p j).1 := by
  obtain ⟨st, -, h⟩ | ⟨-, -, h⟩ | ⟨q, k, -, -, -, -, -, h⟩ := s.admitJob_cases p j <;> rw [h] <;>
    exact .of_memory rfl rfl

theorem State.openLoadRegion_sameBytes (r : Request) (g : Fin 16) : s.SameBytes (openLoadRegion p r s g) := by
  unfold openLoadRegion
  dsimp only
  repeat' split
  iterate 5 exact .of_memory rfl rfl
  exact .trans (t := s.setOvm (s.ovm.setContent g .loading)) (.of_memory rfl rfl) (State.admitJob_sameBytes _ p _)

theorem State.freeRegion_sameBytes (r : Request) (g : Fin 16) : s.SameBytes (freeRegion p r s g) := by
  unfold freeRegion
  repeat' split
  all_goals exact .of_memory rfl rfl

theorem State.receiveTimeout_sameBytes : s.SameBytes s.receiveTimeout := by
  unfold State.receiveTimeout
  split
  · exact .refl _
  · exact .trans (t := s.raiseTo _ .loadTimeout _ 0) (.of_ovm rfl) (State.endJob_sameBytes _ _ _ _)

theorem State.finishVerification_sameBytes (j : Job) (tag : Tag) (us : List Upset) :
    s.SameBytes (s.finishVerification p j tag us) := by
  unfold State.finishVerification
  dsimp only
  generalize jobWords (s.ovm.jobBase j) j.length = ws
  have read : s.SameBytes (s.setOvm ((s.ovm.suffer us).verifyWords ws).1) :=
    .setOvm (.trans (.suffer s.ovm us) (.verifyWords ws _))
  refine read.trans ?_
  split
  · exact .trans (.of_ovm (State.post_ovm _ _ _)) (State.endJob_sameBytes _ p _ _)
  · exact State.endJob_sameBytes _ p _ _

theorem State.verificationEnd_sameBytes (us : List Upset) : s.SameBytes (s.verificationEnd us) := by
  unfold State.verificationEnd
  split
  · exact .refl s
  · split
    · exact s.finishVerification_sameBytes _ _ _ us
    · exact .refl s
    · exact .refl s

theorem State.resetJob_sameBytes : s.SameBytes (s.resetJob p) := by
  unfold State.resetJob
  repeat' split
  · exact .refl _
  · exact .of_memory rfl rfl
  · exact s.endJob_sameBytes p _ _

theorem State.resetBlocks_sameBytes : s.SameBytes (s.resetBlocks p) := by
  unfold State.resetBlocks
  dsimp only
  refine .trans (.of_ovm ?_) (State.resetJob_sameBytes _ p)
  rw [State.setFst_ovm, State.setStc_ovm]
  split <;> simp [State.setMarkers]

/-! A line and a start of the timebase (R51, R152). -/

theorem State.readBitmap_sameBytes (y : Nat) (e : PlanEntry) (b : BitmapPart) :
    s.SameBytes (s.readBitmap y e b).1 := by
  unfold State.readBitmap
  dsimp only
  split
  · exact .refl s
  · split
    · exact .of_ovm rfl
    · rename_i g _
      split
      · exact .of_ovm rfl
      · have read := Overlay.SameBytes.readWords g.base
          (lineWords ((y - e.record.destY) * b.width) (min e.record.destW b.width)) s.ovm
        split
        · rename_i o h
          rw [h] at read
          exact .setOvm read
        · rename_i o w h
          rw [h] at read
          exact .trans (t := s.setOvm o) (.setOvm read) (.of_memory rfl rfl)

theorem State.readEntry_sameBytes (y : Nat) (e : PlanEntry) : s.SameBytes (s.readEntry y e).1 := by
  unfold State.readEntry
  split
  · exact s.readBitmap_sameBytes y e _
  all_goals exact .refl s

theorem State.readEntries_sameBytes (y : Nat) : ∀ (es : List PlanEntry) (s : State),
    s.SameBytes (s.readEntries y es).1
  | [], s => .refl s
  | e :: es, s => (s.readEntry_sameBytes y e).trans (State.readEntries_sameBytes y es (s.readEntry y e).1)

theorem State.drawLine_sameBytes (y : Nat) : s.SameBytes (s.drawLine y) := by
  unfold State.drawLine
  split
  · rename_i plan _ _
    exact .trans (State.readEntries_sameBytes y plan.entries s) (.of_ovm rfl)
  all_goals exact .of_ovm rfl

theorem State.canvasLine_sameBytes : s.SameBytes s.canvasLine := by
  unfold State.canvasLine
  dsimp only
  have drawn : s.SameBytes (if s.ftb.line < 720 then s.drawLine s.ftb.line else s) := by
    split
    · exact s.drawLine_sameBytes _
    · exact .refl s
  split
  · exact drawn.trans (.of_ovm (State.sendMetadata_ovm _ _))
  · exact drawn

/-- Of a counter value's events, drawing a line alone reads Overlay Memory (R51, R152). -/
theorem State.lineEvents_sameBytes (a b : Bool) (o : LineOrder) : s.SameBytes (s.lineEvents a b o) := by
  unfold State.lineEvents
  dsimp only
  have top : s.SameBytes (if s.ftb.line = 0 then s.fireTop a b else s) := by
    split
    · exact .of_ovm (s.fireTop_ovm a b)
    · exact .refl s
  have drawn := top.trans (State.canvasLine_sameBytes _)
  split
  · exact drawn.trans (.of_ovm (by rw [State.blankAndCommit_ovm, State.strobe_ovm]))
  · exact drawn.trans (.of_ovm (by rw [State.strobe_ovm, State.blankAndCommit_ovm]))

theorem State.startRun_sameBytes (out : Surroundings) : s.SameBytes (s.startRun out) := by
  rw [State.startRun_eq]
  refine .trans (t := s.readyToRun out) ?_ (State.lineEvents_sameBytes _ _ _ _)
  rw [State.SameBytes, State.readyToRun_ovm]
  exact .suffer _ _

theorem State.wakeUp_sameBytes (meets : Waking) : s.SameBytes (s.wakeUp meets) := by
  obtain ⟨c, e, -⟩ := State.inputEvents_only meets.inputs ((s.setScn s.scn.wake).moveTo .run)
  rw [State.wakeUp, e]
  refine .trans (.of_ovm ?_) (State.startRun_sameBytes _ meets.out)
  rw [State.setScn_ovm, State.moveTo_ovm, State.setScn_ovm]

theorem State.endBoot_sameBytes (out : Surroundings) : s.SameBytes (s.endBoot out) := by
  have settled : s.settleFitting.ovm = s.ovm := congrArg EngineView.ovm s.settleFitting_engine
  unfold State.endBoot
  dsimp only
  refine .trans (.trans (.of_ovm ?_) (State.startRun_sameBytes _ out)) (.of_ovm (State.announce_ovm _ _))
  rw [State.setScn_ovm, settled]

end Operations

/-! ## Every command -/

theorem serve_sameBytes {s : State} {p : Port} {kind : RequestKind} {block : Request → State → Outcome}
    (h : ∀ r, NextState (s.taken p).SameBytes (block r (s.taken p))) : NextState s.SameBytes (serve kind p s block) :=
  serve_nextState (.refl s) (fun _ _ _ => .of_ovm rfl) fun r _ t ht => .trans (t := s.taken p) (.of_ovm rfl) (h r t ht)

theorem nextState_sameBytes_of_ovm {s t : State} (h : t.ovm = s.ovm) : NextState s.SameBytes (.next t) :=
  nextState_next (.of_ovm h)

/-- A command that can change Overlay Memory's block, LOAD_DATA and a device reset apart, changes no byte. -/
theorem exec_sameBytes_of_ovm {c : Instr} (hovm : Block.ovm ∈ Instr.footprint c) (load : ∀ p, c ≠ .loadData p)
    (reset : ∀ x, c ≠ .deviceReset x) (s : State) : NextState s.SameBytes (exec c s) := by
  cases c with
  | loadData p => exact absurd rfl (load p)
  | deviceReset x => exact absurd rfl (reset x)
  | bootEnd out =>
    simp only [exec, execBootEnd]
    split
    · exact nextState_next (s.endBoot_sameBytes out)
    · exact nextState_next (.refl s)
  | lineEnd out o =>
    simp only [exec, execLineEnd]
    split
    · exact nextState_next (.refl s)
    · refine nextState_next (.trans ?_ (State.lineEvents_sameBytes _ _ _ _))
      exact .trans (t := s.openStep out.upsets) (.setOvm (.suffer s.ovm out.upsets)) (.of_ovm (State.setFtb_ovm _ _))
  | wakeIn meets =>
    simp only [exec, execWakeIn]
    split
    · exact nextState_next (.trans (s.wakeUp_sameBytes meets) (.of_ovm (State.announce_ovm _ _)))
    · exact nextState_next (.refl s)
  | wake p meets replyFirst =>
    simp only [exec, execWake]
    refine serve_sameBytes fun r => ?_
    split_ifs
    · exact nextState_sameBytes_of_ovm rfl
    · exact nextState_next (.trans (.trans (.of_ovm (State.answer_ovm _ _ _ _ _ _)) (State.wakeUp_sameBytes _ meets))
        (.of_ovm (State.announce_ovm _ _)))
    · exact nextState_next (.trans (.trans (State.wakeUp_sameBytes _ meets) (.of_ovm (State.announce_ovm _ _)))
        (.of_ovm (State.answer_ovm _ _ _ _ _ _)))
  | verificationEnd us => exact nextState_next (s.verificationEnd_sameBytes us)
  | receiveTimeout => exact nextState_next s.receiveTimeout_sameBytes
  | resetPort p =>
    simp only [exec, execResetPort]
    refine serve_sameBytes fun r => nextState_next ?_
    exact .trans (.trans (.of_ovm (State.modPort_ovm _ _ _)) (State.resetBlocks_sameBytes _ p)) (.of_ovm rfl)
  | alloc p =>
    simp only [exec, execAlloc]
    refine serve_sameBytes fun r => ?_
    repeat' split
    all_goals exact nextState_next (.of_memory rfl rfl)
  | free p =>
    simp only [exec, execFree]
    refine serve_sameBytes fun r => ?_
    split
    · exact nextState_sameBytes_of_ovm rfl
    · exact nextState_next (State.freeRegion_sameBytes _ p r _)
  | openLoad p =>
    simp only [exec, execOpenLoad]
    refine serve_sameBytes fun r => ?_
    split
    · exact nextState_sameBytes_of_ovm rfl
    · exact nextState_next (State.openLoadRegion_sameBytes _ p r _)
  | abortLoad p =>
    simp only [exec, execAbortLoad]
    refine serve_sameBytes fun r => ?_
    split
    · exact nextState_sameBytes_of_ovm rfl
    · split_ifs
      · exact nextState_sameBytes_of_ovm rfl
      · exact nextState_next (.trans (State.endJob_sameBytes _ p _ _) (.of_ovm rfl))
  | eccClear p =>
    simp only [exec, execEccClear]
    exact serve_sameBytes fun r => nextState_next (.of_memory rfl rfl)
  | _ => simp [Instr.footprint] at hovm

/-- Every command but LOAD_DATA and a device reset leaves every byte of Overlay Memory (R121, R131, R137). -/
theorem exec_sameBytes {c : Instr} (load : ∀ p, c ≠ .loadData p) (reset : ∀ x, c ≠ .deviceReset x) (s : State) :
    NextState s.SameBytes (exec c s) := by
  by_cases hovm : Block.ovm ∈ Instr.footprint c
  · exact exec_sameBytes_of_ovm hovm load reset s
  · exact fun t ht => .of_ovm (exec_within c s t ht .ovm hovm)

/-! ## The Layer Table at a wake (R50, R51) -/

theorem State.startRun_ltb {s : State} (out : Surroundings) (h : s.ftb.commitLine ≠ 0) :
    (s.startRun out).ltb = s.ltb := by
  obtain ⟨-, -, -, -, -, -, -, -, -, -, kept⟩ := s.startRun_keeps out
  exact (kept h).1

theorem State.wakeUp_ltb {s : State} (meets : Waking) (h : s.ftb.commitLine ≠ 0) : (s.wakeUp meets).ltb = s.ltb := by
  obtain ⟨c, e, -⟩ := State.inputEvents_only meets.inputs ((s.setScn s.scn.wake).moveTo .run)
  rw [State.wakeUp, e, State.startRun_ltb]
  · rfl
  · exact h

theorem exec_wake_ltb (p : Port) (meets : Waking) (replyFirst : Bool) {s : State} (h : s.ftb.commitLine ≠ 0) :
    NextState (fun t => t.ltb = s.ltb) (exec (.wake p meets replyFirst) s) := by
  simp only [exec, execWake]
  refine serve_nextState rfl (fun _ _ _ => rfl) fun r _ => ?_
  split_ifs
  · exact nextState_next rfl
  · refine nextState_next ?_
    rw [State.announce_ltb]
    exact State.wakeUp_ltb (s := (s.taken p).done p r []) meets h
  · refine nextState_next ?_
    rw [State.done, State.answer_ltb, State.announce_ltb]
    exact State.wakeUp_ltb (s := s.taken p) meets h

theorem exec_wakeIn_ltb (meets : Waking) {s : State} (h : s.ftb.commitLine ≠ 0) :
    NextState (fun t => t.ltb = s.ltb) (exec (.wakeIn meets) s) := by
  simp only [exec, execWakeIn]
  split
  · refine nextState_next ?_
    rw [State.announce_ltb]
    exact State.wakeUp_ltb meets h
  · exact nextState_next rfl

/-- Settles O3: a block that differs is in the command's footprint (`exec_within`), and each block stands in the
footprints of its own commands alone; a wake commits nothing (`State.wakeUp_ltb`), and `exec_sameBytes` has the bytes. -/
theorem blocksChangeOnlyByTheirCommands : Obligations.BlocksChangeOnlyByTheirCommands := by
  intro c s t h
  have changed : ∀ b : Block, ¬ b.Same s t → b ∈ Instr.footprint c :=
    fun b hb => by_contra fun out => hb (exec_within c s t h b out)
  refine ⟨fun inside hne => ?table, (?_ : Block.ftb ∈ _ → _) ∘ changed .ftb, (?_ : Block.cams ∈ _ → _) ∘ changed .cams,
    (?_ : Block.scn ∈ _ → _) ∘ changed .scn, (?_ : Block.mkm ∈ _ → _) ∘ changed .mkm,
    (?_ : Block.ovm ∈ _ → _) ∘ changed .ovm, (?_ : Block.cmp ∈ _ → _) ∘ changed .cmp,
    (?_ : Block.stc ∈ _ → _) ∘ changed .stc, (?_ : Block.fst ∈ _ → _) ∘ changed .fst,
    (?_ : Block.links ∈ _ → _) ∘ changed .links, (?_ : Block.pins ∈ _ → _) ∘ changed .pins,
    fun good load reset => (exec_sameBytes load reset s t h good).2⟩
  case table =>
    have mem := changed .ltb hne
    cases c
    case wake => exact absurd (exec_wake_ltb _ _ _ (by omega) t h) hne
    case wakeIn => exact absurd (exec_wakeIn_ltb _ (by omega) t h) hne
    all_goals simp [Instr.footprint, requestOf] at mem ⊢
  all_goals
    clear h changed
    cases c <;> simp [Instr.footprint, requestOf]

end Sys2Proof.Machine

/-! The Layer Table over one step (R2, R14, R29, R44): every way a command moves it, and that each keeps the stacking,
the unowned slots, the pending sets and SAFETY content where they belong. -/

namespace Sys2Proof.Machine

/-! ## The changes of the table -/

/-- The table with slot `i` written. -/
def LayerTable.put (t : LayerTable) (i : Fin 24) (x : LayerSlot) : LayerTable := { t with slots := t.slots.set i x }

theorem LayerTable.put_slot (t : LayerTable) (i j : Fin 24) (x : LayerSlot) :
    (t.put i x).slots[j] = if j = i then x else t.slots[j] := vectorSet_get t.slots i j x

theorem LayerTable.install_slot (t : LayerTable) (f : FittedRecord) (i : Fin 24) : (t.install f).slots[i] =
    match f.layerAt i with
    | some r => ⟨.fitted, .clean, r, r, .none⟩
    | none => t.slots[i] := ofFn_get _ i

/-- One change that a command makes to the Layer Table of a part in state `part`, device reset and the end of BOOT
apart: CLAIM, SEIZE, the freeing of a slot, EDIT, DISCARD, COMMIT, FORCE, RESET_PORT, and the resolution of a set. -/
inductive LayerTable.Act (part : PartState) : LayerTable → LayerTable → Prop
  | claimFree (t : LayerTable) (p : Port) (i : Fin 24) (begun : part ≠ .boot) (free : t.slots[i].owner = .none) :
      Act part t (t.put i { LayerSlot.unowned with owner := .port p })
  | claimFitted (t : LayerTable) (p : Port) (i : Fin 24) (begun : part ≠ .boot) (fitted : t.slots[i].owner = .fitted)
      (rank : p = .body ∨ ¬ t.slots[i].holdsSafety = true) : Act part t (t.put i (t.slots[i].grant p))
  | seize (t : LayerTable) (i : Fin 24) (begun : part ≠ .boot) :
      Act part t ((t.leaveSet t.slots[i].owner i).put i (t.slots[i].grant .body))
  | free (t : LayerTable) (i : Fin 24) : Act part t ((t.leaveSet t.slots[i].owner i).put i LayerSlot.unowned)
  | edit (t : LayerTable) (p : Port) (i : Fin 24) (w : LayerRecord) (own : t.slots[i].owner = .port p)
      (settled : t.slots[i].status ≠ .pending)
      (rank : p = .body ∨ (w.cls = .safety → t.slots[i].staged.cls = .safety)) :
      Act part t (t.put i { t.slots[i] with staged := w, status := .edited })
  | discard (t : LayerTable) (p : Port) : Act part t (t.discard p)
  | openSet (t : LayerTable) (p : Port) (tag : Tag) (none : t.sets.get p = none) : Act part t (t.openSet p tag)
  | force (t : LayerTable) (i : Fin 24) (f : Force) (owned : t.slots[i].owner ≠ .none) :
      Act part t (t.put i { t.slots[i] with force := f })
  | portReset (t : LayerTable) (p : Port) : Act part t (t.portReset p)
  | applySet (t : LayerTable) (p : Port) (x : PendingSet) (present : Vector Bool 4)
      (regions : Vector (Option Region) 16) (hx : t.sets.get p = some x)
      (pass : setFailure present regions (t.candidates x.members) x.members = none) :
      Act part t (t.applySet p x.members)
  | refuseSet (t : LayerTable) (p : Port) (x : PendingSet) (hx : t.sets.get p = some x) :
      Act part t (t.refuseSet p x.members)

/-- What a command can do to the table: such changes, one after the other. -/
abbrev LayerTable.Moves (part : PartState) : LayerTable → LayerTable → Prop := Relation.ReflTransGen (LayerTable.Act part)

/-- A predicate that every single change keeps is kept by all of them. -/
theorem LayerTable.Moves.keeps {part : PartState} {P : LayerTable → Prop}
    (act : ∀ {t u : LayerTable}, LayerTable.Act part t u → P t → P u) {t u : LayerTable}
    (h : LayerTable.Moves part t u) (ht : P t) : P u := by
  induction h with
  | refl => exact ht
  | tail _ last ih => exact act last ih

/-! ## The stacking (R44) -/

/-- The stacking of a candidate table: distinct heights, SAFETY above ORDINARY, at most 8 of SAFETY (R44). -/
def Stacked (table : Vector Candidate 24) : Prop :=
  (∀ i j : Fin 24, i ≠ j → table[i].counts = true → table[j].counts = true → table[i].record.z ≠ table[j].record.z)
  ∧ (∀ i j : Fin 24, table[i].counts = true → table[j].counts = true → table[i].record.cls = .safety →
    table[j].record.cls = .ordinary → table[j].record.z < table[i].record.z)
  ∧ safetyCount table ≤ 8

/-- The table as the checks see it without a set. -/
theorem LayerTable.candidates_nil (t : LayerTable) (i : Fin 24) :
    (t.candidates [])[i] = ⟨t.slots[i].owner, t.slots[i].active⟩ := by
  rw [LayerTable.candidates_get, if_neg List.not_mem_nil]

theorem LayerTable.counts_iff_shows (t : LayerTable) (i : Fin 24) :
    (t.candidates [])[i].counts = true ↔ t.slots[i].Shows := by
  rw [Candidate.counts_iff, LayerTable.candidates_nil]

/-- How many candidates are counted as SAFETY. -/
theorem safetyCount_eq (table : Vector Candidate 24) : safetyCount table = ((List.finRange 24).filter (fun i =>
    table[i].counts && decide (table[i].record.cls = .safety))).length :=
  length_filter_toList table _

theorem LayerTable.safetyLayers_eq (t : LayerTable) : t.safetyLayers = safetyCount (t.candidates []) := by
  simp only [safetyCount_eq, LayerTable.safetyLayers, LayerTable.candidates_nil, Candidate.counts]

theorem LayerTable.stackGood_iff (t : LayerTable) : t.StackGood ↔ Stacked (t.candidates []) := by
  simp only [Stacked, LayerTable.counts_iff_shows, ← LayerTable.safetyLayers_eq]
  simp only [LayerTable.candidates_nil]

/-- Fewer counted SAFETY candidates. -/
theorem safetyCount_le_of_imp {table other : Vector Candidate 24}
    (h : ∀ i : Fin 24, other[i].counts = true → other[i].record.cls = .safety →
      table[i].counts = true ∧ table[i].record.cls = .safety) : safetyCount other ≤ safetyCount table := by
  rw [safetyCount_eq, safetyCount_eq, ← List.countP_eq_length_filter, ← List.countP_eq_length_filter]
  refine List.countP_mono_left fun i _ hi => ?_
  simp only [Bool.and_eq_true, decide_eq_true_eq] at hi ⊢
  exact h i hi.1 hi.2

/-- A table whose counted candidates are counted candidates of a stacked one is stacked. -/
theorem Stacked.of_imp {table other : Vector Candidate 24} (stacked : Stacked table)
    (h : ∀ i : Fin 24, other[i].counts = true → table[i].counts = true ∧ other[i].record = table[i].record) :
    Stacked other := by
  obtain ⟨heights, order, count⟩ := stacked
  refine ⟨fun i j ne hi hj => ?_, fun i j hi hj safety ordinary => ?_, ?_⟩
  · rw [(h i hi).2, (h j hj).2]
    exact heights i j ne (h i hi).1 (h j hj).1
  · rw [(h i hi).2] at safety ⊢
    rw [(h j hj).2] at ordinary ⊢
    exact order i j (h i hi).1 (h j hj).1 safety ordinary
  · exact (safetyCount_le_of_imp fun i hi safety => ⟨(h i hi).1, (h i hi).2 ▸ safety⟩).trans count

/-- A table with no new layer that shows keeps its stacking. -/
theorem LayerTable.StackGood.of_shows {t u : LayerTable} (stack : t.StackGood)
    (h : ∀ i : Fin 24, u.slots[i].Shows → t.slots[i].Shows ∧ u.slots[i].active = t.slots[i].active) : u.StackGood := by
  rw [LayerTable.stackGood_iff] at stack ⊢
  refine stack.of_imp fun i hi => ?_
  rw [LayerTable.counts_iff_shows] at hi ⊢
  rw [LayerTable.candidates_nil, LayerTable.candidates_nil]
  exact h i hi

section Passes

variable {present : Vector Bool 4} {regions : Vector (Option Region) 16} {table : Vector Candidate 24}

/-- What an enabled member that fails no check says of the table (R44). -/
theorem member_passes {ms : List (Fin 24)} (pass : setFailure present regions table ms = none) {i : Fin 24}
    (mem : i ∈ ms) (enabled : table[i].record.enabled = true) :
    zTaken table i table[i].record.z = false ∧ zOutOfOrder table table[i].record.cls table[i].record.z = false
    ∧ (table[i].record.cls = .safety → safetyCount table ≤ 8) := by
  have none := (memberFailure_eq_none present regions table i).mp (setFailure_none.mp pass i mem)
  have height := none .zConflict
  have order := none .zOrder
  have count := none .safetyCount
  simp only [recordFails, enabled, Bool.true_and, Bool.not_eq_true, decide_eq_false_iff_not, not_and, Nat.not_lt]
    at height order count
  exact ⟨height, order, count⟩

/-- A set that passes leaves the table stacked, where the layers outside the set were stacked (R38, R44). -/
theorem stacked_of_passes {ms : List (Fin 24)} (pass : setFailure present regions table ms = none)
    {other : Vector Candidate 24} (stacked : Stacked other)
    (outside : ∀ i : Fin 24, i ∉ ms → table[i].counts = true → other[i].counts = true ∧ table[i].record = other[i].record) :
    Stacked table := by
  obtain ⟨heights, order, count⟩ := stacked
  have enabled : ∀ {i : Fin 24}, table[i].counts = true → table[i].record.enabled = true :=
    fun {i} hi => ((Candidate.counts_iff _).mp hi).1
  have apart : ∀ i j : Fin 24, i ∈ ms → i ≠ j → table[i].counts = true → table[j].counts = true →
      table[j].record.z ≠ table[i].record.z := by
    intro i j mem ne hi hj same
    have free := (member_passes pass mem (enabled hi)).1
    rw [← Bool.not_eq_true, zTaken_iff] at free
    exact free ⟨j, ne.symm, hj, same⟩
  refine ⟨fun i j ne hi hj => ?_, fun i j hi hj safety ordinary => ?_, ?_⟩
  · by_cases mi : i ∈ ms
    · exact (apart i j mi ne hi hj).symm
    · by_cases mj : j ∈ ms
      · exact apart j i mj ne.symm hj hi
      · rw [(outside i mi hi).2, (outside j mj hj).2]
        exact heights i j ne (outside i mi hi).1 (outside j mj hj).1
  · by_cases mi : i ∈ ms
    · have ok := (member_passes pass mi (enabled hi)).2.1
      rw [← Bool.not_eq_true, zOutOfOrder_iff] at ok
      by_contra above
      exact ok ⟨j, hj, .inl ⟨safety, ordinary, Nat.not_lt.mp above⟩⟩
    · by_cases mj : j ∈ ms
      · have ok := (member_passes pass mj (enabled hj)).2.1
        rw [← Bool.not_eq_true, zOutOfOrder_iff] at ok
        by_contra above
        exact ok ⟨i, hi, .inr ⟨ordinary, safety, Nat.not_lt.mp above⟩⟩
      · rw [(outside i mi hi).2] at safety ⊢
        rw [(outside j mj hj).2] at ordinary ⊢
        exact order i j (outside i mi hi).1 (outside j mj hj).1 safety ordinary
  · by_cases some_safety : ∃ i ∈ ms, table[i].counts = true ∧ table[i].record.cls = .safety
    · obtain ⟨i, mi, hi, safety⟩ := some_safety
      exact (member_passes pass mi (enabled hi)).2.2 safety
    · refine (safetyCount_le_of_imp fun i hi safety => ?_).trans count
      have mi : i ∉ ms := fun mi => some_safety ⟨i, mi, hi, safety⟩
      exact ⟨(outside i mi hi).1, (outside i mi hi).2 ▸ safety⟩

end Passes

/-! ## The pending sets (R29) -/

theorem PendingSet.remove_of_not_mem {x : PendingSet} {i : Fin 24} (h : i ∉ x.members) : x.remove i = x := by
  have all : x.members.filter (fun m => decide (m ≠ i)) = x.members :=
    List.filter_eq_self.mpr fun m hm => decide_eq_true fun e => h (e ▸ hm)
  rw [PendingSet.remove, all]

section Sets

variable {t u : LayerTable}

/-- A member of a port's set is a slot of that port. -/
theorem LayerTable.SetsGood.owner (sets : t.SetsGood) {p : Port} {x : PendingSet} (hx : t.sets.get p = some x)
    {i : Fin 24} (mem : i ∈ x.members) : t.slots[i].owner = .port p := ((sets.1 p x hx).2 i mem).1

/-- A PENDING slot of a port with a set is a member of it. -/
theorem LayerTable.SetsGood.mem (sets : t.SetsGood) {p : Port} {x : PendingSet} (hx : t.sets.get p = some x)
    {i : Fin 24} (pending : t.slots[i].status = .pending) (own : t.slots[i].owner = .port p) : i ∈ x.members := by
  obtain ⟨q, y, hq, hy, mem⟩ := sets.2 i pending
  obtain rfl : q = p := Owner.port.inj (hq.symm.trans own)
  obtain rfl : y = x := Option.some.inj (hy.symm.trans hx)
  exact mem

/-- A slot leaves its owner's set, and stands in no other. -/
theorem LayerTable.SetsGood.leaveSet_get (sets : t.SetsGood) (i : Fin 24) (q : Port) :
    (t.leaveSet t.slots[i].owner i).sets.get q = (t.sets.get q).map (·.remove i) := by
  have other : t.slots[i].owner ≠ .port q → (t.sets.get q).map (·.remove i) = t.sets.get q := by
    intro ne
    cases hx : t.sets.get q with
    | none => rfl
    | some x => rw [Option.map_some, PendingSet.remove_of_not_mem fun mem => ne (sets.owner hx mem)]
  cases ho : t.slots[i].owner with
  | none | fitted => exact (other (by rw [ho]; nofun)).symm
  | port p =>
    rw [LayerTable.leaveSet]
    by_cases h : q = p
    · subst h
      exact PerPort.get_set_self _ _ _
    · rw [PerPort.get_set_of_ne _ _ _ _ h, other (by rw [ho]; simpa using Ne.symm h)]

/-- A slot that has left its owner's set is written with another status than PENDING. -/
theorem LayerTable.SetsGood.put (sets : t.SetsGood) {i : Fin 24} {x : LayerSlot} (settled : x.status ≠ .pending) :
    ((t.leaveSet t.slots[i].owner i).put i x).SetsGood := by
  have slot : ∀ j : Fin 24, ((t.leaveSet t.slots[i].owner i).put i x).slots[j] = if j = i then x else t.slots[j] :=
    fun j => by rw [LayerTable.put_slot, LayerTable.leaveSet_slots]
  refine ⟨fun p y hy => ?_, fun j pending => ?_⟩
  · obtain ⟨z, hz, rfl⟩ := Option.map_eq_some_iff.mp ((sets.leaveSet_get i p).symm.trans hy)
    obtain ⟨ascending, members⟩ := sets.1 p z hz
    refine ⟨ascending.filter _, fun j mem => ?_⟩
    obtain ⟨mem, ne⟩ := List.mem_filter.mp mem
    rw [slot, if_neg (of_decide_eq_true ne)]
    exact members j mem
  · rw [slot] at pending ⊢
    split_ifs at pending ⊢ with h
    · exact absurd pending settled
    · obtain ⟨p, z, own, hz, mem⟩ := sets.2 j pending
      refine ⟨p, z.remove i, own, ?_, List.mem_filter.mpr ⟨mem, decide_eq_true h⟩⟩
      exact (sets.leaveSet_get i p).trans (by rw [hz, Option.map_some])

/-- The sets do not see a change that leaves every owner and every PENDING slot. -/
theorem LayerTable.SetsGood.congr (sets : t.SetsGood) (same : u.sets = t.sets)
    (slots : ∀ i : Fin 24, u.slots[i].owner = t.slots[i].owner
      ∧ (u.slots[i].status = .pending ↔ t.slots[i].status = .pending)) : u.SetsGood := by
  refine ⟨fun p x hx => ?_, fun i pending => ?_⟩
  · obtain ⟨ascending, members⟩ := sets.1 p x (same ▸ hx)
    refine ⟨ascending, fun i mem => ?_⟩
    rw [(slots i).1, (slots i).2]
    exact members i mem
  · rw [(slots i).1, same]
    exact sets.2 i ((slots i).2.mp pending)

/-- A port's set is gone: no slot of the port is PENDING, and every PENDING slot of another is as it was. -/
theorem LayerTable.SetsGood.drop (sets : t.SetsGood) {p : Port} (dropped : u.sets = t.sets.set p none)
    (kept : ∀ i : Fin 24, t.slots[i].owner ≠ .port p → u.slots[i] = t.slots[i])
    (gone : ∀ i : Fin 24, t.slots[i].owner = .port p → u.slots[i].status ≠ .pending) : u.SetsGood := by
  refine ⟨fun q x hx => ?_, fun i pending => ?_⟩
  · rw [dropped, PerPort.get_set] at hx
    split_ifs at hx with h
    obtain ⟨ascending, members⟩ := sets.1 q x hx
    refine ⟨ascending, fun i mem => ?_⟩
    obtain ⟨own, pending⟩ := members i mem
    rw [kept i (by rw [own]; simpa using h)]
    exact ⟨own, pending⟩
  · have other : t.slots[i].owner ≠ .port p := fun own => gone i own pending
    rw [kept i other] at pending ⊢
    obtain ⟨q, x, own, hx, mem⟩ := sets.2 i pending
    refine ⟨q, x, own, ?_, mem⟩
    rw [dropped, PerPort.get_set_of_ne _ _ _ _ (by rintro rfl; exact other own), hx]

theorem LayerTable.editedSlots_pairwise (t : LayerTable) (p : Port) : (t.editedSlots p).Pairwise (· < ·) :=
  (List.pairwise_lt_finRange 24).filter _

/-- A new set holds the port's EDITED slots, now PENDING (R30). -/
theorem LayerTable.SetsGood.openSet (sets : t.SetsGood) {p : Port} (none : t.sets.get p = none) (tag : Tag) :
    (t.openSet p tag).SetsGood := by
  have slot := t.openSet_slot_mem p tag
  refine ⟨fun q x hx => ?_, fun i pending => ?_⟩
  · rw [LayerTable.openSet_sets, PerPort.get_set] at hx
    split_ifs at hx with h
    · obtain rfl := Option.some.inj hx
      refine ⟨t.editedSlots_pairwise p, fun i mem => ?_⟩
      rw [slot, if_pos mem, h]
      exact ⟨((t.mem_editedSlots p i).mp mem).1, rfl⟩
    · obtain ⟨ascending, members⟩ := sets.1 q x hx
      refine ⟨ascending, fun i mem => ?_⟩
      obtain ⟨own, pending⟩ := members i mem
      rw [slot, if_neg fun edited => h (Owner.port.inj (own.symm.trans ((t.mem_editedSlots p i).mp edited).1))]
      exact ⟨own, pending⟩
  · rw [slot] at pending ⊢
    rw [LayerTable.openSet_sets]
    split_ifs at pending ⊢ with edited
    · exact ⟨p, _, ((t.mem_editedSlots p i).mp edited).1, PerPort.get_set_self _ _ _, edited⟩
    · obtain ⟨q, x, own, hx, mem⟩ := sets.2 i pending
      refine ⟨q, x, own, ?_, mem⟩
      rw [PerPort.get_set_of_ne _ _ _ _ (by rintro rfl; rw [none] at hx; cases hx), hx]

end Sets

/-! ## Every change keeps the relations -/

/-- The Layer Table's relations: R2, R44 and R29. -/
structure LayerTable.Good (t : LayerTable) : Prop where
  unowned : t.UnownedGood
  stack : t.StackGood
  sets : t.SetsGood

theorem LayerTable.put_leaveSet_slot (t : LayerTable) (i j : Fin 24) (o : Owner) (x : LayerSlot) :
    ((t.leaveSet o i).put i x).slots[j] = if j = i then x else t.slots[j] := by
  rw [LayerTable.put_slot, LayerTable.leaveSet_slots]

/-- A slot leaves its owner's set and is written: not PENDING, unowned only as R2 has it, and showing no other layer
than it showed. -/
theorem LayerTable.Good.put {t : LayerTable} (good : t.Good) {i : Fin 24} {x : LayerSlot}
    (settled : x.status ≠ .pending) (unowned : x.owner = .none → x = LayerSlot.unowned)
    (shows_ : x.Shows → t.slots[i].Shows ∧ x.active = t.slots[i].active) :
    ((t.leaveSet t.slots[i].owner i).put i x).Good where
  unowned j hj := by
    rw [LayerTable.put_leaveSet_slot] at hj ⊢
    split_ifs at hj ⊢
    · exact unowned hj
    · exact good.unowned j hj
  stack := good.stack.of_shows fun j hj => by
    rw [LayerTable.put_leaveSet_slot] at hj ⊢
    split_ifs at hj ⊢ with h
    · exact h ▸ shows_ hj
    · exact ⟨hj, rfl⟩
  sets := good.sets.put settled

/-- Every change keeps owners and what shows, and the sets by themselves. -/
theorem LayerTable.Good.of_slots {t u : LayerTable} (good : t.Good) (sets : u.SetsGood)
    (slots : ∀ i : Fin 24, u.slots[i].owner = t.slots[i].owner ∧ u.slots[i].active = t.slots[i].active)
    (unowned : ∀ i : Fin 24, t.slots[i].owner = .none → u.slots[i] = t.slots[i]) : u.Good where
  unowned i hi := by
    have free : t.slots[i].owner = .none := (slots i).1 ▸ hi
    rw [unowned i free]
    exact good.unowned i free
  stack := good.stack.of_shows fun i hi => by
    obtain ⟨owner, active⟩ := slots i
    refine ⟨?_, active⟩
    rwa [LayerSlot.Shows, ← owner, ← active]
  sets := sets

/-- An owned slot is written with the same owner and active content, PENDING when it was. -/
theorem LayerTable.Good.rewrite {t : LayerTable} (good : t.Good) {i : Fin 24} {x : LayerSlot}
    (owned : t.slots[i].owner ≠ .none) (owner : x.owner = t.slots[i].owner) (active : x.active = t.slots[i].active)
    (pending : x.status = .pending ↔ t.slots[i].status = .pending) : (t.put i x).Good := by
  refine good.of_slots (good.sets.congr rfl fun j => ?_) (fun j => ?_) fun j free => ?_
  · rw [LayerTable.put_slot]
    split_ifs with h
    · exact h ▸ ⟨owner, pending⟩
    · exact ⟨rfl, .rfl⟩
  · rw [LayerTable.put_slot]
    split_ifs with h
    · exact h ▸ ⟨owner, active⟩
    · exact ⟨rfl, rfl⟩
  · rw [LayerTable.put_slot, if_neg]
    rintro rfl
    exact owned free

theorem LayerTable.leaveSet_of_not_port (t : LayerTable) {o : Owner} (h : ∀ p, o ≠ .port p) (i : Fin 24) :
    t.leaveSet o i = t := by
  cases o with
  | port p => exact absurd rfl (h p)
  | none | fitted => rfl

/-- An unowned slot shows no layer, so its grant shows none either (R2). -/
theorem LayerTable.Good.grant_shows {t : LayerTable} (good : t.Good) (i : Fin 24) (p : Port)
    (h : (t.slots[i].grant p).Shows) : t.slots[i].Shows ∧ (t.slots[i].grant p).active = t.slots[i].active := by
  refine ⟨⟨h.1, fun free => ?_⟩, rfl⟩
  have enabled : t.slots[i].active.enabled = true := h.1
  rw [good.unowned i free] at enabled
  cases enabled

/-- A slot that is granted leaves its owner's set (R16, R17). -/
theorem LayerTable.Good.grant {t : LayerTable} (good : t.Good) (i : Fin 24) (p : Port) :
    ((t.leaveSet t.slots[i].owner i).put i (t.slots[i].grant p)).Good := by
  refine good.put (fun h => ?_) (fun h => ?_) (good.grant_shows i p)
  · exact Staging.noConfusion (h : Staging.clean = Staging.pending)
  · exact Owner.noConfusion (h : Owner.port p = Owner.none)

theorem LayerTable.Good.claimFitted {t : LayerTable} (good : t.Good) (p : Port) {i : Fin 24}
    (fitted : t.slots[i].owner = .fitted) : (t.put i (t.slots[i].grant p)).Good := by
  have granted := good.grant i p
  rwa [t.leaveSet_of_not_port (fun q h => by rw [fitted] at h; cases h)] at granted

/-- A slot without content shows no layer. -/
theorem LayerSlot.not_shows_unowned (o : Owner) : ¬ LayerSlot.Shows { LayerSlot.unowned with owner := o } :=
  fun shown => Bool.false_ne_true shown.1

theorem LayerSlot.not_shows_of_unowned {x : LayerSlot} (h : x = LayerSlot.unowned) : ¬ x.Shows :=
  h ▸ LayerSlot.not_shows_unowned .none

theorem LayerSlot.shows_of_eq {x y : LayerSlot} (h : y = x) (shown : y.Shows) : x.Shows ∧ y.active = x.active := by
  subst h
  exact ⟨shown, rfl⟩

theorem LayerTable.Good.free {t : LayerTable} (good : t.Good) (i : Fin 24) :
    ((t.leaveSet t.slots[i].owner i).put i LayerSlot.unowned).Good := by
  refine good.put (fun h => ?_) (fun _ => rfl) fun shown => absurd shown (LayerSlot.not_shows_unowned .none)
  exact Staging.noConfusion (h : Staging.clean = Staging.pending)

theorem LayerTable.Good.claimFree {t : LayerTable} (good : t.Good) (p : Port) {i : Fin 24}
    (free : t.slots[i].owner = .none) : (t.put i { LayerSlot.unowned with owner := .port p }).Good := by
  have granted := good.put (i := i) (x := { LayerSlot.unowned with owner := .port p })
    (fun h => Staging.noConfusion (h : Staging.clean = Staging.pending))
    (fun h => Owner.noConfusion (h : Owner.port p = Owner.none))
    fun shown => absurd shown (LayerSlot.not_shows_unowned _)
  rwa [t.leaveSet_of_not_port (fun q h => by rw [free] at h; cases h)] at granted

/-- A set that is dropped with its members' status changed (R40, R41). -/
theorem LayerTable.SetsGood.resolve {t u : LayerTable} (sets : t.SetsGood) {p : Port} {x : PendingSet}
    (hx : t.sets.get p = some x) (dropped : u.sets = t.sets.set p none)
    (outside : ∀ i : Fin 24, i ∉ x.members → u.slots[i] = t.slots[i])
    (members : ∀ i ∈ x.members, u.slots[i].status ≠ .pending) : u.SetsGood := by
  refine sets.drop dropped (fun i other => outside i fun mem => other (sets.owner hx mem)) fun i own pending => ?_
  by_cases mem : i ∈ x.members
  · exact members i mem pending
  · rw [outside i mem] at pending
    exact mem (sets.mem hx pending own)

theorem LayerTable.Good.portReset {t : LayerTable} (good : t.Good) (p : Port) : (t.portReset p).Good := by
  have kept : ∀ i : Fin 24, t.slots[i].owner ≠ .port p → (t.portReset p).slots[i] = t.slots[i] :=
    fun i other => by rw [LayerTable.portReset_slot, if_neg other]
  have gone : ∀ i : Fin 24, t.slots[i].owner = .port p → (t.portReset p).slots[i] = LayerSlot.unowned :=
    fun i own => by rw [LayerTable.portReset_slot, if_pos own]
  refine ⟨fun i free => ?_, good.stack.of_shows fun i shown => ?_,
    good.sets.drop (t.portReset_sets p) kept fun i own => by rw [gone i own]; nofun⟩
  · by_cases own : t.slots[i].owner = .port p
    · exact gone i own
    · rw [kept i own] at free ⊢
      exact good.unowned i free
  · by_cases own : t.slots[i].owner = .port p
    · exact absurd shown (LayerSlot.not_shows_of_unowned (gone i own))
    · exact LayerSlot.shows_of_eq (kept i own) shown

theorem LayerTable.Good.applySet {t : LayerTable} (good : t.Good) {p : Port} {x : PendingSet}
    {present : Vector Bool 4} {regions : Vector (Option Region) 16} (hx : t.sets.get p = some x)
    (pass : setFailure present regions (t.candidates x.members) x.members = none) :
    (t.applySet p x.members).Good := by
  have owner : ∀ i ∈ x.members, t.slots[i].owner = .port p := fun i mem => good.sets.owner hx mem
  refine ⟨fun i free => ?_, ?_, good.sets.resolve hx (t.applySet_sets p _) (fun i out => ?_) fun i mem => ?_⟩
  · rw [LayerTable.applySet_slot] at free ⊢
    split_ifs at free ⊢ with mem
    · rw [owner i mem] at free
      cases free
    · exact good.unowned i free
  · rw [LayerTable.stackGood_iff]
    have same : (t.applySet p x.members).candidates [] = t.candidates x.members := Vector.ext fun i hi => by
      refine ((t.applySet p x.members).candidates_nil ⟨i, hi⟩).trans
        (.trans ?_ (t.candidates_get ⟨i, hi⟩ x.members).symm)
      rw [LayerTable.applySet_slot]
      split_ifs <;> rfl
    rw [same]
    refine stacked_of_passes pass ((LayerTable.stackGood_iff t).mp good.stack) fun i out shown => ?_
    rw [LayerTable.candidates_nil]
    rw [LayerTable.candidates_get, if_neg out] at shown ⊢
    exact ⟨shown, rfl⟩
  · rw [LayerTable.applySet_slot, if_neg out]
  · rw [LayerTable.applySet_slot, if_pos mem]
    nofun

theorem LayerTable.Act.good {part : PartState} {t u : LayerTable} (h : LayerTable.Act part t u) (good : t.Good) :
    u.Good := by
  cases h with
  | claimFree p i begun free => exact good.claimFree p free
  | claimFitted p i begun fitted rank => exact good.claimFitted p fitted
  | seize i begun => exact good.grant i .body
  | free i => exact good.free i
  | edit p i w own settled rank =>
    refine good.rewrite (fun free => ?_) rfl rfl (iff_of_false (fun h => ?_) settled)
    · exact Owner.noConfusion (own.symm.trans free)
    · exact Staging.noConfusion (h : Staging.edited = Staging.pending)
  | discard p =>
    refine good.of_slots (good.sets.congr (t.discard_sets p) fun j => ?_) (fun j => ?_) fun j free => ?_ <;>
      rw [LayerTable.discard_slot] <;> split_ifs with h
    · rw [LayerSlot.editedBy_iff] at h
      exact ⟨rfl, iff_of_false nofun (by rw [h.2]; nofun)⟩
    · exact ⟨rfl, .rfl⟩
    · exact ⟨rfl, rfl⟩
    · exact ⟨rfl, rfl⟩
    · rw [LayerSlot.editedBy_iff, free] at h
      cases h.1
    · rfl
  | openSet p tag none =>
    refine good.of_slots (good.sets.openSet none tag) (fun j => ?_) fun j free => ?_ <;>
      rw [LayerTable.openSet_slot] <;> split_ifs with h
    · exact ⟨rfl, rfl⟩
    · exact ⟨rfl, rfl⟩
    · rw [LayerSlot.editedBy_iff, free] at h
      cases h.1
    · rfl
  | force i f owned => exact good.rewrite owned rfl rfl .rfl
  | portReset p => exact good.portReset p
  | applySet p x present regions hx pass => exact good.applySet hx pass
  | refuseSet p x hx =>
    have owner : ∀ i ∈ x.members, t.slots[i].owner = .port p := fun i mem => good.sets.owner hx mem
    refine good.of_slots (good.sets.resolve hx (t.refuseSet_sets p _) (fun i out => ?_) fun i mem => ?_) (fun i => ?_)
      fun i free => ?_ <;> rw [LayerTable.refuseSet_slot]
    · rw [if_neg out]
    · rw [if_pos mem]
      nofun
    · split_ifs <;> exact ⟨rfl, rfl⟩
    · exact if_neg fun mem => by rw [owner i mem] at free; cases free

/-- Before RUN no slot finds an owner (R25). -/
theorem LayerTable.Act.unowned_of_boot {t u : LayerTable} (h : LayerTable.Act .boot t u)
    (empty : ∀ i : Fin 24, t.slots[i].owner = .none) (i : Fin 24) : u.slots[i].owner = .none := by
  cases h with
  | claimFree p j begun | claimFitted p j begun | seize j begun => exact absurd rfl begun
  | free j => rw [LayerTable.put_leaveSet_slot]; split_ifs <;> [rfl; exact empty i]
  | edit p j w own => rw [empty j] at own; cases own
  | discard p => rw [LayerTable.discard_slot]; split_ifs <;> exact empty i
  | openSet p tag => rw [LayerTable.openSet_slot]; split_ifs <;> exact empty i
  | force j f owned => exact absurd (empty j) owned
  | portReset p => rw [LayerTable.portReset_slot]; split_ifs <;> [rfl; exact empty i]
  | applySet p x => rw [LayerTable.applySet_slot]; split_ifs <;> exact empty i
  | refuseSet p x => rw [LayerTable.refuseSet_slot]; split_ifs <;> exact empty i

/-! ## SAFETY content (R14, R16, R17, R21) -/

/-- A slot of BODY or FITTED. -/
def Owner.MaySafety (o : Owner) : Prop := o = .port .body ∨ o = .fitted

/-- Slot by slot: SAFETY content was there before, with its owner, or stands under BODY or FITTED. -/
theorem LayerTable.SafetyOwned.of_slots {t u : LayerTable} (owned : t.SafetyOwned)
    (h : ∀ i : Fin 24, u.slots[i].holdsSafety = true →
      u.slots[i].owner.MaySafety ∨ (t.slots[i].holdsSafety = true ∧ u.slots[i].owner = t.slots[i].owner)) :
    u.SafetyOwned := by
  intro i safety
  obtain may | ⟨before, owner⟩ := h i safety
  · exact may
  · rw [owner]
    exact owned i before

/-- Copies taken from a slot's own copies hold SAFETY only where the slot did. -/
theorem LayerSlot.holdsSafety_of_copies {x y : LayerSlot} (safety : y.holdsSafety = true)
    (active : y.active = x.active ∨ y.active = x.staged) (staged : y.staged = x.active ∨ y.staged = x.staged) :
    x.holdsSafety = true := by
  rw [LayerSlot.holdsSafety_iff] at safety ⊢
  obtain h | h := safety
  · obtain e | e := active <;> rw [e] at h
    · exact .inl h
    · exact .inr h
  · obtain e | e := staged <;> rw [e] at h
    · exact .inl h
    · exact .inr h

theorem LayerTable.Act.safetyOwned {part : PartState} {t u : LayerTable} (h : LayerTable.Act part t u)
    (owned : t.SafetyOwned) : u.SafetyOwned := by
  refine owned.of_slots fun j safety => ?_
  have unowned : ∀ o : Owner, ¬ LayerSlot.holdsSafety { LayerSlot.unowned with owner := o } = true :=
    fun o => LayerSlot.not_holdsSafety_of_ordinary rfl rfl
  cases h with
  | claimFree p i begun free =>
    rw [LayerTable.put_slot] at safety ⊢
    split_ifs at safety ⊢
    · exact absurd safety (unowned _)
    · exact .inr ⟨safety, rfl⟩
  | claimFitted p i begun fitted rank =>
    rw [LayerTable.put_slot] at safety ⊢
    split_ifs at safety ⊢ with h
    · obtain body | ordinary := rank
      · exact .inl (.inl (congrArg Owner.port body))
      · exact absurd (LayerSlot.holdsSafety_of_copies (x := t.slots[i]) safety (.inl rfl) (.inl rfl)) ordinary
    · exact .inr ⟨safety, rfl⟩
  | seize i begun =>
    rw [LayerTable.put_leaveSet_slot] at safety ⊢
    split_ifs at safety ⊢
    · exact .inl (.inl rfl)
    · exact .inr ⟨safety, rfl⟩
  | free i =>
    rw [LayerTable.put_leaveSet_slot] at safety ⊢
    split_ifs at safety ⊢
    · exact absurd safety (unowned _)
    · exact .inr ⟨safety, rfl⟩
  | edit p i w own settled rank =>
    rw [LayerTable.put_slot] at safety ⊢
    split_ifs at safety ⊢ with h
    · subst h
      obtain body | kept := rank
      · exact .inl (.inl (own.trans (congrArg Owner.port body)))
      · refine .inr ⟨(LayerSlot.holdsSafety_iff _).mpr ?_, rfl⟩
        exact ((LayerSlot.holdsSafety_iff _).mp safety).imp id kept
    · exact .inr ⟨safety, rfl⟩
  | discard p =>
    rw [LayerTable.discard_slot] at safety ⊢
    split_ifs at safety ⊢
    · exact .inr ⟨LayerSlot.holdsSafety_of_copies (x := t.slots[j]) safety (.inl rfl) (.inl rfl), rfl⟩
    · exact .inr ⟨safety, rfl⟩
  | openSet p tag none =>
    rw [LayerTable.openSet_slot] at safety ⊢
    split_ifs at safety ⊢
    · exact .inr ⟨safety, rfl⟩
    · exact .inr ⟨safety, rfl⟩
  | force i f owned =>
    rw [LayerTable.put_slot] at safety ⊢
    split_ifs at safety ⊢ with h
    · subst h
      exact .inr ⟨safety, rfl⟩
    · exact .inr ⟨safety, rfl⟩
  | portReset p =>
    rw [LayerTable.portReset_slot] at safety ⊢
    split_ifs at safety ⊢
    · exact absurd safety (unowned .none)
    · exact .inr ⟨safety, rfl⟩
  | applySet p x present regions hx pass =>
    rw [LayerTable.applySet_slot] at safety ⊢
    split_ifs at safety ⊢
    · exact .inr ⟨LayerSlot.holdsSafety_of_copies (x := t.slots[j]) safety (.inr rfl) (.inr rfl), rfl⟩
    · exact .inr ⟨safety, rfl⟩
  | refuseSet p x hx =>
    rw [LayerTable.refuseSet_slot] at safety ⊢
    split_ifs at safety ⊢
    · exact .inr ⟨safety, rfl⟩
    · exact .inr ⟨safety, rfl⟩

end Sys2Proof.Machine

/-! The Layer Table over one step (R2, R14, R25, R26, R29, R44): every command but device reset and the end of BOOT moves
it by the single changes, and the two invariants that follow. -/

namespace Sys2Proof.Machine

/-! ## The class that an EDIT writes (R14, R21) -/

theorem LayerRecord.withKind_cls (r : LayerRecord) (k : LayerKind) : (r.withKind k).cls = r.cls := by
  unfold LayerRecord.withKind
  split <;> rfl

section Parts

variable {r w : LayerRecord}

theorem LayerRecord.onCamera_cls {f : CameraPart → CameraPart} (h : r.onCamera f = some w) : w.cls = r.cls := by
  unfold LayerRecord.onCamera at h
  split at h <;> cases h
  rfl

theorem LayerRecord.onBitmap_cls {f : BitmapPart → BitmapPart} (h : r.onBitmap f = some w) : w.cls = r.cls := by
  unfold LayerRecord.onBitmap at h
  split at h <;> cases h
  rfl

theorem LayerRecord.onGuide_cls {f : GuidePart → GuidePart} (h : r.onGuide f = some w) : w.cls = r.cls := by
  unfold LayerRecord.onGuide at h
  split at h <;> cases h
  rfl

theorem LayerRecord.onFill_cls {c : Fin 16} (h : r.onFill c = some w) : w.cls = r.cls := by
  unfold LayerRecord.onFill at h
  split at h <;> cases h
  rfl

/-- A field other than the class leaves the class (R12). -/
theorem LayerRecord.writeField_cls {id : Nat} {v : List Byte} (h : r.writeField id v = some w) (hid : id ≠ 2) :
    w.cls = r.cls := by
  unfold LayerRecord.writeField at h
  split at h
  case h_2 => exact absurd rfl hid
  case h_28 => cases h
  case h_13 | h_14 | h_15 | h_16 | h_17 | h_18 | h_19 =>
    obtain ⟨x, -, hx⟩ := Option.bind_eq_some_iff.mp h
    exact LayerRecord.onCamera_cls hx
  case h_20 | h_21 | h_22 | h_23 =>
    obtain ⟨x, -, hx⟩ := Option.bind_eq_some_iff.mp h
    exact LayerRecord.onBitmap_cls hx
  case h_24 | h_25 | h_26 =>
    obtain ⟨x, -, hx⟩ := Option.bind_eq_some_iff.mp h
    exact LayerRecord.onGuide_cls hx
  case h_27 =>
    obtain ⟨x, -, hx⟩ := Option.bind_eq_some_iff.mp h
    exact LayerRecord.onFill_cls hx
  case h_3 =>
    obtain ⟨k, -, rfl⟩ := Option.map_eq_some_iff.mp h
    exact r.withKind_cls k
  all_goals
    obtain ⟨x, -, rfl⟩ := Option.map_eq_some_iff.mp h
    rfl

/-- The class field takes the class that its value names (R12). -/
theorem LayerRecord.writeField_class {v : List Byte} (h : r.writeField 2 v = some w) :
    asClass (value8 v) = some w.cls := by
  obtain ⟨x, hx, rfl⟩ := Option.map_eq_some_iff.mp h
  exact hx

end Parts

theorem EditPair.writesSafety_iff (x : EditPair) :
    x.writesSafety = true ↔ x.id = 0x02#8 ∧ asClass (value8 x.value) = some .safety := by
  simp [EditPair.writesSafety]

/-- The pairs of a port other than BODY write no SAFETY (R14, R21). -/
theorem applyPairs_cls {p : Port} (hp : p ≠ .body) {w : LayerRecord} : ∀ {xs : List EditPair} {r : LayerRecord},
    applyPairs p xs r = .ok w → w.cls = .safety → r.cls = .safety
  | [], r, h, safety => by
    cases h
    exact safety
  | x :: xs, r, h, safety => by
    rw [applyPairs] at h
    split_ifs at h with writes
    split at h
    next v hv =>
      have before : v.cls = .safety := applyPairs_cls hp h safety
      by_cases hid : x.id = 0x02#8
      · rw [hid] at hv
        have named : asClass (value8 x.value) = some .safety := before ▸ LayerRecord.writeField_class hv
        exact absurd (Bool.and_eq_true_iff.mpr ⟨x.writesSafety_iff.mpr ⟨hid, named⟩, decide_eq_true hp⟩) writes
      · exact LayerRecord.writeField_cls hv (fun e => hid (BitVec.eq_of_toNat_eq e)) ▸ before
    next => cases h

/-! ## Every command but device reset and the end of BOOT -/

/-- The table moves by single changes. -/
def State.LayerMoves (s t : State) : Prop := LayerTable.Moves s.stc.part s.ltb t.ltb

section Moves

variable {s t u : State} {part : PartState}

theorem State.LayerMoves.of_ltb (h : t.ltb = s.ltb) : s.LayerMoves t := by
  rw [State.LayerMoves, h]

theorem State.LayerMoves.act (h : LayerTable.Act s.stc.part s.ltb t.ltb) : s.LayerMoves t := .single h

theorem State.LayerMoves.to (h : LayerTable.Moves s.stc.part s.ltb u.ltb) (same : t.ltb = u.ltb) : s.LayerMoves t := by
  rw [State.LayerMoves, same]
  exact h

theorem State.resolveSet_layerMoves (s : State) (p : Port) : LayerTable.Moves part s.ltb (s.resolveSet p).ltb := by
  obtain ⟨-, h⟩ | ⟨x, hx, ⟨pass, h⟩ | ⟨i, code, -, h⟩⟩ := s.resolveSet_cases p <;> rw [h]
  · exact .single (.applySet _ p x _ _ hx pass)
  · exact .single (.refuseSet _ p x hx)

theorem State.commitEvent_layerMoves (s : State) : LayerTable.Moves part s.ltb s.commitEvent.ltb :=
  ((s.resolveSet_layerMoves _).trans (State.resolveSet_layerMoves _ _)).trans (State.resolveSet_layerMoves _ _)

theorem State.blankAndCommit_layerMoves (h : u.ltb = s.ltb) (o : LineOrder) :
    LayerTable.Moves part s.ltb (u.blankAndCommit o).ltb := by
  rw [State.blankAndCommit_ltb, ← h]
  split
  · exact u.commitEvent_layerMoves
  · exact .refl

theorem State.lineEvents_layerMoves (s : State) (a b : Bool) (o : LineOrder) :
    LayerTable.Moves part s.ltb (s.lineEvents a b o).ltb := by
  have drawn : (if s.ftb.line = 0 then s.fireTop a b else s).canvasLine.ltb = s.ltb := by
    split <;> simp
  unfold State.lineEvents
  dsimp only
  split
  · exact State.blankAndCommit_layerMoves (by rw [State.strobe_ltb, drawn]) o
  · rw [State.strobe_ltb]
    exact State.blankAndCommit_layerMoves drawn o

theorem State.startRun_layerMoves (s : State) (out : Surroundings) :
    LayerTable.Moves part s.ltb (s.startRun out).ltb := by
  rw [State.startRun_eq, ← s.readyToRun_ltb out]
  exact State.lineEvents_layerMoves _ _ _ _

theorem State.wakeUp_layerMoves (h : u.ltb = s.ltb) (meets : Waking) :
    LayerTable.Moves part s.ltb (u.wakeUp meets).ltb := by
  obtain ⟨c, e, -⟩ := State.inputEvents_only meets.inputs ((u.setScn u.scn.wake).moveTo .run)
  rw [State.wakeUp, e, ← h]
  exact State.startRun_layerMoves (((u.setScn u.scn.wake).moveTo .run).setScn c) meets.out

section Slots

variable (p : Port) (r : Request) (i : Fin 24)

theorem claimSlot_layerMoves (begun : s.stc.part ≠ .boot) : s.LayerMoves (claimSlot p r s i) := by
  unfold claimSlot
  dsimp only
  split_ifs with own rank
  · exact .of_ltb rfl
  · exact .of_ltb rfl
  · split
    next => exact .of_ltb rfl
    next free => exact .act (.claimFree _ p i begun free)
    next fitted => exact .act (.claimFitted _ p i begun fitted (by tauto))

theorem seizeSlot_layerMoves (begun : s.stc.part ≠ .boot) : s.LayerMoves (seizeSlot p r s i) := by
  unfold seizeSlot
  dsimp only
  split
  · exact .of_ltb rfl
  · split <;> exact .act (.seize _ i begun)

theorem releaseSlot_layerMoves : s.LayerMoves (releaseSlot p r s i) := by
  unfold releaseSlot
  split
  · exact .act (.free _ i)
  · exact .of_ltb rfl

theorem editSlot_layerMoves : s.LayerMoves (editSlot p r s i) := by
  unfold editSlot
  dsimp only
  split_ifs with count own pending
  · exact .of_ltb rfl
  · exact .of_ltb rfl
  · exact .of_ltb rfl
  · split
    next => exact .of_ltb rfl
    next w applied =>
      refine .act (.edit _ p i w (not_not.mp own) pending ?_)
      exact (eq_or_ne p .body).imp_right fun other => applyPairs_cls other applied

theorem forceSlot_layerMoves : s.LayerMoves (forceSlot p r s i) := by
  unfold forceSlot
  dsimp only
  split
  · exact .of_ltb rfl
  · split_ifs with free
    · exact .of_ltb rfl
    · exact .act (.force _ i _ free)

/-- A block on one slot moves the table by single changes when it does so on every slot. -/
theorem onSlot_layerMoves {s₀ : State} {f : Fin 24 → State} (refused : s₀.LayerMoves (s.badField p r 0x00#8))
    (h : ∀ i, s₀.LayerMoves (f i)) : NextState s₀.LayerMoves (onSlot p r s f) := by
  unfold onSlot
  split
  · exact nextState_next refused
  · exact nextState_next (h _)

end Slots

theorem State.resetJob_ltb (s : State) (p : Port) : (s.resetJob p).ltb = s.ltb := by
  obtain ⟨o, x, h, -⟩ := s.resetJob_shape p
  rw [h]
  rfl

theorem State.resetBlocks_ltb (s : State) (p : Port) : (s.resetBlocks p).ltb = s.ltb.portReset p := by
  rw [State.resetBlocks, State.resetJob_ltb]
  split <;> rfl

theorem State.resetBlocks_layerMoves (s : State) (p : Port) : s.LayerMoves (s.resetBlocks p) := by
  refine .act ?_
  rw [State.resetBlocks_ltb]
  exact .portReset _ p

end Moves

/-- A request moves the table as its block does on the request taken, in a part that admits the kind. -/
theorem serve_layerMoves {s : State} {p : Port} {kind : RequestKind} {block : Request → State → Outcome}
    (h : ∀ r, kind.admitted s.stc.part = true → NextState (s.taken p).LayerMoves (block r (s.taken p))) :
    NextState s.LayerMoves (serve kind p s block) :=
  serve_nextState (.of_ltb rfl) (fun _ _ _ => .of_ltb rfl) h

/-- CLAIM and SEIZE are admitted in RUN and QUIET (R167). -/
theorem RequestKind.begun_of_admitted {k : RequestKind} {part : PartState} (admitted : k.admitted part = true)
    (hk : k = .claim ∨ k = .seize) : part ≠ .boot := by
  rintro rfl
  obtain rfl | rfl := hk <;> cases admitted

/-- Every command but device reset and the end of BOOT moves the table by single changes. -/
theorem exec_layerMoves {c : Instr} (reset : ∀ x, c ≠ .deviceReset x) (boot : ∀ o, c ≠ .bootEnd o) (s : State) :
    NextState s.LayerMoves (exec c s) := by
  by_cases outside : Block.ltb ∉ Instr.footprint c
  · exact fun t ht => .of_ltb (exec_within c s t ht .ltb outside)
  · cases c with
    | deviceReset x => exact absurd rfl (reset x)
    | bootEnd o => exact absurd rfl (boot o)
    | lineEnd out o =>
      simp only [exec, execLineEnd]
      split
      · exact nextState_next (.of_ltb rfl)
      · exact nextState_next (.to (State.lineEvents_layerMoves (s.arrived out) false out.recHold o) rfl)
    | wakeIn meets =>
      simp only [exec, execWakeIn]
      split
      · exact nextState_next (.to (State.wakeUp_layerMoves rfl meets) (State.announce_ltb _ _))
      · exact nextState_next (.of_ltb rfl)
    | wake p meets replyFirst =>
      simp only [exec, execWake]
      refine serve_layerMoves fun r _ => ?_
      split_ifs
      · exact nextState_next (.of_ltb rfl)
      · refine nextState_next (.to (State.wakeUp_layerMoves (u := (s.taken p).done p r []) rfl meets) ?_)
        rw [State.announce_ltb]
      · refine nextState_next (.to (State.wakeUp_layerMoves (u := s.taken p) rfl meets) ?_)
        rw [State.done, State.answer_ltb, State.announce_ltb]
    | resetPort p =>
      simp only [exec, execResetPort]
      refine serve_layerMoves fun r _ => nextState_next ?_
      exact .to (State.resetBlocks_layerMoves ((s.taken p).modPort p PortState.clear) p) rfl
    | claim p =>
      simp only [exec, execClaim]
      exact serve_layerMoves fun r admitted => onSlot_layerMoves p r (.of_ltb rfl)
        fun i => claimSlot_layerMoves p r i (RequestKind.begun_of_admitted admitted (.inl rfl))
    | seize p =>
      simp only [exec, execSeize]
      exact serve_layerMoves fun r admitted => onSlot_layerMoves p r (.of_ltb rfl)
        fun i => seizeSlot_layerMoves p r i (RequestKind.begun_of_admitted admitted (.inr rfl))
    | release p =>
      simp only [exec, execRelease]
      exact serve_layerMoves fun r _ => onSlot_layerMoves p r (.of_ltb rfl) fun i => releaseSlot_layerMoves p r i
    | edit p =>
      simp only [exec, execEdit]
      exact serve_layerMoves fun r _ => onSlot_layerMoves p r (.of_ltb rfl) fun i => editSlot_layerMoves p r i
    | force p =>
      simp only [exec, execForce]
      exact serve_layerMoves fun r _ => onSlot_layerMoves p r (.of_ltb rfl) fun i => forceSlot_layerMoves p r i
    | discard p =>
      simp only [exec, execDiscard]
      refine serve_layerMoves fun r _ => ?_
      split
      · exact nextState_next (.of_ltb rfl)
      · exact nextState_next (.act (.discard _ p))
    | commit p =>
      simp only [exec, execCommit]
      refine serve_layerMoves fun r _ => ?_
      split_ifs with open_ none
      · exact nextState_next (.of_ltb rfl)
      · exact nextState_next (.of_ltb rfl)
      · exact nextState_next (.act (.openSet _ p r.tag (Option.not_isSome_iff_eq_none.mp open_)))
    | _ => simp [Instr.footprint] at outside

/-! ## The end of BOOT (R26, R47) -/

theorem State.settleFitting_ltb (s : State) : s.settleFitting.ltb = s.ltb
    ∨ ∃ (f : FittedRecord) (present : Vector Bool 4), f.layersGood present = true
      ∧ s.settleFitting.ltb = s.ltb.install f := by
  unfold State.settleFitting
  split
  · exact .inl rfl
  · exact .inl rfl
  · split
    · exact .inl rfl
    · split_ifs with settings layers
      · exact .inl rfl
      · exact .inl rfl
      · exact .inr ⟨_, _, Bool.not_eq_false _ ▸ layers, rfl⟩

theorem State.endBoot_layerMoves (s : State) (out : Surroundings) :
    LayerTable.Moves .run s.settleFitting.ltb (s.endBoot out).ltb := by
  unfold State.endBoot
  dsimp only
  rw [State.announce_ltb, ← State.setScn_ltb s.settleFitting s.settleFitting.scn.endBoot]
  exact State.startRun_layerMoves _ out

theorem FittedRecord.mem_members (f : FittedRecord) (i : Fin 24) : i ∈ f.members ↔ (f.layerAt i).isSome = true := by
  simp [FittedRecord.members]

theorem FittedRecord.candidates_get (f : FittedRecord) (i : Fin 24) : f.candidates[i] =
    match f.layerAt i with
    | some r => ⟨.fitted, r⟩
    | none => ⟨.none, LayerRecord.empty⟩ := ofFn_get _ i

theorem not_counts_of_free (r : LayerRecord) : ¬ Candidate.counts ⟨.none, r⟩ = true := by
  rw [Candidate.counts_iff]
  exact fun h => h.2 rfl

/-- A table without a counted candidate is stacked. -/
theorem stacked_of_none {table : Vector Candidate 24} (free : ∀ i : Fin 24, ¬ table[i].counts = true) :
    Stacked table := by
  refine ⟨fun i _ _ h => absurd h (free i), fun i _ h => absurd h (free i), ?_⟩
  rw [safetyCount_eq, List.filter_eq_nil_iff.mpr fun i _ h => free i (Bool.and_eq_true_iff.mp h).1]
  exact Nat.zero_le 8

/-- The candidates of an empty table. -/
def freeCandidates : Vector Candidate 24 := Vector.replicate 24 ⟨.none, LayerRecord.empty⟩

theorem freeCandidates_stacked : Stacked freeCandidates := by
  refine stacked_of_none fun i => ?_
  rw [freeCandidates, Fin.getElem_fin, Vector.getElem_replicate]
  exact not_counts_of_free _

/-- Fitted layers that pass as one set are stacked (R47). -/
theorem FittedRecord.stacked {f : FittedRecord} {present : Vector Bool 4} (good : f.layersGood present = true) :
    Stacked f.candidates := by
  refine stacked_of_passes (Option.isNone_iff_eq_none.mp good) freeCandidates_stacked fun i out shown => ?_
  rw [FittedRecord.mem_members, Option.not_isSome_iff_eq_none] at out
  rw [FittedRecord.candidates_get, out] at shown
  exact absurd shown (not_counts_of_free _)

/-- In an empty table the record's layers are all that shows. -/
theorem LayerTable.install_stackGood {t : LayerTable} (empty : ∀ i : Fin 24, t.slots[i].owner = .none)
    {f : FittedRecord} {present : Vector Bool 4} (passes : f.layersGood present = true) : (t.install f).StackGood := by
  rw [LayerTable.stackGood_iff]
  refine (FittedRecord.stacked passes).of_imp fun i shown => ?_
  rw [LayerTable.candidates_nil, LayerTable.install_slot] at shown ⊢
  rw [FittedRecord.candidates_get]
  cases hl : f.layerAt i with
  | some r =>
    rw [hl] at shown
    exact ⟨shown, rfl⟩
  | none =>
    rw [hl] at shown
    dsimp only at shown
    rw [empty i] at shown
    exact absurd shown (not_counts_of_free _)

theorem LayerTable.install_sets (t : LayerTable) (f : FittedRecord) : (t.install f).sets = t.sets := by
  unfold LayerTable.install
  rfl

/-- A slot of the record's layers is CLEAN and FITTED, another is as it was. -/
theorem LayerTable.install_slot_or (t : LayerTable) (f : FittedRecord) (i : Fin 24) :
    ((t.install f).slots[i].owner = .fitted ∧ (t.install f).slots[i].status = .clean)
    ∨ (t.install f).slots[i] = t.slots[i] := by
  rw [LayerTable.install_slot]
  split
  · exact .inl ⟨rfl, rfl⟩
  · exact .inr rfl

/-- The record's layers installed in an empty table keep its relations (R26, R47). -/
theorem LayerTable.Good.install {t : LayerTable} (good : t.Good) (empty : ∀ i : Fin 24, t.slots[i].owner = .none)
    {f : FittedRecord} {present : Vector Bool 4} (passes : f.layersGood present = true) : (t.install f).Good where
  unowned i free := by
    obtain ⟨fitted, -⟩ | same := t.install_slot_or f i
    · exact Owner.noConfusion (fitted.symm.trans free)
    · exact same.trans (good.unowned i (empty i))
  stack := LayerTable.install_stackGood empty passes
  sets := by
    refine ⟨fun p x hx => ?_, fun i pending => ?_⟩
    · rw [LayerTable.install_sets] at hx
      refine ⟨(good.sets.1 p x hx).1, fun i mem => ?_⟩
      exact Owner.noConfusion ((empty i).symm.trans (good.sets.owner hx mem))
    · obtain ⟨-, clean⟩ | same := t.install_slot_or f i
      · exact Staging.noConfusion (clean.symm.trans pending)
      · rw [same, good.unowned i (empty i)] at pending
        exact Staging.noConfusion (pending : Staging.clean = Staging.pending)

/-- A fitted layer may be SAFETY (R14, R26). -/
theorem LayerTable.SafetyOwned.install {t : LayerTable} (owned : t.SafetyOwned) (f : FittedRecord) :
    (t.install f).SafetyOwned := by
  refine owned.of_slots fun i safety => ?_
  rw [LayerTable.install_slot] at safety ⊢
  split at safety
  · exact .inl (.inr rfl)
  · exact .inr ⟨safety, rfl⟩

/-! ## The invariants -/

/-- Into BOOT a part comes by device reset alone (R174, R175). -/
theorem exec_boot {c : Instr} (reset : ∀ x, c ≠ .deviceReset x) (s : State) :
    NextState (fun t => t.stc.part = .boot → s.stc.part = .boot) (exec c s) := by
  have of_clock : ∀ {t : State}, t.clock = s.clock → t.stc.part = .boot → s.stc.part = .boot :=
    fun {t} same boot => (congrArg Clock.part same).symm.trans boot
  have of_part : ∀ {t : State} {x : PartState}, t.clock.part = x → x ≠ .boot → t.stc.part = .boot → s.stc.part = .boot :=
    fun {t x} part ne boot => absurd (part.symm.trans boot) ne
  by_cases hc : Instr.movesClock c = false
  · exact fun t ht => of_clock (exec_keepsClock hc s t ht)
  · by_cases outside : Block.stc ∉ Instr.footprint c
    · intro t ht boot
      have same : t.stc = s.stc := exec_within c s t ht .stc outside
      rwa [same] at boot
    · have woken : ∀ (u : State) (meets : Waking), (u.wakeUp meets).clock.part = .run := fun u meets => by
        obtain ⟨_, _, _, h⟩ := u.wakeUp_clock meets
        rw [h]
      cases c with
      | deviceReset x => exact absurd rfl (reset x)
      | bootEnd out =>
        simp only [exec, execBootEnd]
        split
        next h => exact nextState_next fun _ => h.1
        next => exact nextState_next id
      | lineEnd out o =>
        simp only [exec, execLineEnd]
        split
        · exact nextState_next id
        · refine nextState_next fun boot => ?_
          obtain h | h | h := (s.arrived out).lineEvents_part false out.recHold o
          · exact h.symm.trans boot
          · cases h.symm.trans boot
          · cases h.symm.trans boot
      | wakeIn meets =>
        simp only [exec, execWakeIn]
        split
        · exact nextState_next (of_part (x := .run) (by rw [State.announce_clock, woken]) nofun)
        · exact nextState_next id
      | wake p meets replyFirst =>
        simp only [exec, execWake]
        refine serve_nextState id (fun _ _ _ => id) fun r _ => ?_
        split_ifs
        · exact nextState_next id
        · exact nextState_next (of_part (x := .run) (by rw [State.announce_clock, woken]) nofun)
        · exact nextState_next (of_part (x := .run) (by rw [State.done_clock, State.announce_clock, woken]) nofun)
      | dormant p replyFirst =>
        simp only [exec, execDormant]
        refine serve_nextState id (fun _ _ _ => id) fun r _ => ?_
        split_ifs
        · exact nextState_next id
        · exact nextState_next id
        · refine nextState_next (of_part (x := .dormant) ?_ nofun)
          have same : ∀ u : State, ∀ y cause, (u.answerAndAnnounce replyFirst p y cause).clock = u.clock := by
            intro u y cause
            cases replyFirst <;> rfl
          rw [same, State.enterDormant_clock]
      | _ => simp [Instr.footprint, Instr.movesClock] at outside hc

theorem State.tableGood_iff (s : State) : s.TableGood ↔
    s.ltb.Good ∧ (s.stc.part = .boot → ∀ i : Fin 24, s.ltb.slots[i].owner = .none) :=
  ⟨fun ⟨unowned, stack, sets, boot⟩ => ⟨⟨unowned, stack, sets⟩, boot⟩,
    fun ⟨⟨unowned, stack, sets⟩, boot⟩ => ⟨unowned, stack, sets, boot⟩⟩

theorem State.tick_ltb (s : State) : s.tick.ltb = s.ltb := by
  cases hr : s.pins.resetLow with
  | true => rw [State.tick_of_reset_low hr]
  | false =>
    obtain ⟨c, k, o, f, x, ht, -⟩ := State.tick_spec hr
    rw [ht]
    rfl

/-- A step that is no device reset and no end of BOOT moves the table by single changes, and comes to BOOT from BOOT. -/
theorem exec_tableGood {c : Instr} (reset : ∀ x, c ≠ .deviceReset x) (boot : ∀ o, c ≠ .bootEnd o) {s t : State}
    (good : s.TableGood) (h : exec c s = .next t) : t.TableGood := by
  rw [State.tableGood_iff] at good ⊢
  obtain ⟨good, empty⟩ := good
  have moves : s.LayerMoves t := exec_layerMoves reset boot s t h
  refine ⟨moves.keeps LayerTable.Act.good good, fun into => ?_⟩
  have from_boot : s.stc.part = .boot := exec_boot reset s t h into
  rw [State.LayerMoves, from_boot] at moves
  exact moves.keeps LayerTable.Act.unowned_of_boot (empty from_boot)

/-! Device reset (R25). -/

theorem LayerTable.atReset_slot (i : Fin 24) : LayerTable.atReset.slots[i] = LayerSlot.unowned :=
  (Fin.getElem_fin _ i _).trans (Vector.getElem_replicate _)

theorem LayerTable.atReset_owner (i : Fin 24) : LayerTable.atReset.slots[i].owner = .none := by
  rw [LayerTable.atReset_slot]
  rfl

theorem LayerTable.atReset_set (p : Port) : LayerTable.atReset.sets.get p = none := by cases p <;> rfl

theorem LayerTable.atReset_good : LayerTable.atReset.Good where
  unowned i _ := LayerTable.atReset_slot i
  stack := by
    rw [LayerTable.stackGood_iff]
    refine stacked_of_none fun i shown => ?_
    rw [LayerTable.counts_iff_shows] at shown
    exact LayerSlot.not_shows_of_unowned (LayerTable.atReset_slot i) shown
  sets := by
    refine ⟨fun p x hx => ?_, fun i pending => ?_⟩
    · rw [LayerTable.atReset_set] at hx
      cases hx
    · rw [LayerTable.atReset_slot] at pending
      exact Staging.noConfusion (pending : Staging.clean = Staging.pending)

theorem LayerTable.atReset_safetyOwned : LayerTable.atReset.SafetyOwned := by
  intro i safety
  rw [LayerTable.atReset_slot] at safety
  exact absurd safety (LayerSlot.not_holdsSafety_of_ordinary rfl rfl)

/-! The end of BOOT. -/

theorem State.endBoot_part (s : State) (out : Surroundings) : (s.endBoot out).stc.part = .run := by
  obtain ⟨stc, -⟩ := (s.settleFitting.setScn s.settleFitting.scn.endBoot).startRun_keeps out
  unfold State.endBoot
  dsimp only
  rw [State.announce_stc, stc]

theorem State.endBoot_tableGood {s : State} (out : Surroundings) (good : s.ltb.Good)
    (empty : ∀ i : Fin 24, s.ltb.slots[i].owner = .none) : (s.endBoot out).TableGood := by
  rw [State.tableGood_iff, s.endBoot_part out]
  refine ⟨(s.endBoot_layerMoves out).keeps LayerTable.Act.good ?_, nofun⟩
  obtain same | ⟨f, present, passes, installed⟩ := s.settleFitting_ltb
  · rwa [same]
  · rw [installed]
    exact good.install empty passes

theorem State.endBoot_safetyOwned {s : State} (out : Surroundings) (owned : s.ltb.SafetyOwned) :
    (s.endBoot out).ltb.SafetyOwned := by
  refine (s.endBoot_layerMoves out).keeps LayerTable.Act.safetyOwned ?_
  obtain same | ⟨f, present, -, installed⟩ := s.settleFitting_ltb
  · rwa [same]
  · rw [installed]
    exact owned.install f

/-! Every command. -/

theorem exec_keepsTableGood (c : Instr) {s : State} (good : s.TableGood) : NextState State.TableGood (exec c s) := by
  cases c with
  | deviceReset x =>
    exact nextState_next ((State.tableGood_iff _).mpr ⟨LayerTable.atReset_good, fun _ => LayerTable.atReset_owner⟩)
  | bootEnd out =>
    simp only [exec, execBootEnd]
    split
    next into =>
      obtain ⟨table, empty⟩ := s.tableGood_iff.mp good
      exact nextState_next (State.endBoot_tableGood out table (empty into.1))
    next => exact nextState_next good
  | _ => exact fun t => exec_tableGood (fun _ e => by cases e) (fun _ e => by cases e) good

theorem exec_keepsSafetyOwned (c : Instr) {s : State} (owned : s.ltb.SafetyOwned) :
    NextState (fun t => t.ltb.SafetyOwned) (exec c s) := by
  cases c with
  | deviceReset x => exact nextState_next LayerTable.atReset_safetyOwned
  | bootEnd out =>
    simp only [exec, execBootEnd]
    split
    · exact nextState_next (State.endBoot_safetyOwned out owned)
    · exact nextState_next owned
  | _ => exact fun t h => (exec_layerMoves (fun _ e => by cases e) (fun _ e => by cases e) s t h).keeps LayerTable.Act.safetyOwned owned

theorem State.tick_part (s : State) : s.tick.stc.part = s.stc.part := congrArg Clock.part s.tick_clock

/-- Settles O8: device reset empties the table, the end of BOOT installs a set that passes in an empty one, and every
other command moves it by single changes (`exec_tableGood`). -/
theorem everyStepKeepsLayerStack : Obligations.EveryStepKeepsLayerStack := by
  intro s t good h
  unfold step at h
  split at h
  next =>
    obtain rfl := Host.Outcome.next.inj h
    rw [State.tableGood_iff, State.tick_ltb, State.tick_part]
    exact s.tableGood_iff.mp good
  next c rest _ => exact exec_keepsTableGood c (s := s.setPending rest) good t h

/-- Settles O9, as `everyStepKeepsLayerStack`: the table starts empty, fitted slots may be SAFETY, and every single change
keeps SAFETY content under BODY or FITTED (`LayerTable.Act.safetyOwned`). -/
theorem everyStepKeepsSafetyWithBody : Obligations.EveryStepKeepsSafetyWithBody := by
  intro s t owned h
  unfold step at h
  split at h
  next =>
    obtain rfl := Host.Outcome.next.inj h
    rwa [State.tick_ltb]
  next c rest _ => exact exec_keepsSafetyOwned c (s := s.setPending rest) owned t h

end Sys2Proof.Machine

/-! Device reset (R25, R175) and the layer record's bytes (11.1.4): the values a reset leaves, and that every record in
range reads back. -/

namespace Sys2Proof.Machine

/-! ## Device reset -/

/-- The blocks' reset values, whatever the levels on the pins, the epoch of Overlay Memory, the stored record, the
links, the pins and the waiting commands. -/
theorem State.atDeviceReset_of_blocks (campop : BitVec 2) (levels : Vector Bool 8) (epoch : Nat) (record : StoredRecord)
    (links : LinkOutputs) (pins : Pins) (pending : List Instr) :
    State.AtDeviceReset
      { ports := PerPort.all PortState.atReset
        ltb := LayerTable.atReset
        ftb := Timebase.atReset
        cams := Cameras.atReset campop
        scn := Conditioner.atReset levels
        mkm := MarkerMap.atReset
        ovm := Overlay.atReset epoch
        cmp := Composer.atReset
        stc := Controller.atReset
        fst := ⟨record, .none, none⟩
        links := links
        pins := pins
        pending := pending } campop := by
  refine ⟨rfl, LayerTable.atReset_slot, LayerTable.atReset_set, ?timebase, fun p => ?ports, rfl, rfl, fun k => ?camera,
    fun n => ?input, fun v => ?virtual, ?signals, rfl, fun g => ?region, rfl, fun p => ?job, rfl, rfl, rfl, rfl, rfl, rfl,
    rfl, rfl⟩
  case timebase => exact ⟨rfl, rfl, rfl, rfl, rfl, rfl, rfl, rfl, rfl, rfl, rfl, rfl, rfl⟩
  case ports =>
    rw [PerPort.get_all]
    exact ⟨rfl, rfl, rfl, rfl, rfl, rfl, rfl, rfl⟩
  case camera => exact ofFn_get _ k
  case input =>
    have reset : (Conditioner.atReset levels).inputs[n] = Input.atReset levels[n] := ofFn_get _ n
    rw [reset]
    exact ⟨rfl, rfl, rfl, rfl, rfl⟩
  case virtual => exact replicate_get false v
  case signals => exact ⟨rfl, rfl, rfl, rfl, rfl, rfl, rfl, rfl⟩
  case region => exact replicate_get none g
  case job => exact PerPort.get_all p none

theorem State.deviceReset_raw (s : State) (campop : BitVec 2) (n : Fin 8) :
    (s.deviceReset campop).scn.inputs[n].raw = s.scn.inputs[n].raw := by
  have reset : (s.deviceReset campop).scn.inputs[n] = Input.atReset s.scn.pinLevels[n] := ofFn_get _ n
  have level : s.scn.pinLevels[n] = s.scn.inputs[n].raw := ofFn_get _ n
  rw [reset, level]
  rfl

/-- The fitting record is kept, or a store cut off has made its check bad (R184). -/
theorem Fitting.atDeviceReset_record (f : Fitting) :
    f.atDeviceReset.record = if f.store = none then f.record else .spoiled := by
  unfold Fitting.atDeviceReset
  cases f.store <;> rfl

/-- Settles O17: both states have the blocks' reset values (`State.atDeviceReset_of_blocks`), and a reset keeps what it
keeps. -/
theorem deviceResetLeavesResetValues : Obligations.DeviceResetLeavesResetValues := by
  refine ⟨fun campop s => ⟨s.deviceReset campop, rfl, State.atDeviceReset_of_blocks _ _ _ _ _ _ _, rfl,
    s.deviceReset_raw campop, fun none => ?_, fun store => ?_⟩, State.atDeviceReset_of_blocks _ _ _ _ _ _ _, fun s => rfl⟩
  · exact s.fst.atDeviceReset_record.trans (if_pos none)
  · exact s.fst.atDeviceReset_record.trans (if_neg store)

/-! ## The invariants at a reset -/

theorem State.reset_portGood (p : Port) : State.reset.PortGood p := by cases p <;> decide

theorem State.reset_markersGood : State.reset.MarkersGood :=
  ⟨Nat.zero_le _, .nil, fun _ h => absurd h List.not_mem_nil, rfl⟩

theorem State.reset_engineGood : State.reset.EngineGood := by
  have region : ∀ g : Fin 16, State.reset.ovm.regions[g] = none := replicate_get none
  have job : ∀ p : Port, State.reset.ovm.jobs.get p = none := fun p => PerPort.get_all p none
  have no_region : ∀ {g : Fin 16} {r : Region}, State.reset.ovm.regions[g] ≠ some r := fun {g r} h => by
    rw [region g] at h
    cases h
  have no_job : ∀ {p : Port} {j : Job}, State.reset.ovm.jobs.get p ≠ some j := fun {p j} h => by
    rw [job p] at h
    cases h
  exact ⟨fun _ _ h => absurd h no_region, fun _ _ _ _ _ h => absurd h no_region,
    ⟨fun _ _ h => absurd h no_job, fun _ _ h => absurd h no_region, fun _ _ ⟨_, h, _⟩ => absurd h no_job⟩, Nat.zero_le _⟩

/-- Settles O4, block by block. -/
theorem resetIsGood : Obligations.ResetIsGood := by
  refine ⟨Timebase.atReset_good, ⟨State.reset_portGood _, State.reset_portGood _, State.reset_portGood _⟩,
    Memory.reset_wf, ?table, LayerTable.atReset_safetyOwned, State.reset_markersGood, State.reset_engineGood,
    fun k => ?camera, ?output⟩
  case table => exact (State.tableGood_iff _).mpr ⟨LayerTable.atReset_good, fun _ => LayerTable.atReset_owner⟩
  case camera =>
    have reset : State.reset.cams.links[k] = CameraLink.atReset (strapPopulation 0#2)[k] := ofFn_get _ k
    rw [reset]
    exact CameraLink.atReset_good _
  case output => decide

/-! ## The layer record's bytes (11.1.4) -/

section Record

variable {r : LayerRecord}

/-- A key index reads back. -/
theorem asKey_byte (k : Fin 16) : asKey (some (byte k.val).toNat) = some (some k) := by
  revert k
  decide

/-- NONE reads back. -/
theorem asKey_none : asKey (some (0xFF#8 : Byte).toNat) = some none := rfl

/-- The part of a record in range reads back, whatever follows it. -/
theorem readPart_bytes (range : r.InRange) (rest : List Byte) :
    readPart r.part.kind (r.part.bytes ++ rest) = some (r.part, rest) := by
  by_cases bitmap : r.part.kind = .bitmap
  · obtain ⟨-, -, -, -, -, -, -, -, -, part⟩ := range
    cases content : r.part with
    | bitmap b =>
      rw [content] at part
      obtain ⟨region, width, height, key⟩ := b
      obtain ⟨w, w', h, h'⟩ := part
      dsimp only at w w' h h'
      cases key <;> simp only [KindPart.kind, KindPart.bytes, le_two, List.cons_append, List.nil_append, readPart,
        regionOf_byte, asKey_byte, asKey_none, value16_bytes (show width < 65536 by omega), value16_bytes (show height < 65536 by omega),
        within_of w w', within_of h h']
    | camera | guide | fill => rw [content] at bitmap; cases bitmap
  · obtain ⟨e, spelled⟩ := LayerRecord.spelledBy_part range bitmap
    exact (readPart_iff _ _ _ _ bitmap).mpr ⟨rfl, e, _, spelled, rfl⟩

theorem LayerClass.eq_of_safety (c : LayerClass) :
    (if decide (c = .safety) then LayerClass.safety else LayerClass.ordinary) = c := by cases c <;> rfl

/-- The first byte's bits. -/
theorem LayerRecord.flagsByte_bits (r : LayerRecord) : (byte r.flagsNumber).getLsbD 0 = r.enabled
    ∧ (byte r.flagsNumber).getLsbD 1 = decide (r.cls = .safety) ∧ (byte r.flagsNumber).getLsbD 6 = r.record := by
  obtain ⟨-, enabled, cls, -, -, record⟩ := r.flagsNumber_fields
  refine ⟨Bool.eq_iff_iff.mpr ?_, Bool.eq_iff_iff.mpr ?_, Bool.eq_iff_iff.mpr ?_⟩
  · exact (getLsbD_byte _ (by decide)).trans enabled
  · exact (getLsbD_byte _ (by decide)).trans (cls.trans decide_eq_true_iff.symm)
  · exact (getLsbD_byte _ (by decide)).trans record

/-- Settles O15: each field reads back from its bytes (`LayerRecord.bytes_eq`), the part by `readPart_bytes`. -/
theorem layerRecordReadsBack : Obligations.LayerRecordReadsBack := by
  intro r rest range
  have part := readPart_bytes range rest
  obtain ⟨z, x, y, w, w', h, h', alpha, few, -⟩ := range
  obtain ⟨small, -, -, kind, blink, -⟩ := r.flagsNumber_fields
  obtain ⟨enabled, cls, record⟩ := r.flagsByte_bits
  have terms := readCondition_bytes r.condition (r.part.bytes ++ rest) few
  rw [r.bytes_eq]
  simp only [le_two, List.cons_append, List.nil_append, List.append_assoc, readRecord, byte_toNat small, kind, blink,
    asKind_number, asBlink_number, byte_toNat (show r.z < 256 by omega), byte_toNat (show r.alpha < 256 by omega),
    value16_bytes (show r.destX < 65536 by omega), value16_bytes (show r.destY < 65536 by omega),
    value16_bytes (show r.destW < 65536 by omega), value16_bytes (show r.destH < 65536 by omega),
    within_of (Nat.zero_le _) z, within_of (Nat.zero_le _) x, within_of (Nat.zero_le _) y, within_of w w', within_of h h',
    within_of (Nat.zero_le _) alpha, terms, part, bit, enabled, cls, record, LayerClass.eq_of_safety]

end Record

end Sys2Proof.Machine

/-! EDIT's pairs (R7 to R12, R21): what each field of the table takes, and that a field write keeps a record in range. -/

namespace Sys2Proof.Machine

/-! ## Values by their bytes (11.1.2) -/

section Values

variable {v : List Byte} {lo hi n : Nat}

theorem value8_iff (v : List Byte) (n : Nat) : value8 v = some n ↔ n < 256 ∧ v = [byte n] := by
  constructor
  · intro h
    unfold value8 at h
    split at h
    next b =>
      obtain rfl := Option.some.inj h
      exact ⟨b.isLt, congrArg ([·]) (byte_of_toNat rfl)⟩
    next => cases h
  · rintro ⟨small, rfl⟩
    exact congrArg some (byte_toNat small)

theorem value16_iff (v : List Byte) (n : Nat) : value16 v = some n ↔ n < 65536 ∧ v = le 2 n := by
  constructor
  · intro h
    unfold value16 at h
    split at h
    next a b =>
      obtain rfl := Option.some.inj h
      have ha := a.isLt
      have hb := b.isLt
      have value : fromLe [a, b] = a.toNat + 256 * b.toNat := by simp [fromLe]
      have bounded : within 0 65535 (value16 [a, b]) = some (fromLe [a, b]) :=
        within_of (Nat.zero_le _) (by omega)
      exact ⟨by omega, (within16_some bounded).2.2⟩
    next => cases h
  · rintro ⟨small, rfl⟩
    exact value16_bytes small

theorem within_eq_some (lo hi n : Nat) (x : Option Nat) : within lo hi x = some n ↔ lo ≤ n ∧ n ≤ hi ∧ x = some n := by
  constructor
  · intro h
    obtain ⟨lower, upper⟩ := within_some h
    obtain ⟨y, rfl, hy⟩ := Option.bind_eq_some_iff.mp h
    rw [Option.ite_none_right_eq_some] at hy
    exact ⟨lower, upper, hy.2⟩
  · rintro ⟨lower, upper, rfl⟩
    exact within_of lower upper

theorem within8_iff (small : hi < 256) : within lo hi (value8 v) = some n ↔ lo ≤ n ∧ n ≤ hi ∧ v = [byte n] := by
  rw [within_eq_some, value8_iff]
  constructor
  · exact fun ⟨lower, upper, _, e⟩ => ⟨lower, upper, e⟩
  · exact fun ⟨lower, upper, e⟩ => ⟨lower, upper, by omega, e⟩

theorem within16_iff (small : hi < 65536) : within lo hi (value16 v) = some n ↔ lo ≤ n ∧ n ≤ hi ∧ v = le 2 n := by
  rw [within_eq_some, value16_iff]
  constructor
  · exact fun ⟨lower, upper, _, e⟩ => ⟨lower, upper, e⟩
  · exact fun ⟨lower, upper, e⟩ => ⟨lower, upper, by omega, e⟩

/-- A reader of one byte that takes the numbers of `number` and no other reads the byte of the number. -/
theorem reads_iff {α : Type} {read : Option Nat → Option α} {number : α → Nat} (small : ∀ a, number a < 256)
    (iff : ∀ x a, read x = some a ↔ x = some (number a)) (a : α) :
    read (value8 v) = some a ↔ v = [byte (number a)] := by
  rw [iff, value8_iff]
  exact and_iff_right (small a)

theorem asFlag_iff (b : Bool) : asFlag (value8 v) = some b ↔ v = [flag b] := by
  have byte_flag : flag b = byte b.toNat := by cases b <;> rfl
  rw [byte_flag]
  refine reads_iff (fun a => by cases a <;> decide) (fun x a => ⟨fun h => ?_, fun h => ?_⟩) b
  · unfold asFlag at h
    split at h <;> cases h <;> rfl
  · rw [h]
    cases a <;> rfl

theorem asClass_iff (c : LayerClass) : asClass (value8 v) = some c ↔ v = [byte c.number] := by
  refine reads_iff (fun a => by cases a <;> decide) (fun x a => ⟨fun h => ?_, fun h => ?_⟩) c
  · unfold asClass at h
    split at h <;> cases h <;> rfl
  · rw [h]
    cases a <;> rfl

theorem asKind_iff (k : LayerKind) : asKind (value8 v) = some k ↔ v = [byte k.number] := by
  refine reads_iff (fun a => by cases a <;> decide) (fun x a => ⟨fun h => ?_, fun h => ?_⟩) k
  · unfold asKind at h
    split at h <;> cases h <;> rfl
  · rw [h, asKind_number]

theorem asBlink_iff (b : Blink) : asBlink (value8 v) = some b ↔ v = [byte b.number] := by
  refine reads_iff (fun a => by cases a <;> decide) (fun x a => ⟨fun h => ?_, fun h => ?_⟩) b
  · unfold asBlink at h
    split at h <;> cases h <;> rfl
  · rw [h, asBlink_number]

/-- The byte of a key index, or of NONE. -/
def keyByte : Option (Fin 16) → Byte
  | some k => byte k.val
  | none => 0xFF#8

theorem asKey_iff (key : Option (Fin 16)) : asKey (value8 v) = some key ↔ v = [keyByte key] := by
  constructor
  · intro h
    unfold asKey at h
    split at h
    next e =>
      obtain rfl := Option.some.inj h
      exact ((value8_iff v 255).mp e).2
    next x _ e =>
      obtain ⟨k, hk, rfl⟩ := Option.map_eq_some_iff.mp h
      obtain ⟨small, rfl⟩ := (value8_iff v x).mp e
      rw [← byte_toNat small] at hk
      rw [paletteOf_some hk]
      rfl
    next => cases h
  · rintro rfl
    cases key with
    | none => rfl
    | some k => exact asKey_byte k

/-- A reader of a byte that reads `byte (number a)` as `a`, and nothing else so. -/
theorem bind_iff {α : Type} {read : Nat → Option α} {number : α → Nat}
    (some_ : ∀ (b : Byte) a, read b.toNat = some a → b = byte (number a)) (byte_ : ∀ a, read (byte (number a)).toNat = some a)
    (a : α) : (value8 v).bind read = some a ↔ v = [byte (number a)] := by
  rw [Option.bind_eq_some_iff]
  constructor
  · rintro ⟨x, hx, ha⟩
    obtain ⟨hs, rfl⟩ := (value8_iff v x).mp hx
    rw [← byte_toNat hs] at ha
    exact congrArg ([·]) (some_ _ a ha)
  · rintro rfl
    exact ⟨_, rfl, byte_ a⟩

theorem regionOf_some {b : Byte} {k : Fin 16} (h : regionOf b.toNat = some k) : b = byte k.val := by
  unfold regionOf at h
  split at h
  · cases h
    exact byte_of_toNat rfl
  · cases h

theorem readCamera_iff (k : Fin 4) : (value8 v).bind cameraOf = some k ↔ v = [byte k.val] :=
  bind_iff (number := Fin.val) (fun _ _ => cameraOf_some) cameraOf_byte k

theorem readRegion_iff (k : Fin 16) : (value8 v).bind regionOf = some k ↔ v = [byte k.val] :=
  bind_iff (number := Fin.val) (fun _ _ => regionOf_some) regionOf_byte k

theorem readPalette_iff (k : Fin 16) : (value8 v).bind paletteOf = some k ↔ v = [byte k.val] :=
  bind_iff (number := Fin.val) (fun _ _ => paletteOf_some) paletteOf_byte k

theorem wholeCondition_iff (ts : List Term) :
    whole (readCondition v) = some ts ↔ ts.length ≤ 4 ∧ v = byte ts.length :: termBytes ts := by
  constructor
  · intro h
    obtain ⟨few, e⟩ := readCondition_some (whole_some h)
    exact ⟨few, by rw [e, List.append_nil]⟩
  · rintro ⟨few, rfl⟩
    have reads := readCondition_bytes ts [] few
    rw [List.append_nil] at reads
    rw [reads]
    rfl

/-- Segments with every endpoint on the canvas (R10). -/
def SegmentsInRange (ss : List Segment) : Prop :=
  ∀ x ∈ ss, x.x0 ≤ 1279 ∧ x.y0 ≤ 719 ∧ x.x1 ≤ 1279 ∧ x.y1 ≤ 719

theorem wholeSegments_iff (ss : List Segment) : whole (readSegmentList v) = some ss
    ↔ ss.length ≤ 6 ∧ SegmentsInRange ss ∧ v = byte ss.length :: segmentBytes ss := by
  constructor
  · intro h
    have read := whole_some h
    obtain ⟨few, range⟩ := readSegmentList_inRange read
    exact ⟨few, range, by rw [readSegmentList_some read, List.append_nil]⟩
  · rintro ⟨few, range, rfl⟩
    have reads := readSegmentList_bytes ss [] few range
    rw [List.append_nil] at reads
    rw [reads]
    rfl

end Values

/-! ## Kind parts -/

section Parts

variable {r w : LayerRecord}

theorem LayerRecord.onCamera_iff (f : CameraPart → CameraPart) :
    r.onCamera f = some w ↔ ∃ c, r.part = .camera c ∧ w = { r with part := .camera (f c) } := by
  unfold LayerRecord.onCamera
  split
  next c h => simp [h, eq_comm]
  next h => simpa using fun c e => absurd e (h c)

theorem LayerRecord.onBitmap_iff (f : BitmapPart → BitmapPart) :
    r.onBitmap f = some w ↔ ∃ b, r.part = .bitmap b ∧ w = { r with part := .bitmap (f b) } := by
  unfold LayerRecord.onBitmap
  split
  next b h => simp [h, eq_comm]
  next h => simpa using fun b e => absurd e (h b)

theorem LayerRecord.onGuide_iff (f : GuidePart → GuidePart) :
    r.onGuide f = some w ↔ ∃ g, r.part = .guide g ∧ w = { r with part := .guide (f g) } := by
  unfold LayerRecord.onGuide
  split
  next g h => simp [h, eq_comm]
  next h => simpa using fun g e => absurd e (h g)

theorem LayerRecord.onFill_iff (k : Fin 16) :
    r.onFill k = some w ↔ ∃ j, r.part = .fill j ∧ w = { r with part := .fill k } := by
  unfold LayerRecord.onFill
  split
  next j h => simp [h, eq_comm]
  next h => simpa using fun j e => absurd e (h j)

end Parts

section Fields

variable {r w : LayerRecord} {α : Type} {x : Option α}

theorem map_field_iff {f : α → LayerRecord} : x.map f = some w ↔ ∃ a, x = some a ∧ w = f a := by
  simp only [Option.map_eq_some_iff, eq_comm]

/-- A field of a part: the part is present and the value is read. -/
theorem bind_part_iff {β : Type} {part : β → KindPart} {write : α → LayerRecord → Option LayerRecord}
    {f : α → β → KindPart}
    (h : ∀ a, write a r = some w ↔ ∃ c, r.part = part c ∧ w = { r with part := f a c }) :
    (x.bind fun a => write a r) = some w ↔ ∃ c a, r.part = part c ∧ x = some a ∧ w = { r with part := f a c } := by
  simp only [Option.bind_eq_some_iff, h]
  exact ⟨fun ⟨a, ha, c, hc, hw⟩ => ⟨c, a, hc, ha, hw⟩, fun ⟨c, a, hc, ha, hw⟩ => ⟨a, ha, c, hc, hw⟩⟩

theorem camera_field_iff {f : α → CameraPart → CameraPart} : (x.bind fun a => r.onCamera (f a)) = some w
    ↔ ∃ c a, r.part = .camera c ∧ x = some a ∧ w = { r with part := .camera (f a c) } :=
  bind_part_iff (write := fun a r => r.onCamera (f a)) fun a => LayerRecord.onCamera_iff (f a)

theorem bitmap_field_iff {f : α → BitmapPart → BitmapPart} : (x.bind fun a => r.onBitmap (f a)) = some w
    ↔ ∃ b a, r.part = .bitmap b ∧ x = some a ∧ w = { r with part := .bitmap (f a b) } :=
  bind_part_iff (write := fun a r => r.onBitmap (f a)) fun a => LayerRecord.onBitmap_iff (f a)

theorem guide_field_iff {f : α → GuidePart → GuidePart} : (x.bind fun a => r.onGuide (f a)) = some w
    ↔ ∃ g a, r.part = .guide g ∧ x = some a ∧ w = { r with part := .guide (f a g) } :=
  bind_part_iff (write := fun a r => r.onGuide (f a)) fun a => LayerRecord.onGuide_iff (f a)

theorem fill_field_iff {x : Option (Fin 16)} : x.bind r.onFill = some w
    ↔ ∃ k j, r.part = .fill j ∧ x = some k ∧ w = { r with part := .fill k } := by
  simp only [Option.bind_eq_some_iff, LayerRecord.onFill_iff]
  exact ⟨fun ⟨k, hk, j, hj, hw⟩ => ⟨k, j, hj, hk, hw⟩, fun ⟨k, j, hj, hk, hw⟩ => ⟨k, hk, j, hj, hw⟩⟩

theorem id_of_toNat {id : Byte} {n : Nat} (h : id.toNat = n) : id = BitVec.ofNat 8 n := by
  subst h
  simp

end Fields

theorem EditPair.writesSafety_iff_byte (id : Byte) (v : List Byte) :
    (⟨id, v⟩ : EditPair).writesSafety = true ↔ id = 0x02#8 ∧ v = [1#8] := by
  rw [EditPair.writesSafety_iff, asClass_iff]
  rfl

section Pairs

variable {p : Port} {r w : LayerRecord} {id : Byte} {v : List Byte} (rest : List EditPair)

theorem applyPairs_rank (h : p ≠ .body ∧ id = 0x02#8 ∧ v = [1#8]) :
    applyPairs p (⟨id, v⟩ :: rest) r = .error (.rankRefused, 0x02#8) := by
  obtain ⟨other, safety⟩ := h
  rw [applyPairs, if_pos]
  exact Bool.and_eq_true_iff.mpr ⟨(EditPair.writesSafety_iff_byte id v).mpr safety, decide_eq_true other⟩

theorem not_rank (h : ¬ (p ≠ .body ∧ id = 0x02#8 ∧ v = [1#8])) :
    ¬ ((⟨id, v⟩ : EditPair).writesSafety && decide (p ≠ .body)) = true := by
  rw [Bool.and_eq_true, EditPair.writesSafety_iff_byte, decide_eq_true_iff]
  exact fun ⟨safety, other⟩ => h ⟨other, safety⟩

theorem applyPairs_written (h : ¬ (p ≠ .body ∧ id = 0x02#8 ∧ v = [1#8])) (written : r.writeField id.toNat v = some w) :
    applyPairs p (⟨id, v⟩ :: rest) r = applyPairs p rest w := by
  rw [applyPairs, if_neg (not_rank h), written]

theorem applyPairs_bad (h : ¬ (p ≠ .body ∧ id = 0x02#8 ∧ v = [1#8])) (bad : r.writeField id.toNat v = none) :
    applyPairs p (⟨id, v⟩ :: rest) r = .error (.badField, id) := by
  rw [applyPairs, if_neg (not_rank h), bad]

end Pairs

/-! ## Ranges (R12) -/

/-- A kind's part with every field in its range (R12). -/
def KindPart.InRange : KindPart → Prop
  | .camera c => c.cropX ≤ 1264 ∧ c.cropY ≤ 944 ∧ 16 ≤ c.cropW ∧ c.cropW ≤ 1280 ∧ 16 ≤ c.cropH ∧ c.cropH ≤ 960
  | .bitmap b => 1 ≤ b.width ∧ b.width ≤ 1280 ∧ 1 ≤ b.height ∧ b.height ≤ 720
  | .guide g => 1 ≤ g.width ∧ g.width ≤ 4 ∧ g.segments.length ≤ 6 ∧ SegmentsInRange g.segments
  | .fill _ => True

theorem LayerRecord.InRange.part {r : LayerRecord} (range : r.InRange) : r.part.InRange := by
  obtain ⟨-, -, -, -, -, -, -, -, -, part⟩ := range
  cases h : r.part <;> rw [h] at part <;> exact part

/-- Another part in range keeps the record in range. -/
theorem LayerRecord.InRange.withPart {r : LayerRecord} (range : r.InRange) {part : KindPart} (h : part.InRange) :
    LayerRecord.InRange { r with part := part } := by
  obtain ⟨z, x, y, w, w', hh, hh', alpha, few, -⟩ := range
  refine ⟨z, x, y, w, w', hh, hh', alpha, few, ?_⟩
  cases part <;> exact h

theorem LayerKind.defaultPart_inRange (k : LayerKind) : k.defaultPart.InRange := by
  cases k <;> simp [LayerKind.defaultPart, KindPart.InRange, SegmentsInRange]

theorem LayerRecord.InRange.withKind {r : LayerRecord} (range : r.InRange) (k : LayerKind) : (r.withKind k).InRange := by
  unfold LayerRecord.withKind
  split
  · exact range
  · exact range.withPart k.defaultPart_inRange

section Written

variable {r w : LayerRecord} {α : Type} {x : Option α}

/-- A camera field that is written in range, whatever the part held in range. -/
theorem LayerRecord.InRange.onCamera (range : r.InRange) {f : α → CameraPart → CameraPart}
    (h : (x.bind fun a => r.onCamera (f a)) = some w)
    (keeps : ∀ a c, x = some a → (KindPart.camera c).InRange → (KindPart.camera (f a c)).InRange) : w.InRange := by
  obtain ⟨c, a, part, read, rfl⟩ := camera_field_iff.mp h
  exact range.withPart (keeps a c read (part ▸ range.part))

theorem LayerRecord.InRange.onBitmap (range : r.InRange) {f : α → BitmapPart → BitmapPart}
    (h : (x.bind fun a => r.onBitmap (f a)) = some w)
    (keeps : ∀ a b, x = some a → (KindPart.bitmap b).InRange → (KindPart.bitmap (f a b)).InRange) : w.InRange := by
  obtain ⟨b, a, part, read, rfl⟩ := bitmap_field_iff.mp h
  exact range.withPart (keeps a b read (part ▸ range.part))

theorem LayerRecord.InRange.onGuide (range : r.InRange) {f : α → GuidePart → GuidePart}
    (h : (x.bind fun a => r.onGuide (f a)) = some w)
    (keeps : ∀ a g, x = some a → (KindPart.guide g).InRange → (KindPart.guide (f a g)).InRange) : w.InRange := by
  obtain ⟨g, a, part, read, rfl⟩ := guide_field_iff.mp h
  exact range.withPart (keeps a g read (part ▸ range.part))

theorem LayerRecord.InRange.onFill (range : r.InRange) {x : Option (Fin 16)} (h : x.bind r.onFill = some w) :
    w.InRange := by
  obtain ⟨k, j, -, -, rfl⟩ := fill_field_iff.mp h
  exact range.withPart trivial

/-- A field that is written leaves every field in its range. -/
theorem LayerRecord.InRange.writeField (range : r.InRange) {id : Nat} {v : List Byte}
    (h : r.writeField id v = some w) : w.InRange := by
  have fields := range
  obtain ⟨zr, xr, yr, wr, wr', hr, hr', ar, few, part⟩ := fields
  unfold LayerRecord.writeField at h
  split at h
  case h_28 => cases h
  case h_1 | h_2 | h_11 | h_12 =>
    obtain ⟨_, -, rfl⟩ := map_field_iff.mp h
    exact range
  case h_3 =>
    obtain ⟨k, -, rfl⟩ := map_field_iff.mp h
    exact range.withKind k
  case h_4 =>
    obtain ⟨_, read, rfl⟩ := map_field_iff.mp h
    exact ⟨(within_some read).2, xr, yr, wr, wr', hr, hr', ar, few, part⟩
  case h_5 =>
    obtain ⟨_, read, rfl⟩ := map_field_iff.mp h
    exact ⟨zr, (within_some read).2, yr, wr, wr', hr, hr', ar, few, part⟩
  case h_6 =>
    obtain ⟨_, read, rfl⟩ := map_field_iff.mp h
    exact ⟨zr, xr, (within_some read).2, wr, wr', hr, hr', ar, few, part⟩
  case h_7 =>
    obtain ⟨_, read, rfl⟩ := map_field_iff.mp h
    exact ⟨zr, xr, yr, (within_some read).1, (within_some read).2, hr, hr', ar, few, part⟩
  case h_8 =>
    obtain ⟨_, read, rfl⟩ := map_field_iff.mp h
    exact ⟨zr, xr, yr, wr, wr', (within_some read).1, (within_some read).2, ar, few, part⟩
  case h_9 =>
    obtain ⟨_, read, rfl⟩ := map_field_iff.mp h
    exact ⟨zr, xr, yr, wr, wr', hr, hr', (within_some read).2, few, part⟩
  case h_10 =>
    obtain ⟨ts, read, rfl⟩ := map_field_iff.mp h
    exact ⟨zr, xr, yr, wr, wr', hr, hr', ar, ((wholeCondition_iff ts).mp read).1, part⟩
  case h_13 | h_18 | h_19 => exact range.onCamera h fun _ _ _ held => held
  case h_14 => exact range.onCamera h fun _ _ read ⟨_, y, w⟩ => ⟨(within_some read).2, y, w⟩
  case h_15 => exact range.onCamera h fun _ _ read ⟨x, _, w⟩ => ⟨x, (within_some read).2, w⟩
  case h_16 =>
    exact range.onCamera h fun _ _ read ⟨x, y, _, _, h⟩ => ⟨x, y, (within_some read).1, (within_some read).2, h⟩
  case h_17 =>
    exact range.onCamera h fun _ _ read ⟨x, y, w, w', _⟩ => ⟨x, y, w, w', within_some read⟩
  case h_20 | h_23 => exact range.onBitmap h fun _ _ _ held => held
  case h_21 =>
    exact range.onBitmap h fun _ _ read ⟨_, _, h⟩ => ⟨(within_some read).1, (within_some read).2, h⟩
  case h_22 => exact range.onBitmap h fun _ _ read ⟨w, w', _⟩ => ⟨w, w', within_some read⟩
  case h_24 => exact range.onGuide h fun _ _ _ held => held
  case h_25 =>
    exact range.onGuide h fun _ _ read ⟨_, _, ss⟩ => ⟨(within_some read).1, (within_some read).2, ss⟩
  case h_26 =>
    refine range.onGuide h fun ss _ read ⟨w, w', _⟩ => ⟨w, w', ?_⟩
    obtain ⟨few, segments, -⟩ := (wholeSegments_iff ss).mp read
    exact ⟨few, segments⟩
  case h_27 => exact range.onFill h

end Written

/-- Settles O33: the rule's table is `LayerRecord.writeField`, field by field, through what each value's reader reads. -/
theorem editPairsByRule : Obligations.EditPairsByRule := by
  refine ⟨fun p r accepts rule => ?_, fun r w id v range written => range.writeField written⟩
  have field : ∀ id v w, accepts id v w ↔ r.writeField id.toNat v = some w := by
    intro id v w
    rw [rule]
    unfold LayerRecord.writeField
    split
    case h_28 =>
      clear rule
      refine iff_of_false (fun h => ?_) nofun
      simp only [imp_false] at *
      simp only [← BitVec.toNat_inj, BitVec.reduceToNat, *, false_and, or_self] at h
    all_goals
      rename_i e
      obtain rfl := id_of_toNat e
      simp only [BitVec.reduceEq, false_and, true_and, false_or, or_false, map_field_iff, camera_field_iff,
        bitmap_field_iff, guide_field_iff, fill_field_iff, within8_iff, within16_iff, Nat.reduceLT, asFlag_iff,
        asClass_iff, asKind_iff, asBlink_iff, asKey_iff, readCamera_iff, readRegion_iff, readPalette_iff,
        wholeCondition_iff, wholeSegments_iff, Nat.zero_le, and_assoc] <;> exact Iff.rfl
  refine ⟨rfl, fun rest id v => ⟨applyPairs_rank rest, fun other => ⟨fun w taken => ?_, fun none => ?_⟩⟩⟩
  · exact applyPairs_written rest other ((field id v w).mp taken)
  · exact applyPairs_bad rest other (Option.eq_none_iff_forall_ne_some.mpr fun w written => none w ((field id v w).mpr written))

end Sys2Proof.Machine

/-! The reading requests and SUBSCRIBE (R23, R86, R102, R112, R126, R170, R172, R187): the bytes of each answer. -/

namespace Sys2Proof.Machine

section Reads

variable {s : State} {p : Port} {r : Request}

/-! ## Each request's answer -/

theorem exec_identify_of_reaches (h : s.Reaches p .identify r) :
    exec (.identify p) s = .next (s.replied p r .done 0#8 (identifyValues s)) := by
  change execIdentify p s = _
  rw [execIdentify, serve_of_reaches s p h, State.taken_done]
  rfl

theorem exec_readSignals_of_reaches (h : s.Reaches p .readSignals r) :
    exec (.readSignals p) s = .next (s.replied p r .done 0#8 s.scn.values) := by
  change execReadSignals p s = _
  rw [execReadSignals, serve_of_reaches s p h, State.taken_done, State.taken_scn]

theorem exec_readMarkers_of_reaches (h : s.Reaches p .readMarkers r) :
    exec (.readMarkers p) s = .next (s.replied p r .done 0#8 s.mkm.values) := by
  change execReadMarkers p s = _
  rw [execReadMarkers, serve_of_reaches s p h, State.taken_done, State.taken_mkm]

theorem exec_readRegions_of_reaches (h : s.Reaches p .readRegions r) :
    exec (.readRegions p) s = .next (s.replied p r .done 0#8 s.ovm.values) := by
  change execReadRegions p s = _
  rw [execReadRegions, serve_of_reaches s p h, State.taken_done, State.taken_ovm]

theorem exec_cameraStatus_of_reaches (h : s.Reaches p .cameraStatus r) :
    exec (.cameraStatus p) s = .next (s.replied p r .done 0#8 s.cams.statusValues) := by
  change execCameraStatus p s = _
  rw [execCameraStatus, serve_of_reaches s p h, State.taken_done, State.taken_cams]

/-! ## The bytes -/

/-- A vector's bytes, entry by entry. -/
theorem flatMap_toList {α : Type} {n : Nat} (v : Vector α n) (f : α → List Byte) :
    v.toList.flatMap f = (List.finRange n).flatMap (fun i => f v[i]) := by
  rw [vector_toList_eq_map, List.flatMap_map]

/-- The bits of a vector of at most eight. -/
theorem getLsbD_byte_vector {n : Nat} (v : Vector Bool n) (small : n ≤ 8) (k : Nat) :
    (byte (bitsToNat v.toList)).getLsbD k = v.toList.getD k false :=
  getLsbD_byte_bitsToNat _ (by rw [Vector.length_toList]; exact small) k

theorem toList_getD {n : Nat} (v : Vector Bool n) (k : Fin n) : v.toList.getD k.val false = v[k] := by
  simp [List.getD_eq_getElem?_getD]

theorem Conditioner.signalBits (c : Conditioner) (k : Fin 18) :
    ((le 3 (bitsToNat c.view.toList)).getD (k.val / 8) 0#8).getLsbD (k.val % 8) = c.signal k := by
  rw [getLsbD_le _ _ _ (by omega), testBit_bitsToNat, toList_getD]
  exact ofFn_get _ k

theorem Conditioner.values_eq (c : Conditioner) : c.values = le 3 (bitsToNat c.view.toList)
    ++ (List.finRange 8).flatMap (fun n => c.inputs[n].bytes) ++ le 2 c.speed ++ [flag c.stale] ++ le 2 c.stopThreshold
    ++ le 2 c.slowThreshold ++ le 2 (c.age.getD 0) ++ [byte c.wakeRecord.length]
    ++ c.wakeRecord.map (fun n => byte n.val) := by
  rw [Conditioner.values, flatMap_toList, Conditioner.speedBytes]
  simp only [List.append_assoc, List.cons_append, List.nil_append]

theorem MarkerMap.values_eq (m : MarkerMap) : m.values = le 2 m.threshold ++ [byte m.markers.length]
    ++ m.markers.flatMap (fun x => le 2 x.track ++ [byte x.camera.val] ++ le 2 x.boxX ++ le 2 x.boxY ++ le 2 x.boxW
      ++ le 2 x.boxH ++ [byte x.cls.number] ++ le 2 x.range ++ [byte x.ttl, byte x.age, flag x.near]) := by
  simp only [MarkerMap.values, Marker.itemBytes, List.append_assoc, List.cons_append, List.nil_append]

/-- The number of jobs. -/
theorem Overlay.jobCount_eq (o : Overlay) :
    o.jobCount = ([Port.body, .detect, .cab].filter (fun q => (o.jobs.get q).isSome)).length := by
  have count : ∀ jobs : PerPort (Option Job), countIf jobs.body.isSome + countIf jobs.detect.isSome
      + countIf jobs.cab.isSome = ([Port.body, .detect, .cab].filter (fun q => (jobs.get q).isSome)).length := by
    rintro ⟨body, detect, cab⟩
    cases body <;> cases detect <;> cases cab <;> rfl
  exact count o.jobs

theorem Overlay.values_eq (o : Overlay) : o.values = (List.finRange 16).flatMap (fun g => regionBytes o.regions[g])
    ++ [byte o.corrected, byte ([Port.body, .detect, .cab].filter (fun q => (o.jobs.get q).isSome)).length]
    ++ [Port.body, .detect, .cab].flatMap (fun q => jobBytes q (o.jobs.get q)) := by
  rw [Overlay.values, flatMap_toList, Overlay.jobCount_eq]
  simp only [List.flatMap_cons, List.flatMap_nil, PerPort.get_body, PerPort.get_detect, PerPort.get_cab,
    List.append_nil, List.append_assoc]

end Reads

/-- The sequence number of a slot that a search finds, or that of none (R86). -/
theorem seqBytes_eq {x : CameraLink} {found : Option (Fin 3 × CameraFrame)} {state : CameraFrame → FrameSlot}
    {bytes : List Byte} (some_ : ∀ i f, found = some (i, f) → x.slots[i] = state f)
    (none_ : found = none → ∀ (i : Fin 3) f, x.slots[i] ≠ state f)
    (present : ∀ (i : Fin 3) f, x.slots[i] = state f → bytes = le 2 f.seq.toNat)
    (absent : (∀ (i : Fin 3) f, x.slots[i] ≠ state f) → bytes = [0xFF#8, 0xFF#8]) : seqBytes found = bytes := by
  cases h : found with
  | none => exact (absent (none_ h)).symm
  | some y => exact (present y.1 y.2 (some_ y.1 y.2 h)).symm

theorem CameraLink.heldSlot_some {x : CameraLink} {i : Fin 3} {f : CameraFrame} (h : x.heldSlot = some (i, f)) :
    x.slots[i] = .held f := by
  obtain ⟨j, -, hj⟩ := List.exists_of_findSome?_eq_some h
  split at hj <;> cases hj
  assumption

theorem CameraLink.readySlot_some {x : CameraLink} {i : Fin 3} {f : CameraFrame} (h : x.readySlot = some (i, f)) :
    x.slots[i] = .ready f := by
  obtain ⟨j, -, hj⟩ := List.exists_of_findSome?_eq_some h
  split at hj <;> cases hj
  assumption

theorem CameraLink.not_held_of_none {x : CameraLink} (h : x.heldSlot = none) (i : Fin 3) (f : CameraFrame) :
    x.slots[i] ≠ .held f := by
  intro hi
  have none := List.findSome?_eq_none_iff.mp h i (List.mem_finRange i)
  rw [hi] at none
  cases none

/-- CAMERA_STATUS's bytes, with the sequence numbers of each camera's HELD and READY slots (R86). -/
theorem Cameras.statusValues_eq (c : Cameras) {held ready : Fin 4 → List Byte}
    (hHeld : ∀ k : Fin 4, seqBytes c.links[k].heldSlot = held k)
    (hReady : ∀ k : Fin 4, seqBytes c.links[k].readySlot = ready k) : c.statusValues = byte c.source.number
      :: (List.finRange 4).flatMap (fun k => [byte c.links[k].link.number, flag c.links[k].power,
        byte (c.links[k].powerOff.getD 0), byte c.links[k].slots[0].number, byte c.links[k].slots[1].number,
        byte c.links[k].slots[2].number] ++ held k ++ ready k
        ++ [byte c.links[k].miss, byte c.links[k].fresh, byte c.links[k].starting, byte c.links[k].discards]) := by
  have slots : ∀ v : Vector FrameSlot 3, v.toList.map (fun y => byte y.number)
      = [byte v[0].number, byte v[1].number, byte v[2].number] := by
    intro v
    rw [vector_toList_eq_map]
    rfl
  rw [Cameras.statusValues, flatMap_toList]
  simp only [CameraLink.statusBytes, slots, hHeld, hReady, List.cons_append, List.nil_append, List.append_assoc]

/-! ## SUBSCRIBE (R170) -/

section Subscribe

variable {s : State} {p : Port} {r : Request}

theorem State.taken_subscribe (s : State) (p : Port) (u : Subscription) :
    (s.taken p).modPort p (fun q => { q with subscription := u })
      = (s.setPorts (s.ports.set p { s.ports.get p with subscription := u })).taken p := by
  cases p <;> rfl

theorem exec_subscribe_of_reaches (h : s.Reaches p .subscribe r) {c l t k : Bool} (hc : r.arg 0 = flag c)
    (hl : r.arg 1 = flag l) (ht : r.arg 2 = flag t) (hk : r.arg 3 = flag k) :
    exec (.subscribe p) s = .next ((s.setPorts (s.ports.set p
      { s.ports.get p with subscription := ⟨c, l, t, k⟩ })).replied p r .done 0#8
        (s.ports.get p).subscription.bytes) := by
  change execSubscribe p s = _
  rw [execSubscribe, serve_of_reaches s p h, hc, hl, ht, hk]
  simp only [flagOf_flag, State.taken_subscribe, State.taken_done, State.taken_get]

theorem flag_toNat_le (b : Bool) : (flag b).toNat ≤ 1 := by cases b <;> decide

theorem exec_subscribe_of_bad (h : s.Reaches p .subscribe r) (bad : ∃ i : Nat, i < 4 ∧ 1 < (r.arg i).toNat) :
    exec (.subscribe p) s = .next (s.replied p r .badField 0x01#8 []) := by
  change execSubscribe p s = _
  rw [execSubscribe, serve_of_reaches s p h]
  split
  next hc hl ht hk =>
    obtain ⟨i, small, big⟩ := bad
    have value : ∀ {j : Nat} {b : Bool}, flagOf (r.arg j) = some b → (r.arg j).toNat ≤ 1 :=
      fun {j b} e => flagOf_some e ▸ flag_toNat_le b
    obtain rfl | rfl | rfl | rfl : i = 0 ∨ i = 1 ∨ i = 2 ∨ i = 3 := by omega
    · exact absurd (value hc) (by omega)
    · exact absurd (value hl) (by omega)
    · exact absurd (value ht) (by omega)
    · exact absurd (value hk) (by omega)
  next => rw [State.taken_badField]

end Subscribe

theorem cameraFlags_eq (mirror markers : Bool) :
    bitsToNat [mirror, markers] = (if mirror then 1 else 0) + (if markers then 2 else 0) := by
  cases mirror <;> cases markers <;> rfl

/-- Settles O26: each answer is the model's value list (`exec_…_of_reaches`), brought to the layout's form. -/
theorem readingRequestsAndSubscribe : Obligations.ReadingRequestsAndSubscribe := by
  refine ⟨fun p s r => ⟨fun h => ?identify, fun h => ?signals, fun h => ?markers, fun h => ?regions,
    fun h held ready someHeld noHeld someReady noReady => ?cameras, fun i h slot => ?layer, fun h => ⟨?subscribe, ?bad⟩⟩,
    fun r => ?record, ?numbers⟩
  case identify =>
    refine ⟨byte (bitsToNat s.cams.population.toList), fun k => ?_, fun k above => ?_, exec_identify_of_reaches h⟩
    · rw [getLsbD_byte_vector _ (by decide), toList_getD]
    · rw [getLsbD_byte_vector _ (by decide), List.getD_eq_getElem?_getD, List.getElem?_eq_none]
      · rfl
      · rwa [Vector.length_toList]
  case signals =>
    refine ⟨le 3 (bitsToNat s.scn.view.toList), le_length _ _, s.scn.signalBits, ?_⟩
    rw [exec_readSignals_of_reaches h, Conditioner.values_eq]
    rfl
  case markers => rw [exec_readMarkers_of_reaches h, MarkerMap.values_eq]
  case regions =>
    rw [exec_readRegions_of_reaches h, Overlay.values_eq]
    refine congrArg (fun v => Host.Outcome.next (s.replied p r .done 0#8 v)) ?_
    refine congrArg₂ (· ++ ·) (congrArg (· ++ _) (List.flatMap_congr fun g _ => ?_)) (List.flatMap_congr fun q _ => ?_)
    · cases s.ovm.regions[g] with
      | none => rfl
      | some x =>
        obtain ⟨owner, first, count, content⟩ := x
        cases content <;> rfl
    · cases s.ovm.jobs.get q <;> rfl
  case cameras =>
    rw [exec_cameraStatus_of_reaches h, Cameras.statusValues_eq (held := held) (ready := ready)]
    · exact fun k => seqBytes_eq (fun _ _ => CameraLink.heldSlot_some) CameraLink.not_held_of_none (someHeld k) (noHeld k)
    · refine fun k => seqBytes_eq (fun _ _ => CameraLink.readySlot_some) (fun none i f ready => ?_) (someReady k) (noReady k)
      exact CameraLink.readySlot_ne_none ready none
  case layer =>
    exact exec_readLayer_of_slot slot h
  case subscribe => exact fun c l t k hc hl ht hk => exec_subscribe_of_reaches h hc hl ht hk
  case bad => exact exec_subscribe_of_bad h
  case record =>
    obtain ⟨enabled, cls, z, x, y, w, h, alpha, terms, blink, record, part⟩ := r
    cases part with
    | camera c =>
      simp only [LayerRecord.bytes, KindPart.bytes, cameraFlags_eq, termBytes, List.cons_append, List.nil_append,
        List.append_assoc]
    | bitmap | guide | fill =>
      simp only [LayerRecord.bytes, KindPart.bytes, termBytes, segmentBytes, List.cons_append, List.nil_append,
        List.append_assoc] <;> rfl
  case numbers =>
    exact ⟨rfl, rfl, rfl, rfl, rfl, rfl, rfl, rfl, fun _ _ _ => rfl, rfl, rfl, rfl, fun _ _ _ => rfl, rfl, rfl, rfl⟩

end Sys2Proof.Machine

/-! RESET_PORT (R27, R35, R103, R120, R135, R171, R184): what it leaves of each block and of each port. -/

namespace Sys2Proof.Machine

/-! ## The request -/

section Request

variable {s : State} {p : Port} {r : Request}

/-- A RESET_PORT with no payload is taken whatever the places in use (R171). -/
theorem State.headIs_resetPort (head : (s.ports.get p).requests.head? = some r)
    (kind : r.kind = RequestKind.code .resetPort) (payload : r.payload = []) (high : s.pins.resetLow = false) :
    s.headIs p .resetPort = some r := by
  unfold State.headIs State.head
  cases hq : (s.ports.get p).requests with
  | nil => rw [hq] at head; cases head
  | cons a as =>
    rw [hq] at head
    obtain rfl : a = r := by simpa using head
    simp [State.executorFree, high, kind, payload]

/-- A port cleared is the same with or without its request. -/
theorem State.taken_clear (s : State) (p : Port) :
    (s.taken p).modPort p PortState.clear = s.modPort p PortState.clear := by
  cases p <;> rfl

theorem exec_resetPort_of_head (head : (s.ports.get p).requests.head? = some r)
    (kind : r.kind = RequestKind.code .resetPort) (payload : r.payload = []) (high : s.pins.resetLow = false) :
    exec (.resetPort p) s = .next (((s.modPort p PortState.clear).resetBlocks p).done p r []) := by
  have permitted : RequestKind.permitted .resetPort p = true := by cases p <;> rfl
  have fits : RequestKind.payloadFits .resetPort r.payload = true := by rw [payload]; rfl
  change execResetPort p s = _
  rw [execResetPort, serve, State.headIs_resetPort head kind payload high]
  simp only [permitted, fits, RequestKind.admitted, Bool.true_eq_false, if_false, State.dropRequest_eq,
    State.taken_clear]

end Request

/-! ## The port's job (R130, R135) -/

/-- The job that resumes as a port reset ends the port's job. -/
def PerPort.resumesAtReset (jobs : PerPort (Option Job)) (p : Port) : Option (Port × Job) :=
  match jobs.get p with
  | none => none
  | some j => if j.isVerifying then none else jobs.resumes p j

/-- Overlay Memory's block after a port reset. -/
def Overlay.portReset (o : Overlay) (p : Port) : Overlay :=
  match o.jobs.get p with
  | none => o
  | some j =>
    if j.isVerifying then o.setJob p (some { j with answerOpen := false }) else o.endedJob p j .empty

theorem State.resetJob_eq (s : State) (p : Port) :
    s.resetJob p = State.tellResumed (s.ovm.jobs.resumesAtReset p) (s.setOvm (s.ovm.portReset p)) := by
  unfold State.resetJob PerPort.resumesAtReset Overlay.portReset
  cases s.ovm.jobs.get p with
  | none => rfl
  | some j =>
    dsimp only
    split
    · rfl
    · exact s.endJob_eq p j .empty

section Job

variable {o : Overlay} {p q : Port} {j k : Job}

theorem Job.suspended_of_not (j : Job) (receiving : j.isReceiving = false) (verifying : j.isVerifying = false) :
    j.isSuspended = true := by
  unfold Job.isReceiving at receiving
  unfold Job.isVerifying at verifying
  unfold Job.isSuspended
  cases h : j.state <;> simp_all

theorem Overlay.portReset_of_none (h : o.jobs.get p = none) :
    o.portReset p = o ∧ o.jobs.resumesAtReset p = none := by
  rw [Overlay.portReset, PerPort.resumesAtReset, h]
  exact ⟨rfl, rfl⟩

theorem Overlay.portReset_of_verifying (h : o.jobs.get p = some j) (verifying : j.isVerifying = true) :
    o.portReset p = o.setJob p (some { j with answerOpen := false }) ∧ o.jobs.resumesAtReset p = none := by
  rw [Overlay.portReset, PerPort.resumesAtReset, h]
  exact ⟨if_pos verifying, if_pos verifying⟩

theorem Overlay.portReset_of_ended (h : o.jobs.get p = some j) (ended : j.isVerifying = false) :
    o.portReset p = o.endedJob p j .empty ∧ o.jobs.resumesAtReset p = o.jobs.resumes p j := by
  rw [Overlay.portReset, PerPort.resumesAtReset, h]
  exact ⟨if_neg (by rw [ended]; nofun), if_neg (by rw [ended]; nofun)⟩

/-- Another port's job resumes. -/
theorem PerPort.resumes_ne {jobs : PerPort (Option Job)} (h : jobs.resumes p j = some (q, k)) : q ≠ p := by
  rintro rfl
  unfold PerPort.resumes at h
  split at h
  · cases h
  · obtain ⟨hk, -⟩ := PerPort.firstJob_some h
    rw [PerPort.get_set_self] at hk
    cases hk

theorem PerPort.resumesAtReset_ne {jobs : PerPort (Option Job)} (h : jobs.resumesAtReset p = some (q, k)) : q ≠ p := by
  unfold PerPort.resumesAtReset at h
  split at h
  · cases h
  · split at h
    · cases h
    · exact PerPort.resumes_ne h

theorem Overlay.portReset_memory (o : Overlay) (p : Port) : (o.portReset p).memory = o.memory := by
  unfold Overlay.portReset
  split
  · rfl
  · split
    · rfl
    · exact Overlay.endedJob_keeps.1

theorem Overlay.endedJob_gone (o : Overlay) (p : Port) (j : Job) (c : RegionContent) :
    (o.endedJob p j c).jobs.get p = none := by
  cases h : o.jobs.resumes p j with
  | none => exact (Overlay.endedJob_get_of_none h p).trans (if_pos rfl)
  | some a =>
    rw [Overlay.endedJob_get_of_some (q := a.1) (k := a.2) h, if_neg (PerPort.resumes_ne (q := a.1) (k := a.2) h).symm,
      if_pos rfl]

theorem Overlay.endedJob_region (o : Overlay) (p : Port) (j : Job) (c : RegionContent) (g : Fin 16) :
    (o.endedJob p j c).regions[g]
      = if g = j.region then o.regions[g].map (fun x => { x with content := c }) else o.regions[g] := by
  have content : (o.setContent j.region c).regions[g]
      = if g = j.region then o.regions[g].map (fun x => { x with content := c }) else o.regions[g] := by
    rw [Overlay.setContent_get]
    split_ifs with h
    · rw [h]
    · rfl
  unfold Overlay.endedJob
  split <;> exact content

end Job

/-! ## Every block -/

/-- Telling the port of the resumed job changes the ports alone. -/
theorem State.tellResumed_shape (x : Option (Port × Job)) (u : State) : ∃ ports, State.tellResumed x u = u.setPorts ports := by
  cases x with
  | none => exact ⟨u.ports, (State.setPorts_self u).symm⟩
  | some a => exact ⟨_, rfl⟩

/-- Other ports than the one told stay. -/
theorem State.tellResumed_get {x : Option (Port × Job)} {u : State} {p : Port} (h : ∀ q k, x = some (q, k) → q ≠ p) :
    (State.tellResumed x u).ports.get p = u.ports.get p := by
  cases x with
  | none => rfl
  | some a => exact State.modPort_get_of_ne _ _ _ _ (h a.1 a.2 rfl).symm

/-- The state with the blocks' rules of a port reset applied, but for the port's job. -/
def State.resetOthers (s : State) (p : Port) : State :=
  let t := s.setLtb (s.ltb.portReset p)
  let t := t.setScn (t.scn.portReset p)
  let t := if p = .detect then t.setMarkers [] else t
  let t := t.setStc (t.stc.portReset p)
  t.setFst (t.fst.portReset p)

section Others

variable (s : State) (p : Port)

theorem State.resetBlocks_resetJob : s.resetBlocks p = (s.resetOthers p).resetJob p := rfl

theorem State.resetOthers_ports : (s.resetOthers p).ports = s.ports := by
  unfold State.resetOthers
  dsimp only
  split <;> simp [State.setMarkers]

theorem State.resetOthers_ltb : (s.resetOthers p).ltb = s.ltb.portReset p := by
  unfold State.resetOthers
  dsimp only
  split <;> simp [State.setMarkers]

theorem State.resetOthers_ovm : (s.resetOthers p).ovm = s.ovm := by
  unfold State.resetOthers
  dsimp only
  split <;> simp [State.setMarkers]

theorem State.resetOthers_stc : (s.resetOthers p).stc = s.stc.portReset p := by
  unfold State.resetOthers
  dsimp only
  split <;> simp [State.setMarkers]

theorem State.resetOthers_fst : (s.resetOthers p).fst = s.fst.portReset p := by
  unfold State.resetOthers
  dsimp only
  split <;> simp [State.setMarkers]

theorem State.resetOthers_kept : (s.resetOthers p).ftb = s.ftb ∧ (s.resetOthers p).cams = s.cams
    ∧ (s.resetOthers p).cmp = s.cmp := by
  unfold State.resetOthers
  dsimp only
  split <;> simp [State.setMarkers]

theorem State.resetOthers_scn : (s.resetOthers p).scn =
    if p = .detect then { s.scn.portReset p with near := anyNear [] } else s.scn.portReset p := by
  unfold State.resetOthers
  dsimp only
  split <;> simp [State.setMarkers]

theorem State.resetOthers_mkm : (s.resetOthers p).mkm = if p = .detect then { s.mkm with markers := [] } else s.mkm := by
  unfold State.resetOthers
  dsimp only
  split <;> simp [State.setMarkers]

end Others

theorem State.resetBlocks_eq (s : State) (p : Port) : s.resetBlocks p
    = State.tellResumed (s.ovm.jobs.resumesAtReset p) ((s.resetOthers p).setOvm (s.ovm.portReset p)) := by
  rw [State.resetBlocks_resetJob, State.resetJob_eq, State.resetOthers_ovm]

/-! ## The state after -/

/-- The state that a RESET_PORT leaves. -/
def State.afterReset (s : State) (p : Port) (r : Request) : State :=
  ((s.modPort p PortState.clear).resetBlocks p).done p r []

section After

variable (s : State) (p : Port) (r : Request)

/-- What does not see the ports is as the blocks' rules leave it. -/
theorem State.afterReset_of_blind {β : Type} {f : State → β} (blind : ∀ u x, f (u.setPorts x) = f u) :
    f (s.afterReset p r)
      = f (((s.modPort p PortState.clear).resetOthers p).setOvm (s.ovm.portReset p)) := by
  rw [State.afterReset, State.resetBlocks_eq]
  obtain ⟨ports, shape⟩ := State.tellResumed_shape ((s.modPort p PortState.clear).ovm.jobs.resumesAtReset p)
    (((s.modPort p PortState.clear).resetOthers p).setOvm ((s.modPort p PortState.clear).ovm.portReset p))
  rw [shape]
  exact (blind _ _).trans (blind _ _)

theorem State.afterReset_ltb : (s.afterReset p r).ltb = s.ltb.portReset p :=
  (s.afterReset_of_blind p r (f := State.ltb) fun _ _ => rfl).trans (State.resetOthers_ltb _ p)

theorem State.afterReset_ovm : (s.afterReset p r).ovm = s.ovm.portReset p :=
  s.afterReset_of_blind p r (f := State.ovm) fun _ _ => rfl

theorem State.afterReset_stc : (s.afterReset p r).stc = s.stc.portReset p :=
  (s.afterReset_of_blind p r (f := State.stc) fun _ _ => rfl).trans (State.resetOthers_stc _ p)

theorem State.afterReset_fst : (s.afterReset p r).fst = s.fst.portReset p :=
  (s.afterReset_of_blind p r (f := State.fst) fun _ _ => rfl).trans (State.resetOthers_fst _ p)

theorem State.afterReset_scn : (s.afterReset p r).scn =
    if p = .detect then { s.scn.portReset p with near := anyNear [] } else s.scn.portReset p :=
  (s.afterReset_of_blind p r (f := State.scn) fun _ _ => rfl).trans (State.resetOthers_scn _ p)

theorem State.afterReset_mkm : (s.afterReset p r).mkm = if p = .detect then { s.mkm with markers := [] } else s.mkm :=
  (s.afterReset_of_blind p r (f := State.mkm) fun _ _ => rfl).trans (State.resetOthers_mkm _ p)

theorem State.afterReset_kept : (s.afterReset p r).ftb = s.ftb ∧ (s.afterReset p r).cams = s.cams
    ∧ (s.afterReset p r).cmp = s.cmp := by
  obtain ⟨ftb, cams, cmp⟩ := State.resetOthers_kept (s.modPort p PortState.clear) p
  exact ⟨(s.afterReset_of_blind p r (f := State.ftb) fun _ _ => rfl).trans ftb,
    (s.afterReset_of_blind p r (f := State.cams) fun _ _ => rfl).trans cams,
    (s.afterReset_of_blind p r (f := State.cmp) fun _ _ => rfl).trans cmp⟩

theorem State.afterReset_virtual (v : Fin 6) :
    (s.afterReset p r).scn.virtuals[v] = if mayWriteVirtual p v then false else s.scn.virtuals[v] := by
  have virtuals : (s.afterReset p r).scn.virtuals = (s.scn.portReset p).virtuals := by
    rw [State.afterReset_scn]
    split <;> rfl
  have written : (s.scn.portReset p).virtuals[v] = (!mayWriteVirtual p v && s.scn.virtuals[v]) := ofFn_get _ v
  rw [virtuals, written]
  cases mayWriteVirtual p v <;> rfl

/-- The port itself: cleared, with the DONE as its only reply (R171). -/
theorem State.afterReset_get :
    (s.afterReset p r).ports.get p = (s.ports.get p).clear.post ⟨r.tag, r.kind, .done, 0#8, []⟩ := by
  rw [State.afterReset, State.done, State.answer, State.post, State.modPort_get, State.resetBlocks_eq,
    State.tellResumed_get fun _ _ => PerPort.resumesAtReset_ne, State.setOvm_ports, State.resetOthers_ports,
    State.modPort_get]

variable {p} {q : Port} (other : q ≠ p)
include other

/-- Another port sees a resumed job of its own told, and nothing else. -/
theorem State.afterReset_get_of_ne : (s.afterReset p r).ports.get q
    = (State.tellResumed (s.ovm.jobs.resumesAtReset p)
      (((s.modPort p PortState.clear).resetOthers p).setOvm (s.ovm.portReset p))).ports.get q := by
  rw [State.afterReset, State.done, State.answer, State.post, State.modPort_get_of_ne _ _ _ _ other,
    State.resetBlocks_eq]
  rfl

theorem State.resetOthers_get_of_ne : (((s.modPort p PortState.clear).resetOthers p).setOvm
    (s.ovm.portReset p)).ports.get q = s.ports.get q := by
  rw [State.setOvm_ports, State.resetOthers_ports, State.modPort_get_of_ne _ _ _ _ other]

theorem State.afterReset_get_untold (untold : ∀ q' k, s.ovm.jobs.resumesAtReset p = some (q', k) → q' ≠ q) :
    (s.afterReset p r).ports.get q = s.ports.get q := by
  rw [s.afterReset_get_of_ne r other, State.tellResumed_get untold, s.resetOthers_get_of_ne other]

theorem State.afterReset_get_told {k : Job} (told : s.ovm.jobs.resumesAtReset p = some (q, k)) :
    (s.afterReset p r).ports.get q = (s.raiseTo q .loadResumed k.region.val 0).ports.get q := by
  have ftb := (State.resetOthers_kept (s.modPort p PortState.clear) p).1
  rw [s.afterReset_get_of_ne r other, told, State.tellResumed, State.raiseTo, State.raiseTo, State.modPort_get,
    State.modPort_get, s.resetOthers_get_of_ne other, State.alertNow, State.alertNow, State.setOvm_ftb, ftb,
    State.modPort_ftb]

theorem State.afterReset_queues : ((s.afterReset p r).ports.get q).requests = (s.ports.get q).requests
    ∧ ((s.afterReset p r).ports.get q).replies = (s.ports.get q).replies := by
  by_cases told : ∃ k, s.ovm.jobs.resumesAtReset p = some (q, k)
  · obtain ⟨k, told⟩ := told
    rw [s.afterReset_get_told r other told]
    exact ⟨State.raiseTo_requests _ _ _ _ _ _, State.raiseTo_replies _ _ _ _ _ _⟩
  · rw [s.afterReset_get_untold r other]
    · exact ⟨rfl, rfl⟩
    · rintro q' k h rfl
      exact told ⟨k, h⟩

end After

theorem State.afterReset_openRequests (s : State) (p : Port) (r : Request) : (s.afterReset p r).openRequests p = 0 :=
  State.resetBlocks_unopened (s.modPort p PortState.clear) p

/-! ## The other ports (R130, R136) -/

section OtherPorts

variable {s : State} {p q : Port} (r : Request) {j : Job} (other : q ≠ p)
include other

/-- No job resumes where the port's job did not hold the place RECEIVING. -/
theorem State.afterReset_other_of_idle (idle : ∀ j, s.ovm.jobs.get p = some j → j.isReceiving = false) :
    (s.afterReset p r).ports.get q = s.ports.get q ∧ (s.afterReset p r).ovm.jobs.get q = s.ovm.jobs.get q := by
  rw [State.afterReset_ovm]
  cases hj : s.ovm.jobs.get p with
  | none =>
    obtain ⟨ovm, none⟩ := Overlay.portReset_of_none hj
    rw [ovm]
    exact ⟨s.afterReset_get_untold r other fun _ _ h => by (rw [none] at h; cases h), rfl⟩
  | some j =>
    cases verifying : j.isVerifying with
    | true =>
      obtain ⟨ovm, none⟩ := Overlay.portReset_of_verifying hj verifying
      rw [ovm, Overlay.setJob_get, if_neg other]
      exact ⟨s.afterReset_get_untold r other fun _ _ h => by (rw [none] at h; cases h), rfl⟩
    | false =>
      obtain ⟨ovm, ended⟩ := Overlay.portReset_of_ended hj verifying
      have suspended : j.isSuspended = true := j.suspended_of_not (idle j hj) verifying
      have none : s.ovm.jobs.resumes p j = none := if_pos suspended
      rw [ovm, Overlay.endedJob_get_of_none none, if_neg other]
      exact ⟨s.afterReset_get_untold r other fun _ _ h => by (rw [ended, none] at h; cases h), rfl⟩

variable (place : ∀ p q, s.ovm.jobs.holds p → s.ovm.jobs.holds q → p = q) (hj : s.ovm.jobs.get p = some j)
  (receiving : j.isReceiving = true)
include place hj receiving

/-- A port that has no job, or whose job does not resume, is left. -/
theorem State.afterReset_other_of_passed
    (passed : ∀ k, s.ovm.jobs.get q = some k → ∃ q' k', q' ≠ p ∧ s.ovm.jobs.get q' = some k' ∧ Port.number q' < Port.number q) :
    (s.afterReset p r).ports.get q = s.ports.get q ∧ (s.afterReset p r).ovm.jobs.get q = s.ovm.jobs.get q := by
  obtain ⟨ovm, ended⟩ := Overlay.portReset_of_ended hj (Job.receiving_place receiving).2
  have apart : ∀ q' k, s.ovm.jobs.resumes p j = some (q', k) → q' ≠ q := by
    rintro q' k h rfl
    obtain ⟨-, -, hk, least⟩ := PerPort.resumes_some place hj h
    obtain ⟨q'', k'', other'', hk'', lower⟩ := passed k hk
    exact absurd (least q'' k'' other'' hk'') (Nat.not_le.mpr lower)
  refine ⟨s.afterReset_get_untold r other fun q' k h => apart q' k (ended ▸ h), ?_⟩
  rw [State.afterReset_ovm, ovm]
  cases h : s.ovm.jobs.resumes p j with
  | none => rw [Overlay.endedJob_get_of_none h, if_neg other]
  | some a => rw [Overlay.endedJob_get_of_some (q := a.1) (k := a.2) h, if_neg (apart a.1 a.2 h).symm, if_neg other]

/-- The job of highest rank that waits goes on RECEIVING, and its port is told. -/
theorem State.afterReset_other_of_first {k : Job} (hk : s.ovm.jobs.get q = some k)
    (first : ∀ q' k', q' ≠ p → s.ovm.jobs.get q' = some k' → Port.number q ≤ Port.number q') :
    (s.afterReset p r).ovm.jobs.get q = some { k with state := .receiving 2000 }
    ∧ (s.afterReset p r).ports.get q = (s.raiseTo q .loadResumed k.region.val 0).ports.get q := by
  obtain ⟨ovm, ended⟩ := Overlay.portReset_of_ended hj (Job.receiving_place receiving).2
  have resumes : s.ovm.jobs.resumes p j = some (q, k) := by
    cases h : s.ovm.jobs.resumes p j with
    | none =>
      obtain suspended | empty := PerPort.resumes_none place hj h
      · rw [(Job.receiving_place receiving).1] at suspended
        cases suspended
      · rw [empty q other] at hk
        cases hk
    | some a =>
      obtain ⟨-, ne, ha, least⟩ := PerPort.resumes_some (q := a.1) (k := a.2) place hj h
      obtain rfl : a.1 = q := Port.number_injective (Nat.le_antisymm (least q k other hk) (first a.1 a.2 ne ha))
      obtain rfl : a.2 = k := Option.some.inj (ha.symm.trans hk)
      rfl
  rw [State.afterReset_ovm, ovm, Overlay.endedJob_get_of_some resumes, if_pos rfl]
  exact ⟨rfl, s.afterReset_get_told r other (ended.trans resumes)⟩

end OtherPorts

/-- Settles O27: the state after (`State.afterReset`), block by block and port by port. -/
theorem resetPortReturnsPort : Obligations.ResetPortReturnsPort := by
  intro p s r head kind payload high
  have get := s.afterReset_get p r
  have stc := s.afterReset_stc p r
  have fst := s.afterReset_fst p r
  have ovm := s.afterReset_ovm p r
  obtain ⟨ftb, cams, cmp⟩ := s.afterReset_kept p r
  have place : s.EngineGood → ∀ p q, s.ovm.jobs.holds p → s.ovm.jobs.holds q → p = q :=
    fun ⟨_, _, ⟨_, _, one⟩, _⟩ => one
  refine ⟨s.afterReset p r, exec_resetPort_of_head head kind payload high, by rw [get]; rfl,
    ⟨(s.ports.get p).nextStamp, by rw [get]; rfl⟩, by rw [get]; rfl, by rw [get]; rfl, by rw [get]; rfl,
    by rw [get]; rfl, by rw [get]; rfl, s.afterReset_openRequests p r, fun i => ?slots, fun q => ?sets,
    s.afterReset_virtual p r, fun detect => ?markers, fun other => ?map, fun e he other => ?entry, fun e he own => ?own_entry,
    fun none => ?no_entry, by rw [stc]; rfl, fun none => ?no_store, fun x hx => ?store, ?memory, by rw [fst]; rfl,
    fun none => ?no_job, fun j hj verifying => ?verifying, fun j hj ended => ⟨?gone, fun g => ?regions⟩,
    fun good q other => ⟨s.afterReset_other_of_idle r other, fun j hj receiving => ⟨fun none => ?no_waiting,
      fun k hk => ⟨fun first => ?first, fun ⟨q', k', hq', hk', lower⟩ => ?passed⟩⟩⟩, fun q other => s.afterReset_queues r other,
    by rw [stc]; rfl, ftb, cams, cmp⟩
  case slots => rw [State.afterReset_ltb, LayerTable.portReset_slot]
  case sets => rw [State.afterReset_ltb, LayerTable.portReset_sets, PerPort.get_set]
  case markers =>
    rw [State.afterReset_mkm, State.afterReset_scn, if_pos detect, if_pos detect]
    exact ⟨rfl, rfl⟩
  case map => rw [State.afterReset_mkm, if_neg other]
  case entry => rw [stc, Controller.portReset, he, Option.filter_some, if_pos (decide_eq_true other)]
  case own_entry => rw [stc, Controller.portReset, he, Option.filter_some, if_neg (by simpa using own)]
  case no_entry => rw [stc, Controller.portReset, none, Option.filter_none]
  case no_store =>
    rw [fst, Fitting.portReset, none, Option.map_none, ← none]
  case store => rw [fst, Fitting.portReset, hx, Option.map_some]
  case memory => rw [ovm, Overlay.portReset_memory]
  case no_job => rw [ovm, (Overlay.portReset_of_none none).1]
  case verifying =>
    rw [ovm, (Overlay.portReset_of_verifying hj verifying).1]
    rfl
  case gone => rw [ovm, (Overlay.portReset_of_ended hj ended).1, Overlay.endedJob_gone]
  case regions => rw [ovm, (Overlay.portReset_of_ended hj ended).1, Overlay.endedJob_region]
  case no_waiting =>
    obtain ⟨ports, jobs⟩ := s.afterReset_other_of_passed r other (place good) hj receiving fun k hk => by
      rw [none] at hk; cases hk
    exact ⟨ports, jobs.trans none⟩
  case first => exact s.afterReset_other_of_first r other (place good) hj receiving hk first
  case passed =>
    obtain ⟨ports, jobs⟩ := s.afterReset_other_of_passed r other (place good) hj receiving
      fun _ _ => ⟨q', k', hq', hk', lower⟩
    exact ⟨jobs.trans hk, ports⟩

end Sys2Proof.Machine

/-! A good fitting record at the end of BOOT (R26, R47, R65, R68, R93, R182): what its checks say and what it sets. -/

namespace Sys2Proof.Machine

/-! ## The settings' checks (R182) -/

theorem polarityOf_some {b : Byte} {a : Polarity} (h : polarityOf b = some a) : byte a.number = b := by
  unfold polarityOf at h
  split_ifs at h with low high <;> cases h
  · exact low.symm
  · exact high.symm

theorem polarityOf_isSome_iff (b : Byte) : (polarityOf b).isSome = true ↔ b.toNat ≤ 1 := by
  revert b
  decide

theorem flagOf_isSome_iff (b : Byte) : (flagOf b).isSome = true ↔ b.toNat ≤ 1 := by
  revert b
  decide

theorem FittedInput.isGood_iff (x : FittedInput) :
    x.isGood = true ↔ x.polarity.toNat ≤ 1 ∧ x.debounce ≤ 250 ∧ x.debounce % 10 = 0 ∧ x.mask.toNat ≤ 1 := by
  simp only [FittedInput.isGood, Bool.and_eq_true, decide_eq_true_eq, polarityOf_isSome_iff, flagOf_isSome_iff, and_assoc]

theorem bandsFailure_isNone_iff (stop slow : Nat) :
    (bandsFailure stop slow).isNone = true ↔ stop ≤ 1499 ∧ 1 ≤ slow ∧ slow ≤ 1500 ∧ stop < slow := by
  unfold bandsFailure
  split_ifs <;> simp <;> omega

theorem vector_all {α : Type} {n : Nat} (v : Vector α n) (P : α → Bool) :
    v.toList.all P = true ↔ ∀ i : Fin n, P v[i] = true := by
  rw [vector_toList_eq_map, List.all_eq_true]
  simp

theorem FittedRecord.timebaseGood_iff (f : FittedRecord) : f.timebaseGood = true ↔
    736 ≤ f.period ∧ f.period ≤ 1023 ∧ 720 ≤ f.commitLine ∧ f.commitLine < f.period
    ∧ (∀ k : Fin 4, f.strobes[k] < f.period) ∧ f.phase < f.period ∧ f.genlock.toNat ≤ 1 := by
  simp only [FittedRecord.timebaseGood, Bool.and_eq_true, decide_eq_true_eq, vector_all, flagOf_isSome_iff, and_assoc]

theorem option_all_iff {α : Type} (x : Option α) (P : α → Bool) : x.all P = true ↔ ∀ a, x = some a → P a = true := by
  cases x <;> simp

theorem FittedRecord.settingsGood_iff (f : FittedRecord) : f.settingsGood = true ↔
    (∀ pop, f.population = some pop → pop[1] = true)
    ∧ (∀ n : Fin 8, f.inputs[n].polarity.toNat ≤ 1 ∧ f.inputs[n].debounce ≤ 250 ∧ f.inputs[n].debounce % 10 = 0
      ∧ f.inputs[n].mask.toNat ≤ 1)
    ∧ f.stop ≤ 1499 ∧ 1 ≤ f.slow ∧ f.slow ≤ 1500 ∧ f.stop < f.slow ∧ f.near ≤ 2000
    ∧ 736 ≤ f.period ∧ f.period ≤ 1023 ∧ 720 ≤ f.commitLine ∧ f.commitLine < f.period
    ∧ (∀ k : Fin 4, f.strobes[k] < f.period) ∧ f.phase < f.period ∧ f.genlock.toNat ≤ 1 := by
  simp only [FittedRecord.settingsGood, Bool.and_eq_true, decide_eq_true_eq, option_all_iff, vector_all,
    FittedInput.isGood_iff, bandsFailure_isNone_iff, FittedRecord.timebaseGood_iff, and_assoc]

/-! ## The layers (R47, R181) -/

theorem FittedRecord.candidates_unique {f : FittedRecord} {table : Vector Candidate 24}
    (named : ∀ (i : Fin 24) (r : LayerRecord), f.layerAt i = some r → table[i] = ⟨.fitted, r⟩)
    (free : ∀ i : Fin 24, f.layerAt i = none → table[i] = ⟨.none, LayerRecord.empty⟩) : f.candidates = table := by
  refine Vector.ext fun k hk => (f.candidates_get ⟨k, hk⟩).trans ?_
  cases h : f.layerAt ⟨k, hk⟩ with
  | some r => exact (named ⟨k, hk⟩ r h).symm
  | none => exact (free ⟨k, hk⟩ h).symm

theorem FittedRecord.members_eq (f : FittedRecord) :
    f.members = (List.finRange 24).filter (fun i => decide (f.layerAt i ≠ none)) := by
  refine List.filter_congr fun i _ => ?_
  cases f.layerAt i <;> rfl

theorem FittedRecord.layersGood_iff (f : FittedRecord) (present : Vector Bool 4) : f.layersGood present = true
    ↔ setFailure present (Vector.replicate 16 none) f.candidates f.members = none := Option.isNone_iff_eq_none

/-- Where no slot is named twice, a slot's layer is the one named with it. -/
theorem FittedRecord.layerAt_iff {f : FittedRecord} (once : (f.layers.map FittedLayer.slot).Nodup) (i : Fin 24)
    (r : LayerRecord) : f.layerAt i = some r ↔ ⟨i, r⟩ ∈ f.layers := by
  rw [FittedRecord.layerAt, Option.map_eq_some_iff]
  constructor
  · rintro ⟨x, found, rfl⟩
    obtain rfl : x.slot = i := by simpa using List.find?_some found
    exact List.mem_of_find?_eq_some found
  · intro mem
    cases found : f.layers.find? (fun x => decide (x.slot = i)) with
    | none => exact absurd (decide_eq_true rfl) (List.find?_eq_none.mp found _ mem)
    | some x =>
      have slot : x.slot = i := by simpa using List.find?_some found
      have same := List.inj_on_of_nodup_map once (List.mem_of_find?_eq_some found) mem slot
      exact ⟨x, rfl, congrArg FittedLayer.record same⟩

/-! ## What is read (R188) -/

/-- A record whose check is good: its format, length, check, count and layers (R181, R188). -/
theorem readFitting_eq_some (bs : List Byte) (f : FittedRecord) : readFitting bs = some f ↔
    ¬ (bs.length < 103 ∨ bs.getD 0 0#8 ≠ 0x01#8 ∨ fromLe ((bs.drop 1).take 2) ≠ bs.length - 4
      ∨ BitVec.ofNat 32 (fromLe (bs.drop (bs.length - 4))) ≠ crc32 (bs.take (bs.length - 4))
      ∨ 24 < (bs.getD 98 0#8).toNat)
    ∧ readLayers (bs.getD 98 0#8).toNat ((bs.take (bs.length - 4)).drop 99) = some f.layers
    ∧ (f.layers.map FittedLayer.slot).Nodup ∧ f = readSettings bs f.layers := by
  unfold readFitting
  dsimp only
  split_ifs with bad
  · exact iff_of_false nofun fun h => h.1 bad
  · cases read : readLayers (bs.getD 98 0#8).toNat ((bs.take (bs.length - 4)).drop 99) with
    | none => exact iff_of_false nofun fun h => nomatch h.2.1
    | some layers =>
      dsimp only
      constructor
      · intro h
        split_ifs at h with once
        obtain rfl := Option.some.inj h
        exact ⟨bad, rfl, once, rfl⟩
      · rintro ⟨-, same, once, fields⟩
        obtain rfl := Option.some.inj same
        rw [if_pos once, ← fields]

theorem readFitting_once {bs : List Byte} {f : FittedRecord} (h : readFitting bs = some f) :
    (f.layers.map FittedLayer.slot).Nodup := by
  obtain ⟨-, -, once, -⟩ := (readFitting_eq_some bs f).mp h
  exact once

/-! ## The record accepted (R182) -/

section Accepted

variable {s : State} {f : FittedRecord}

theorem State.settleFitting_of_good {bytes : List Byte} (stored : s.fst.record = .present bytes)
    (read : readFitting bytes = some f) (settings : f.settingsGood = true)
    (layers : f.layersGood (f.population.getD s.cams.population) = true) :
    s.settleFitting = (s.applyFitting f).fittingStatus .loaded := by
  have passes : f.layersGood (s.cams.populationWith f) = true := layers
  simp only [State.settleFitting, stored, read, settings, passes, Bool.true_eq_false, if_false]

variable (settled : s.settleFitting = (s.applyFitting f).fittingStatus .loaded)
include settled

theorem State.booted_of_good : s.booted = ((s.applyFitting f).fittingStatus .loaded).setScn (s.applyFitting f).scn.endBoot := by
  rw [State.booted, settled]
  rfl

theorem State.booted_scn_of_good : s.booted.scn = (s.applyFitting f).scn.endBoot := by
  rw [State.booted_of_good settled, State.setScn_scn]

theorem State.booted_thresholds_of_good : s.booted.scn.stopThreshold = f.stop ∧ s.booted.scn.slowThreshold = f.slow := by
  rw [State.booted_scn_of_good settled]
  exact ⟨rfl, rfl⟩

theorem State.booted_fst_of_good : s.booted.fst.status = .loaded := by
  rw [State.booted_of_good settled]
  rfl

theorem State.booted_mkm_of_good : s.booted.mkm.threshold = f.near := by
  rw [State.booted_of_good settled]
  rfl

theorem State.booted_ftb_of_good : s.booted.ftb = s.ftb.fit f := by
  rw [State.booted_of_good settled]
  rfl

theorem State.booted_cmp_of_good : s.booted.cmp.palette = f.palette := by
  rw [State.booted_of_good settled]
  rfl

theorem State.booted_cams_of_good : s.booted.cams = s.cams.fit f := by
  rw [State.booted_of_good settled]
  rfl

theorem State.booted_ltb_of_good : s.booted.ltb = s.ltb.install f := by
  rw [State.booted_of_good settled]
  rfl

theorem State.booted_input_of_good (n : Fin 8) :
    s.booted.scn.inputs[n] = (s.scn.inputs[n].fit f.inputs[n]).endBoot := by
  have fitted : (s.applyFitting f).scn.inputs[n] = s.scn.inputs[n].fit f.inputs[n] := ofFn_get _ n
  rw [State.booted_scn_of_good settled, ← fitted]
  exact Conditioner.endBoot_input _ n

theorem State.booted_link_of_good {pop : Vector Bool 4} (carried : f.population = some pop) (k : Fin 4) :
    s.booted.cams.links[k] = { s.cams.links[k] with link := if pop[k] then .idle else .absent } := by
  have fitted : (s.cams.fit f).links[k]
      = { s.cams.links[k] with link := if (s.cams.populationWith f)[k] then .idle else .absent } := ofFn_get _ k
  rw [Cameras.populationWith, carried, Option.getD_some] at fitted
  rw [State.booted_cams_of_good settled, fitted]

end Accepted

/-- The end of BOOT leaves an input's settings (R93). -/
theorem Input.endBoot_settings (x : Input) : x.endBoot.polarity = x.polarity ∧ x.endBoot.debounce = x.debounce
    ∧ x.endBoot.mask = x.mask := by
  unfold Input.endBoot
  split <;> exact ⟨rfl, rfl, rfl⟩

theorem Input.fit_settings (x : Input) (g : FittedInput) : (x.fit g).polarity = (polarityOf g.polarity).getD .activeHigh
    ∧ (x.fit g).debounce = g.debounce ∧ (x.fit g).mask = (flagOf g.mask).getD false := by
  unfold Input.fit
  dsimp only
  split_ifs <;> exact ⟨rfl, rfl, rfl⟩

/-- An input takes the settings of a record in range (R93). -/
theorem Input.fit_endBoot_settings (x : Input) {g : FittedInput} (polarity : g.polarity.toNat ≤ 1)
    (mask : g.mask.toNat ≤ 1) : byte (x.fit g).endBoot.polarity.number = g.polarity
      ∧ (x.fit g).endBoot.debounce = g.debounce ∧ flag (x.fit g).endBoot.mask = g.mask := by
  obtain ⟨keptPolarity, keptDebounce, keptMask⟩ := (x.fit g).endBoot_settings
  obtain ⟨fitPolarity, fitDebounce, fitMask⟩ := x.fit_settings g
  obtain ⟨a, ha⟩ := Option.isSome_iff_exists.mp ((polarityOf_isSome_iff _).mpr polarity)
  obtain ⟨l, hl⟩ := Option.isSome_iff_exists.mp ((flagOf_isSome_iff _).mpr mask)
  rw [keptPolarity, keptDebounce, keptMask, fitPolarity, fitDebounce, fitMask, ha, hl]
  exact ⟨polarityOf_some ha, rfl, (flagOf_some hl).symm⟩

/-- Settles O19: the record is applied whole (`State.settleFitting_of_good`), the start of the timebase keeps what it sets
(`State.startRun_keeps`), and the checks are those of the blocks. -/
theorem bootEndInstallsGoodFitting : Obligations.BootEndInstallsGoodFitting := by
  refine ⟨fun out s bytes f part high stored read good layers => ?_, FittedRecord.settingsGood_iff,
    fun f present table named free => ?_⟩
  · have settled := State.settleFitting_of_good stored read good layers
    obtain ⟨-, inputs, -, -, -, -, -, -, -, commitLine, -⟩ := f.settingsGood_iff.mp good
    obtain ⟨-, scn, mkm, fst, ftb, -, -, palette, -, links, kept⟩ := s.booted.startRun_keeps out
    obtain ⟨population, source⟩ := s.booted.startRun_population out
    obtain ⟨stop, slow⟩ := State.booted_thresholds_of_good settled
    have fitted := State.booted_ftb_of_good settled
    have off : s.booted.ftb.commitLine ≠ 0 := by
      rw [fitted]
      exact Nat.ne_of_gt (Nat.lt_of_lt_of_le (by decide) commitLine)
    have slots := (kept off).1.trans (State.booted_ltb_of_good settled)
    rw [Timebase.start_top, fitted] at ftb
    rw [State.booted_cams_of_good settled] at population source
    refine ⟨_, exec_bootEnd_of_boot s out part high, ?_⟩
    generalize s.booted.startRun out = started at *
    have input : ∀ n : Fin 8, (started.raiseAll .stateChanged 1 1).scn.inputs[n]
        = (s.scn.inputs[n].fit f.inputs[n]).endBoot := fun n => by
      rw [State.raiseAll_scn, scn, State.booted_input_of_good settled]
    have slot : ∀ i : Fin 24, (started.raiseAll .stateChanged 1 1).ltb.slots[i] = (s.ltb.install f).slots[i] :=
      fun i => by rw [State.raiseAll_ltb, slots]
    have link : ∀ {pop : Vector Bool 4}, f.population = some pop → ∀ k : Fin 4,
        (started.raiseAll .stateChanged 1 1).cams.links[k] = (CameraLink.enterRun { s.cams.links[k] with
          link := if pop[k] then .idle else .absent }).planRequest.1 := fun carried k => by
      rw [State.raiseAll_cams, links, State.booted_link_of_good settled carried]
    have timebase : (started.raiseAll .stateChanged 1 1).ftb = _ := (State.raiseAll_ftb _ _ _ _).trans ftb
    rw [timebase]
    refine ⟨(congrArg Fitting.status fst).trans (State.booted_fst_of_good settled), population, fun carried => ?source,
      (congrArg Conditioner.stopThreshold scn).trans stop, (congrArg Conditioner.slowThreshold scn).trans slow,
      (congrArg MarkerMap.threshold mkm).trans (State.booted_mkm_of_good settled), rfl, rfl, rfl, rfl, rfl,
      palette.trans (State.booted_cmp_of_good settled), rfl, ?genlock, rfl, rfl, fun n => ?input, fun i r named => ?named,
      fun i free => ?free, FittedRecord.layerAt_iff (readFitting_once read), fun pop carried k x hx => ⟨fun absent => ?absent,
      fun present => ?present⟩⟩
    case source =>
      refine source.trans ?_
      exact if_pos (Option.isSome_iff_ne_none.mpr carried)
    case genlock =>
      rw [Timebase.fit]
      by_cases on : f.genlock = 1#8 <;> simp [on]
    case input =>
      obtain ⟨polarity, -, -, mask⟩ := inputs n
      rw [input]
      exact Input.fit_endBoot_settings _ polarity mask
    case named => rw [slot, LayerTable.install_slot, named]
    case free => rw [slot, LayerTable.install_slot, free]
    case absent =>
      subst hx
      rw [link carried, absent]
      exact CameraLink.enterRun_planRequest_absent rfl
    case present =>
      subst hx
      rw [link carried, present]
      exact CameraLink.first_of_idle rfl
  · rw [FittedRecord.layersGood_iff, FittedRecord.candidates_unique named free, FittedRecord.members_eq]

end Sys2Proof.Machine

/-! A fitting record refused at the end of BOOT, or none (R175, R180, R182, R188): what stays, what is told, and which
bytes are a record whose check is good. -/

namespace Sys2Proof.Machine

/-! ## The first TOP of a part whose table is empty (R142, R147) -/

section FirstTop

variable {s : State}

/-- The counts after a camera's first plan request (R74). -/
theorem CameraLink.countRequest_first {x : CameraLink} (fresh : x.fresh = 0) (starting : x.starting = 0) :
    x.countRequest.fresh ≤ 1 ∧ x.countRequest.starting ≤ 1 := by
  unfold CameraLink.countRequest
  cases x.readySlot <;> dsimp only <;> split_ifs <;> simp [fresh, starting]

/-- A camera that becomes STARTING, and one that is ABSENT, raise nothing at the first plan request (R76). -/
theorem CameraLink.enterRun_silent {x : CameraLink} (h : x.link ∈ [LinkState.absent, .idle]) :
    x.enterRun.planRequest.2 = none := by
  obtain absent | idle : x.link = .absent ∨ x.link = .idle := by simpa using h
  · have still : x.enterRun = x := by rw [CameraLink.enterRun, if_neg (by simp [absent])]
    rw [still, CameraLink.planRequest_of_inactive (.inl absent)]
  · rw [CameraLink.enterRun_idle idle]
    obtain ⟨y, first⟩ : ∃ y : CameraLink, { x with
        link := .starting, miss := 0, fresh := 0, starting := 0, power := decide (x.powerOff = none) } = y := ⟨_, rfl⟩
    rw [first]
    obtain ⟨fresh, starting⟩ := CameraLink.countRequest_first (x := y) (by rw [← first]) (by rw [← first])
    have link : y.link = .starting := by rw [← first]
    rw [CameraLink.planRequest_of_active (by simp [link]) (by simp [link]), CameraLink.moveAfterRequest,
      CameraLink.countRequest_link, link]
    dsimp only
    rw [if_neg (by omega), if_neg (by omega)]

/-- An empty table shows nothing (R143). -/
theorem visibleEntries_of_empty {t : LayerTable} (empty : ∀ i : Fin 24, t.slots[i].owner = .none)
    (regions : Vector (Option Region) 16) (view : Vector Bool 18) (frame : Word16) :
    visibleEntries t regions view frame = [] := by
  have hidden : ∀ i : Fin 24, (isCandidate regions t.slots[i] && isVisible view frame t.slots[i]) = false := by
    intro i
    have free : t.slots[i].owner = .none := empty i
    rw [isCandidate, free, Owner.isOwned, Bool.and_false, Bool.false_and, Bool.false_and]
  rw [visibleEntries, List.filter_eq_nil_iff.mpr fun i _ => by rw [hidden]; exact Bool.false_ne_true]
  rfl

theorem State.planNow_of_empty (empty : ∀ i : Fin 24, s.ltb.slots[i].owner = .none) :
    s.planNow.entries = [] ∧ s.planNow.leftOut = 0 := by
  rw [State.planNow, visibleEntries_of_empty empty]
  exact ⟨rfl, rfl⟩

/-- A line of a plan without entries reads no memory and raises nothing. -/
theorem State.drawLine_ports_of_empty {plan : FramePlan} (planned : s.cmp.plan = some plan) (entries : plan.entries = [])
    (y : Nat) : (s.drawLine y).ports = s.ports := by
  unfold State.drawLine
  rw [planned]
  cases s.cmp.output with
  | picture =>
    dsimp only
    rw [State.drawPicture, entries]
    rfl
  | black | off => rfl

theorem State.startRun_top (out : Surroundings) (off : s.ftb.commitLine ≠ 0) :
    s.startRun out = ((s.readyToRun out).fireTop true out.recHold).canvasLine.strobe := by
  rw [s.startRun_eq out, State.lineEvents_top _ _ _ _ (s.readyToRun_line out) (by simpa [Timebase.start] using off)]

/-- A started timebase loses no GENLOCK at its TOP (R64, R65). -/
theorem State.timebaseTop_start {f : Timebase} (started : s.ftb = f.start) :
    s.timebaseTop true = s.setFtb (s.ftb.top true) := by
  unfold State.timebaseTop
  dsimp only
  rw [State.setFtb_ftb, started, Timebase.start_top]
  refine if_neg fun lost => ?_
  have hunting : f.genlock = .hunting := lost.2
  exact absurd (hunting.symm.trans lost.1) (by decide)

/-- The first TOP of an empty table whose cameras raise nothing. -/
theorem State.fireTop_ports_silent {f : Timebase} (started : s.ftb = f.start) (recHold : Bool)
    (silent : ∀ k : Fin 4, s.cams.links[k].planRequest.2 = none)
    (fits : (s.fireTop true recHold).planNow.leftOut = 0) : (s.fireTop true recHold).ports = s.ports := by
  have opened : (s.openTop recHold).ftb = f.start := (s.openTop_ftb recHold).trans started
  have told : ((s.openTop recHold).timebaseTop true).planRequests.SamePorts (s.setFtb (s.ftb.top true)) := by
    rw [State.timebaseTop_start opened]
    refine State.planRequests_samePorts (told := fun _ => s.setFtb (s.ftb.top true))
      ⟨by simp, by simp⟩ (fun k code raised => ?_) fun _ _ => rfl
    rw [State.setFtb_cams, State.openTop_cams, silent k] at raised
    exact nomatch raised
  rw [State.fireTop_ports s true recHold told, fits, if_neg fun h => absurd h.1 (by decide), State.setFtb_ports]

/-- The start of the timebase with an empty table and no camera in use raises nothing and counts its frame (R65). -/
theorem State.startRun_samePorts (out : Surroundings) (off : s.ftb.commitLine ≠ 0)
    (empty : ∀ i : Fin 24, s.ltb.slots[i].owner = .none)
    (unused : ∀ k : Fin 4, s.cams.links[k].link ∈ [LinkState.absent, .idle]) :
    (s.startRun out).SamePorts (s.setFtb { s.ftb with frame := s.ftb.frame + 1#16 }) := by
  obtain ⟨-, -, -, -, ftb, -⟩ := s.startRun_keeps out
  refine ⟨?_, by rw [ftb, Timebase.start_top]; rfl⟩
  have slots : ∀ i : Fin 24, ((s.readyToRun out).fireTop true out.recHold).ltb.slots[i].owner = .none := by
    simpa using empty
  obtain ⟨entries, fits⟩ := State.planNow_of_empty slots
  have line : ((s.readyToRun out).fireTop true out.recHold).ftb.line = 0 := by
    rw [State.fireTop_ftb, State.readyToRun_ftb, Timebase.start_top]
  have planned : ((s.readyToRun out).fireTop true out.recHold).cmp.plan
      = some ((s.readyToRun out).fireTop true out.recHold).planNow := by
    rw [State.fireTop_cmp]
  have silent : ∀ k : Fin 4, (s.readyToRun out).cams.links[k].planRequest.2 = none := fun k => by
    rw [State.readyToRun_cams, Cameras.mapLinks_link]
    exact CameraLink.enterRun_silent (unused k)
  have top := State.fireTop_ports_silent (s.readyToRun_ftb out) out.recHold silent fits
  rw [State.startRun_top out off, State.strobe_ports]
  generalize (s.readyToRun out).fireTop true out.recHold = t at *
  rw [State.canvasLine_drawn _ (by rw [line]; decide), line, if_neg (by decide),
    State.drawLine_ports_of_empty planned entries, top, State.readyToRun_ports, State.setFtb_ports]

end FirstTop

/-! ## The record refused, or none (R180, R182) -/

section Refused

variable {s : State}

/-- The state that a record refused leaves: the status, and the records that tell of it. -/
def State.refusedFitting (s : State) (status : FittingStatus) (told : State) : State :=
  (s.fittingStatus status).setPorts told.ports

theorem State.fittingBad_eq (s : State) (n : Nat) :
    s.fittingBad n = s.refusedFitting .bad (s.raiseAll .fittingBad 0 n) := rfl

/-- The records that install nothing, with the status and the alert of each (R182). -/
def State.RefusesRecord (s : State) (status : FittingStatus) (told : State) : Prop :=
  (s.fst.record = .absent ∧ status = .none ∧ told = s)
    ∨ (s.fst.record = .spoiled ∧ status = .bad ∧ told = s.raiseAll .fittingBad 0 1)
    ∨ (∃ bytes, s.fst.record = .present bytes ∧ readFitting bytes = none ∧ status = .bad
        ∧ told = s.raiseAll .fittingBad 0 1)
    ∨ (∃ bytes f, s.fst.record = .present bytes ∧ readFitting bytes = some f ∧ f.settingsGood = false
        ∧ status = .bad ∧ told = s.raiseAll .fittingBad 0 2)
    ∨ (∃ bytes f, s.fst.record = .present bytes ∧ readFitting bytes = some f ∧ f.settingsGood = true
        ∧ f.layersGood (f.population.getD s.cams.population) = false ∧ status = .bad
        ∧ told = s.raiseAll .fittingBad 0 3)

theorem State.settleFitting_of_refused {status : FittingStatus} {told : State} (h : s.RefusesRecord status told) :
    s.settleFitting = s.refusedFitting status told := by
  obtain ⟨stored, rfl, rfl⟩ | ⟨stored, rfl, rfl⟩ | ⟨bytes, stored, read, rfl, rfl⟩
    | ⟨bytes, f, stored, read, settings, rfl, rfl⟩ | ⟨bytes, f, stored, read, settings, layers, rfl, rfl⟩ := h
  · simp only [State.settleFitting, stored]
    rfl
  · simp only [State.settleFitting, stored, State.fittingBad_eq]
  · simp only [State.settleFitting, stored, read, State.fittingBad_eq]
  · simp only [State.settleFitting, stored, read, settings, if_true, State.fittingBad_eq]
  · have fails : f.layersGood (s.cams.populationWith f) = false := layers
    simp only [State.settleFitting, stored, read, settings, fails, Bool.true_eq_false, if_false, if_true,
      State.fittingBad_eq]

theorem State.booted_of_refused {status : FittingStatus} {told : State} (h : s.RefusesRecord status told) :
    s.booted = (s.refusedFitting status told).setScn s.scn.endBoot := by
  rw [State.booted, State.settleFitting_of_refused h]
  rfl

end Refused

end Sys2Proof.Machine

/-! Which bytes are a fitting record whose check is good (R181, R185, R188). -/

namespace Sys2Proof.Machine

/-! ## The settings that the bytes spell (11.1.6) -/

theorem fromLe_lt : ∀ bs : List Byte, fromLe bs < 256 ^ bs.length
  | [] => by decide
  | b :: bs => by
    have := fromLe_lt bs
    have := b.isLt
    rw [fromLe, List.length_cons, Nat.pow_succ]
    omega

theorem fromLe_take_two (bs : List Byte) (i : Nat) :
    fromLe ((bs.drop i).take 2) = (bs.getD i 0#8).toNat + 256 * (bs.getD (i + 1) 0#8).toNat := by
  have first : bs.getD i 0#8 = (bs.drop i).getD 0 0#8 := by simp [List.getD_eq_getElem?_getD]
  have second : bs.getD (i + 1) 0#8 = (bs.drop i).getD 1 0#8 := by simp [List.getD_eq_getElem?_getD]
  rw [first, second]
  obtain _ | ⟨b, _ | ⟨c, rest⟩⟩ := bs.drop i
  · rfl
  · simp [fromLe]
  · simp [fromLe]

theorem eq_ofFn_iff {α : Type} {n : Nat} (v : Vector α n) (g : Fin n → α) : v = Vector.ofFn g ↔ ∀ k : Fin n, v[k] = g k :=
  ⟨fun h k => h ▸ ofFn_get g k, fun h => Vector.ext fun k hk => (h ⟨k, hk⟩).trans (ofFn_get g ⟨k, hk⟩).symm⟩

theorem population_iff (b : Byte) (x : Option (Vector Bool 4)) :
    (x = if bit b 7 then some (Vector.ofFn fun k : Fin 4 => bit b k.val) else none)
    ↔ (b.getLsbD 7 = false → x = none)
      ∧ (b.getLsbD 7 = true → ∃ pop, x = some pop ∧ ∀ k : Fin 4, pop[k] = b.getLsbD k.val) := by
  cases carried : b.getLsbD 7 with
  | false => simp only [bit, carried, Bool.false_eq_true, if_false, true_implies, false_implies, and_true]
  | true =>
    simp only [bit, carried, if_true, Bool.true_eq_false, false_implies, true_implies, true_and]
    exact ⟨fun h => ⟨_, h, fun k => ofFn_get _ k⟩, fun ⟨pop, h, bits⟩ => h.trans (congrArg some ((eq_ofFn_iff _ _).mpr bits))⟩

theorem FittedRecord.eq_iff (f g : FittedRecord) : f = g ↔ f.population = g.population ∧ f.inputs = g.inputs
    ∧ f.stop = g.stop ∧ f.slow = g.slow ∧ f.near = g.near ∧ f.period = g.period ∧ f.commitLine = g.commitLine
    ∧ f.strobes = g.strobes ∧ f.phase = g.phase ∧ f.genlock = g.genlock ∧ f.palette = g.palette
    ∧ f.layers = g.layers := by
  cases f
  cases g
  exact iff_of_eq (FittedRecord.mk.injEq ..)

/-- The settings of a record whose byte at `i` is `get i` and whose number at `i` is `two i` (11.1.6). -/
def FittedRecord.SettingsAt (f : FittedRecord) (get : Nat → Byte) (two : Nat → Nat) : Prop :=
  ((get 3).getLsbD 7 = false → f.population = none)
  ∧ ((get 3).getLsbD 7 = true → ∃ pop, f.population = some pop ∧ ∀ k : Fin 4, pop[k] = (get 3).getLsbD k.val)
  ∧ (∀ n : Fin 8, f.inputs[n] = ⟨get (4 + 3 * n.val), (get (5 + 3 * n.val)).toNat, get (6 + 3 * n.val)⟩)
  ∧ f.stop = two 28 ∧ f.slow = two 30 ∧ f.near = two 32 ∧ f.period = two 34 ∧ f.commitLine = two 36
  ∧ (∀ k : Fin 4, f.strobes[k] = two (38 + 2 * k.val)) ∧ f.phase = two 46 ∧ f.genlock = get 48
  ∧ (∀ k : Fin 16, f.palette[k] = ⟨get (50 + 3 * k.val), get (51 + 3 * k.val), get (52 + 3 * k.val)⟩)

section Read

variable {bs body crc : List Byte} {f : FittedRecord} {get : Nat → Byte} {two : Nat → Nat}

theorem readSettings_iff (bytes : ∀ i ≤ 98, bs.getD i 0#8 = get i)
    (words : ∀ i ≤ 97, fromLe ((bs.drop i).take 2) = two i) :
    f = readSettings bs f.layers ↔ f.SettingsAt get two := by
  have input : ∀ n : Fin 8, (⟨bs.getD (4 + 3 * n.val) 0#8, (bs.getD (5 + 3 * n.val) 0#8).toNat,
      bs.getD (6 + 3 * n.val) 0#8⟩ : FittedInput)
      = ⟨get (4 + 3 * n.val), (get (5 + 3 * n.val)).toNat, get (6 + 3 * n.val)⟩ := fun n => by
    rw [bytes _ (by omega), bytes _ (by omega), bytes _ (by omega)]
  have strobe : ∀ k : Fin 4, fromLe ((bs.drop (38 + 2 * k.val)).take 2) = two (38 + 2 * k.val) :=
    fun k => words _ (by omega)
  have dropped : ∀ i ≤ 48, (bs.drop 50).getD i 0#8 = get (50 + i) := fun i short => by
    rw [← bytes _ (by omega), List.getD_eq_getElem?_getD, List.getElem?_drop, List.getD_eq_getElem?_getD]
  have colour : ∀ k : Fin 16, (⟨(bs.drop 50).getD (3 * k.val) 0#8, (bs.drop 50).getD (3 * k.val + 1) 0#8,
      (bs.drop 50).getD (3 * k.val + 2) 0#8⟩ : Colour)
      = ⟨get (50 + 3 * k.val), get (51 + 3 * k.val), get (52 + 3 * k.val)⟩ := fun k => by
    rw [dropped _ (by omega), dropped _ (by omega), dropped _ (by omega)]
    congr 2 <;> omega
  rw [FittedRecord.eq_iff, readSettings, FittedRecord.SettingsAt]
  dsimp only
  rw [population_iff, eq_ofFn_iff, paletteFrom, eq_ofFn_iff, eq_ofFn_iff, bytes 3 (by decide), bytes 48 (by decide),
    words 28 (by decide), words 30 (by decide), words 32 (by decide), words 34 (by decide), words 36 (by decide),
    words 46 (by decide)]
  simp only [input, strobe, colour, and_true, and_assoc]

/-- The checks of a record in its two parts (R181, R188). -/
theorem readFitting_append (four : crc.length = 4) (at_ : ∀ i, get i = body.getD i 0#8)
    (word : ∀ i, two i = (get i).toNat + 256 * (get (i + 1)).toNat) :
    readFitting (body ++ crc) = some f ↔ fromLe crc = (crc32 body).toNat ∧ 99 ≤ body.length ∧ get 0 = 0x01#8
      ∧ two 1 = body.length ∧ f.SettingsAt get two ∧ (get 98).toNat ≤ 24
      ∧ readLayers (get 98).toNat (body.drop 99) = some f.layers ∧ (f.layers.map FittedLayer.slot).Nodup := by
  rw [readFitting_eq_some, List.length_append, four, Nat.add_sub_cancel, List.take_left, List.drop_left]
  by_cases long : 99 ≤ body.length
  · have bytes : ∀ i ≤ 98, (body ++ crc).getD i 0#8 = get i := fun i short => by
      rw [at_, List.getD_append _ _ _ _ (by omega)]
    have words : ∀ i ≤ 97, fromLe (((body ++ crc).drop i).take 2) = two i := fun i short => by
      rw [fromLe_take_two, bytes i (by omega), bytes (i + 1) (by omega), word]
    have check : BitVec.ofNat 32 (fromLe crc) = crc32 body ↔ fromLe crc = (crc32 body).toNat := by
      have small : fromLe crc < 2 ^ 32 := by simpa [four] using fromLe_lt crc
      rw [← BitVec.toNat_inj, BitVec.toNat_ofNat, Nat.mod_eq_of_lt small]
    rw [bytes 0 (by decide), bytes 98 (by decide), words 1 (by decide), ← readSettings_iff bytes words]
    simp only [not_or, not_not, check, Nat.not_lt]
    constructor
    · rintro ⟨⟨-, format, length, crcGood, few⟩, layers, once, settings⟩
      exact ⟨crcGood, long, format, length, settings, few, layers, once⟩
    · rintro ⟨crcGood, -, format, length, settings, few, layers, once⟩
      exact ⟨⟨by omega, format, length, crcGood, few⟩, layers, once, settings⟩
  · exact iff_of_false (fun h => h.1 (.inl (by omega))) fun h => long h.2.1

/-- A record whose check is good has its four check bytes. -/
theorem readFitting_split (h : readFitting bs = some f) : ∃ body crc : List Byte, bs = body ++ crc ∧ crc.length = 4 := by
  have long : 103 ≤ bs.length := by
    by_contra short
    exact ((readFitting_eq_some bs f).mp h).1 (.inl (by omega))
  exact ⟨bs.take (bs.length - 4), bs.drop (bs.length - 4), (List.take_append_drop _ _).symm, by simp; omega⟩

end Read

/-- Settles O20: a record refused, or none, changes the status alone before the timebase starts
(`State.booted_of_refused`), which then raises nothing (`State.startRun_samePorts`); and `readFitting` reads what
`readFitting_append` says of the body and its check, with the layers of `readLayers_iff`. -/
theorem bootEndRefusesBadFitting : Obligations.BootEndRefusesBadFitting := by
  refine ⟨fun out s part high off status told refused => ?_, fun bs f holds spells => ?_⟩
  · have booted := State.booted_of_refused refused
    obtain ⟨-, scn, mkm, fst, ftb, -, -, palette, -, -, kept⟩ := s.booted.startRun_keeps out
    obtain ⟨population, source⟩ := s.booted.startRun_population out
    have silent := s.booted.startRun_samePorts out
    rw [booted] at scn mkm fst ftb palette kept population source silent
    rw [Timebase.start_top] at ftb
    obtain ⟨ltb, -⟩ := kept off
    refine ⟨_, exec_bootEnd_of_boot s out part high, ?_⟩
    rw [booted]
    generalize ((s.refusedFitting status told).setScn s.scn.endBoot).startRun out = started at *
    have timebase : (started.raiseAll .stateChanged 1 1).ftb = _ := (State.raiseAll_ftb _ _ _ _).trans ftb
    have conditioner : (started.raiseAll .stateChanged 1 1).scn = s.scn.endBoot := (State.raiseAll_scn _ _ _ _).trans scn
    have fitting : (started.raiseAll .stateChanged 1 1).fst = { s.fst with status := status } :=
      (State.raiseAll_fst _ _ _ _).trans fst
    rw [timebase, conditioner, fitting]
    refine ⟨rfl, rfl, (State.raiseAll_ltb _ _ _ _).trans ltb, palette,
      rfl, rfl, (State.raiseAll_mkm _ _ _ _).trans mkm, population, source, rfl, rfl, rfl, rfl, rfl, rfl, fun n => ?_,
      fun empty unused => ?_⟩
    · rw [Conditioner.endBoot_input]
      exact Input.endBoot_settings _
    · obtain ⟨ports, counted⟩ := silent off empty unused
      exact State.raiseAll_ports_congr ports counted _ _ _
  · have spelled : (fun c l => l.spelledBy c) = holds := by
      funext c l
      refine propext (Iff.trans ?_ (spells c l).symm)
      constructor
      · rintro ⟨_, ⟨a, e, part, enabled, cls, kind, blink, record, z, x, y, w, w', h, h', alpha, terms, content, rfl⟩, rfl⟩
        exact ⟨a, e, part, _, rfl, enabled, cls, kind, blink, record, z, x, y, w, w', h, h', alpha, terms, content,
          by simp [termBytes]⟩
      · rintro ⟨a, e, part, _, rfl, enabled, cls, kind, blink, record, z, x, y, w, w', h, h', alpha, terms, content, rfl⟩
        exact ⟨_, ⟨a, e, part, enabled, cls, kind, blink, record, z, x, y, w, w', h, h', alpha, terms, content, rfl⟩,
          by simp [termBytes]⟩
    constructor
    · intro read
      obtain ⟨body, crc, rfl, four⟩ := readFitting_split read
      obtain ⟨check, long, format, length, settings, few, layers, once⟩ :=
        (readFitting_append four (fun _ => rfl) (fun _ => rfl)).mp read
      obtain ⟨count, chunks, all, each⟩ := (readLayers_iff _ _ _).mp layers
      obtain ⟨absent, carried, inputs, stop, slow, near, period, commitLine, strobes, phase, genlock, palette⟩ := settings
      exact ⟨body, crc, chunks, _, _, rfl, four, check, long, fun _ => rfl, fun _ => rfl, format, length, absent, carried,
        inputs, stop, slow, near, period, commitLine, strobes, phase, genlock, palette, count ▸ few, count.symm, once, all,
        spelled ▸ each⟩
    · rintro ⟨body, crc, chunks, get, two, rfl, four, check, long, at_, word, format, length, absent, carried, inputs, stop,
        slow, near, period, commitLine, strobes, phase, genlock, palette, few, count, once, all, each⟩
      subst spelled
      refine (readFitting_append four at_ word).mpr ⟨check, long, format, length, ⟨absent, carried, inputs, stop, slow,
        near, period, commitLine, strobes, phase, genlock, palette⟩, count ▸ few, ?_, once⟩
      exact (readLayers_iff _ _ _).mpr ⟨count.symm, chunks, all, each⟩

end Sys2Proof.Machine
